-- ==== Sys2Proof/Word.lean ====
section
/-! DEFINITION. The word types of the KH16 (spec/00_scope.md R2, spec/04_core.md R89) and their plainest arithmetic. -/

namespace Sys2Proof

/-- A g register or core register: 64 bits (R89, R92). -/
abbrev Word := BitVec 64

/-- A 32-bit value: an instruction word, a literal, a token's DATA, an n32 (R7, R119). -/
abbrev W32 := BitVec 32

/-- One byte of a memory space. -/
abbrev Byte := BitVec 8

/-- The number of a g register, 0 to 31 (R120). -/
abbrev Reg := BitVec 5

end Sys2Proof
end

