-- ==== Sys2Proof/Machine/Num.lean ====
section
/-! DEFINITION. Numbers to the bit (spec/02_numbers.md): formats, decoding, the function Round, the arithmetic of R61 to R63,
conversions (R36, R67), bx32 (R33 to R35), the chunk sum of the matrix array (R43) and CRC-32C (R222). -/

namespace Sys2Proof.Machine

/-- An exact dyadic number: (-1)^neg × man × 2^exp. Zero keeps its sign. -/
structure Dy where
  neg : Bool
  man : Nat
  exp : Int
  deriving DecidableEq, Repr

/-- What a floating-point encoding stands for (R30). -/
inductive FVal where
  | nan
  | inf (neg : Bool)
  | fin (d : Dy)
  deriving DecidableEq, Repr

/-- A binary floating-point format (R30 to R32): fraction width, bias, largest exponent field of a finite value, largest
fraction at that exponent, whether it has infinities, its canonical NaN and its width in bits. -/
structure FFmt where
  w : Nat
  bias : Int
  maxX : Nat
  maxF : Nat
  hasInf : Bool
  nan : Nat
  bits : Nat
  deriving DecidableEq, Repr

def fp32Fmt : FFmt := ⟨23, 127, 254, 0x7FFFFF, true, 0x7FC00000, 32⟩
def bf16Fmt : FFmt := ⟨7, 127, 254, 0x7F, true, 0x7FC0, 16⟩
def fp16Fmt : FFmt := ⟨10, 15, 30, 0x3FF, true, 0x7E00, 16⟩
def e4m3Fmt : FFmt := ⟨3, 7, 15, 6, false, 0x7F, 8⟩
def e5m2Fmt : FFmt := ⟨2, 15, 30, 3, true, 0x7E, 8⟩

/-- An integer format (R36). -/
structure IFmt where
  signed : Bool
  bits : Nat
  deriving DecidableEq, Repr

/-- A format code (R29): floating point, bx32, integer. -/
inductive Fmt where
  | flt (f : FFmt)
  | bx
  | int (i : IFmt)
  deriving DecidableEq, Repr

/-- R29's table. Codes 0xE and 0xF name no format. -/
def fmtOf (c : BitVec 4) : Option Fmt :=
  match c.toNat with
  | 0 => some (.flt fp32Fmt)
  | 1 => some (.flt bf16Fmt)
  | 2 => some (.flt fp16Fmt)
  | 3 => some (.flt e4m3Fmt)
  | 4 => some (.flt e5m2Fmt)
  | 5 => some .bx
  | 6 => some (.int ⟨true, 8⟩)
  | 7 => some (.int ⟨true, 16⟩)
  | 8 => some (.int ⟨true, 32⟩)
  | 9 => some (.int ⟨true, 64⟩)
  | 10 => some (.int ⟨false, 8⟩)
  | 11 => some (.int ⟨false, 16⟩)
  | 12 => some (.int ⟨false, 32⟩)
  | 13 => some (.int ⟨false, 64⟩)
  | _ => none

/-- The size of one value of a format in packed memory, in bytes (R29, R194: a bx32 element is one byte). -/
def fmtSize (c : BitVec 4) : Nat :=
  match fmtOf c with
  | some (.flt f) => f.bits / 8
  | some .bx => 1
  | some (.int i) => i.bits / 8
  | none => 1

/-- Decode the low bits of `x` in format `f` (R30 to R32). -/
def decodeF (f : FFmt) (x : Nat) : FVal :=
  let neg := x / 2 ^ (f.bits - 1) % 2 == 1
  let ex := x / 2 ^ f.w % 2 ^ (f.bits - 1 - f.w)
  let fr := x % 2 ^ f.w
  if f.hasInf && ex == f.maxX + 1 then (if fr == 0 then .inf neg else .nan)
  else if !f.hasInf && ex == f.maxX && f.maxF < fr then .nan
  else if ex == 0 then .fin ⟨neg, fr, 1 - f.bias - f.w⟩
  else .fin ⟨neg, 2 ^ f.w + fr, (ex : Int) - f.bias - f.w⟩

/-! ### Rounding (R37, R38) -/

/-- Does the magnitude `n + (rem / 2^sh, or a little more when sticky)` round up to `n + 1` in mode `rm`? -/
def roundsUp (rm : BitVec 3) (neg : Bool) (n rem sh : Nat) (sticky : Bool) : Bool :=
  let inexact := rem != 0 || sticky
  let half := 2 ^ sh
  let above := half < 2 * rem || (half == 2 * rem && sticky)
  let tie := half == 2 * rem && !sticky
  match rm.toNat with
  | 0 => above || (tie && n % 2 == 1)
  | 1 => false
  | 2 => neg && inexact
  | 3 => !neg && inexact
  | 4 => above || tie
  | _ => false

/-- The multiple of 2^lsb that mode `rm` chooses for (-1)^neg × (man + sticky) × 2^exp; the result counts units of 2^lsb.
`sticky` says that the true magnitude lies strictly between man and man + 1 units of 2^exp. -/
def roundMag (rm : BitVec 3) (neg : Bool) (man : Nat) (exp : Int) (sticky : Bool) (lsb : Int) : Nat :=
  if lsb ≤ exp then
    let n := man * 2 ^ (exp - lsb).toNat
    if sticky && roundsUp rm neg n 0 1 true then n + 1 else n
  else
    let sh := (lsb - exp).toNat
    let n := man / 2 ^ sh
    if roundsUp rm neg n (man % 2 ^ sh) sh sticky then n + 1 else n

/-- RoundInt of R37: a dyadic magnitude to an integer. -/
def roundInt (rm : BitVec 3) (neg : Bool) (man : Nat) (exp : Int) (sticky : Bool) : Int :=
  let n := roundMag rm neg man exp sticky 0
  if neg then -(n : Int) else n

def signBit (f : FFmt) (neg : Bool) : Nat := if neg then 2 ^ (f.bits - 1) else 0

/-- The largest finite value of sign `neg`. -/
def maxFinite (f : FFmt) (neg : Bool) : Nat := signBit f neg + f.maxX * 2 ^ f.w + f.maxF

/-- What an overflowing value or an infinity gives (R38): an infinity, or in e4m3 a NaN of its sign. -/
def infinityOf (f : FFmt) (neg : Bool) : Nat :=
  if f.hasInf then signBit f neg + (f.maxX + 1) * 2 ^ f.w else signBit f neg + 0x7F

/-- Round of R38 for a finite value and a floating-point destination. `flush` is the unit's flush of subnormal results. -/
def roundFin (f : FFmt) (rm : BitVec 3) (sat flush : Bool) (neg : Bool) (man : Nat) (exp : Int) (sticky : Bool) : Nat :=
  if man == 0 && !sticky then signBit f neg else
  let lsb := max ((Nat.log2 man : Int) + exp - f.w) (1 - f.bias - f.w)
  let n0 := roundMag rm neg man exp sticky lsb
  let carry := n0 == 2 ^ (f.w + 1)
  let n := if carry then 2 ^ f.w else n0
  let l := if carry then lsb + 1 else lsb
  if n == 0 then signBit f neg
  else if n < 2 ^ f.w then (if flush then signBit f neg else signBit f neg + n)
  else
    let x := (l + f.w + f.bias).toNat
    let fr := n - 2 ^ f.w
    if f.maxX < x || (x == f.maxX && f.maxF < fr) then
      (if sat then maxFinite f neg else infinityOf f neg)
    else signBit f neg + x * 2 ^ f.w + fr

/-- Smallest and largest value of an integer format. -/
def intMin (i : IFmt) : Int := if i.signed then -(2 ^ (i.bits - 1) : Nat) else 0
def intMax (i : IFmt) : Int := if i.signed then (2 ^ (i.bits - 1) : Nat) - 1 else (2 ^ i.bits : Nat) - 1

/-- The bits of an integer in its format: the low `bits` bits (R36). -/
def intBits (i : IFmt) (v : Int) : Nat := (v % (2 ^ i.bits : Nat)).toNat

/-- The integer indefinite of R38. -/
def intIndefinite (i : IFmt) : Nat := if i.signed then 2 ^ (i.bits - 1) else 2 ^ i.bits - 1

/-- Round of R38 for any value and a floating-point destination. -/
def roundF (f : FFmt) (rm : BitVec 3) (sat flush : Bool) : FVal → Nat
  | .nan => f.nan
  | .inf neg => if f.hasInf then infinityOf f neg else if sat then maxFinite f neg else infinityOf f neg
  | .fin d => roundFin f rm sat flush d.neg d.man d.exp false

/-- Round of R38 for any value and an integer destination. -/
def roundI (i : IFmt) (rm : BitVec 3) (sat : Bool) : FVal → Nat
  | .nan => if sat then 0 else intIndefinite i
  | .inf neg => if sat then intBits i (if neg then intMin i else intMax i) else intIndefinite i
  | .fin d =>
    let v := roundInt rm d.neg d.man d.exp false
    if v < intMin i then (if sat then intBits i (intMin i) else intIndefinite i)
    else if intMax i < v then (if sat then intBits i (intMax i) else intIndefinite i)
    else intBits i v

/-! ### Exact arithmetic on dyadics -/

/-- The signed mantissa of `d` in units of 2^e, for e ≤ d.exp. -/
def dyScaled (d : Dy) (e : Int) : Int :=
  let m : Nat := d.man * 2 ^ (d.exp - e).toNat
  if d.neg then -(m : Int) else m

/-- x + y exactly; an exact zero sum takes its sign by rule 5 of R42. -/
def dyAdd (rm : BitVec 3) (x y : Dy) : Dy :=
  let e := min x.exp y.exp
  let s := dyScaled x e + dyScaled y e
  if s == 0 then ⟨if x.neg == y.neg then x.neg else rm.toNat == 2, 0, e⟩
  else ⟨decide (s < 0), s.natAbs, e⟩

def dyMul (x y : Dy) : Dy := ⟨x.neg != y.neg, x.man * y.man, x.exp + y.exp⟩
def dyNeg (x : Dy) : Dy := { x with neg := !x.neg }
def dyAbs (x : Dy) : Dy := { x with neg := false }
def dyOfInt (v : Int) : Dy := ⟨decide (v < 0), v.natAbs, 0⟩

/-- x < y as real numbers. -/
def dyLt (x y : Dy) : Bool :=
  let e := min x.exp y.exp
  decide (dyScaled x e < dyScaled y e)

def dyEq (x y : Dy) : Bool :=
  let e := min x.exp y.exp
  decide (dyScaled x e = dyScaled y e)

def dyLe (x y : Dy) : Bool := dyLt x y || dyEq x y

/-- Floor(Log2(|x|)) of a non-zero dyadic. -/
def dyLog2 (x : Dy) : Int := (Nat.log2 x.man : Int) + x.exp

/-! ### The fp operations of R61 to R63, before Round -/

def fAdd (rm : BitVec 3) : FVal → FVal → FVal
  | .nan, _ => .nan
  | _, .nan => .nan
  | .inf a, .inf b => if a == b then .inf a else .nan
  | .inf a, .fin _ => .inf a
  | .fin _, .inf b => .inf b
  | .fin x, .fin y => .fin (dyAdd rm x y)

def fNeg : FVal → FVal
  | .nan => .nan
  | .inf a => .inf (!a)
  | .fin x => .fin (dyNeg x)

def fMul : FVal → FVal → FVal
  | .nan, _ => .nan
  | _, .nan => .nan
  | .inf a, .inf b => .inf (a != b)
  | .inf a, .fin y => if y.man == 0 then .nan else .inf (a != y.neg)
  | .fin x, .inf b => if x.man == 0 then .nan else .inf (x.neg != b)
  | .fin x, .fin y => .fin (dyMul x y)

def fMulAdd (rm : BitVec 3) (x y z : FVal) : FVal := fAdd rm (fMul x y) z

/-- The integer square root, bit by bit from bit `k` down. -/
def isqrtGo (n : Nat) : Nat → Nat → Nat
  | 0, r => if (r + 1) * (r + 1) ≤ n then r + 1 else r
  | k + 1, r => isqrtGo n k (if (r + 2 ^ (k + 1)) * (r + 2 ^ (k + 1)) ≤ n then r + 2 ^ (k + 1) else r)

def isqrt (n : Nat) : Nat := isqrtGo n (Nat.log2 n / 2 + 1) 0

/-- x / y delivered through Round (R61, R62). -/
def fDiv (f : FFmt) (rm : BitVec 3) (sat : Bool) : FVal → FVal → Nat
  | .nan, _ => f.nan
  | _, .nan => f.nan
  | .inf _, .inf _ => f.nan
  | .inf a, .fin y => infinityOf f (a != y.neg)
  | .fin x, .inf b => signBit f (x.neg != b)
  | .fin x, .fin y =>
    let neg := x.neg != y.neg
    if y.man == 0 then (if x.man == 0 then f.nan else infinityOf f neg)
    else if x.man == 0 then signBit f neg
    else
      let s := f.w + 4 + Nat.log2 y.man
      let q := x.man * 2 ^ s / y.man
      roundFin f rm sat false neg q (x.exp - y.exp - s) (x.man * 2 ^ s % y.man != 0)

/-- √x delivered through Round (R61, R62). -/
def fSqrt (f : FFmt) (rm : BitVec 3) (sat : Bool) : FVal → Nat
  | .nan => f.nan
  | .inf neg => if neg then f.nan else infinityOf f false
  | .fin x =>
    if x.man == 0 then signBit f x.neg
    else if x.neg then f.nan
    else
      let odd := x.exp % 2 == 1
      let s := 2 * (f.w + 4)
      let m := (if odd then 2 * x.man else x.man) * 2 ^ s
      let e := (if odd then x.exp - 1 else x.exp) - s
      let r := isqrt m
      roundFin f rm sat false false r (e / 2) (r * r != m)

/-- 1 / √x delivered through Round (R61, R62). -/
def fRsqrt (f : FFmt) (rm : BitVec 3) (sat : Bool) : FVal → Nat
  | .nan => f.nan
  | .inf neg => if neg then f.nan else signBit f false
  | .fin x =>
    if x.man == 0 then infinityOf f x.neg
    else if x.neg then f.nan
    else
      let odd := x.exp % 2 == 1
      let m := if odd then 2 * x.man else x.man
      let e := if odd then x.exp - 1 else x.exp
      let k := f.w + 4 + Nat.log2 m
      let q := 2 ^ (2 * k) / m
      let r := isqrt q
      roundFin f rm sat false false r (-(e / 2) - k) (r * r * m != 2 ^ (2 * k))

/-- A rounded value as an FVal again, in format `f`. -/
def reF (f : FFmt) (bits : Nat) : FVal := decodeF f bits

/-! ### fp32 operations on bits -/

abbrev F32 := BitVec 32

def f32 (x : F32) : FVal := decodeF fp32Fmt x.toNat
def toF32 (n : Nat) : F32 := BitVec.ofNat 32 n
def nan32 : F32 := 0x7FC00000#32
def inf32 : F32 := 0x7F800000#32

def isNaN32 (x : F32) : Bool := f32 x == .nan

def isInf32 (x : F32) : Bool :=
  match f32 x with
  | .inf _ => true
  | _ => false

def fadd32 (rm : BitVec 3) (sat : Bool) (x y : F32) : F32 := toF32 (roundF fp32Fmt rm sat false (fAdd rm (f32 x) (f32 y)))
def fsub32 (rm : BitVec 3) (sat : Bool) (x y : F32) : F32 :=
  toF32 (roundF fp32Fmt rm sat false (fAdd rm (f32 x) (fNeg (f32 y))))
def fmul32 (rm : BitVec 3) (sat : Bool) (x y : F32) : F32 := toF32 (roundF fp32Fmt rm sat false (fMul (f32 x) (f32 y)))
def fdiv32 (rm : BitVec 3) (sat : Bool) (x y : F32) : F32 := toF32 (fDiv fp32Fmt rm sat (f32 x) (f32 y))
def fsqrt32 (rm : BitVec 3) (sat : Bool) (x : F32) : F32 := toF32 (fSqrt fp32Fmt rm sat (f32 x))
def frsq32 (rm : BitVec 3) (sat : Bool) (x : F32) : F32 := toF32 (fRsqrt fp32Fmt rm sat (f32 x))
def fma32 (rm : BitVec 3) (sat : Bool) (x y z : F32) : F32 :=
  toF32 (roundF fp32Fmt rm sat false (fMulAdd rm (f32 x) (f32 y) (f32 z)))
def fms32 (rm : BitVec 3) (sat : Bool) (x y z : F32) : F32 :=
  toF32 (roundF fp32Fmt rm sat false (fMulAdd rm (f32 x) (f32 y) (fNeg (f32 z))))

/-- FRCP (R61, R62): 1 / x; 1 / ±0 is ±∞ and 1 / ±∞ is a zero of the operand's sign. -/
def frcp32 (rm : BitVec 3) (sat : Bool) (x : F32) : F32 := toF32 (fDiv fp32Fmt rm sat (.fin ⟨false, 1, 0⟩) (f32 x))

/-- FRND (R61, R62): x to an integral value; a zero result keeps the operand's sign. -/
def frnd32 (rm : BitVec 3) (x : F32) : F32 :=
  match f32 x with
  | .nan => nan32
  | .inf neg => toF32 (infinityOf fp32Fmt neg)
  | .fin d => toF32 (roundFin fp32Fmt rm false false d.neg (roundMag rm d.neg d.man d.exp false 0) 0 false)

/-- The order of R63 and R65 as an integer: −0 directly below +0. -/
def orderKey32 (x : F32) : Int :=
  let m : Nat := x.toNat % 2 ^ 31
  if x.msb then -(m : Int) - 1 else m

/-- FMIN and FMAX (R63): −0 below +0; a canonical NaN when either is NaN. -/
def fmin32 (x y : F32) : F32 :=
  if isNaN32 x || isNaN32 y then nan32 else if orderKey32 y < orderKey32 x then y else x
def fmax32 (x y : F32) : F32 :=
  if isNaN32 x || isNaN32 y then nan32 else if orderKey32 x < orderKey32 y then y else x

/-- FABS and FNEG (R63): a NaN gives the canonical NaN. -/
def fabs32 (x : F32) : F32 := if isNaN32 x then nan32 else x &&& 0x7FFFFFFF#32
def fneg32 (x : F32) : F32 := if isNaN32 x then nan32 else x ^^^ 0x80000000#32

/-- x < y and x = y of two values neither of which is NaN; −0 = +0 (R65). -/
def lt32 (x y : F32) : Bool :=
  match f32 x, f32 y with
  | .inf a, .inf b => a && !b
  | .inf a, .fin _ => a
  | .fin _, .inf b => !b
  | .fin a, .fin b => dyLt a b
  | _, _ => false

def eq32 (x y : F32) : Bool :=
  match f32 x, f32 y with
  | .inf a, .inf b => a == b
  | .fin a, .fin b => dyEq a b
  | _, _ => false

/-- The condition codes of R65 on fp32 values. -/
def fcond (c : BitVec 3) (x y : F32) : Bool :=
  let un := isNaN32 x || isNaN32 y
  match c.toNat with
  | 0 => !un && eq32 x y
  | 1 => un || !eq32 x y
  | 2 => !un && lt32 x y
  | 3 => !un && (lt32 x y || eq32 x y)
  | 4 => !un && lt32 y x
  | 5 => !un && (lt32 y x || eq32 x y)
  | 6 => un
  | _ => !un

/-- The condition codes of R65 on integers, signed or unsigned; codes 6 and 7 are refused at load. -/
def icond (c : BitVec 3) (signed : Bool) (x y : W32) : Bool :=
  let lt (a b : W32) : Bool := if signed then a.slt b else a.ult b
  match c.toNat with
  | 0 => x == y
  | 1 => x != y
  | 2 => lt x y
  | 3 => lt x y || x == y
  | 4 => lt y x
  | 5 => lt y x || x == y
  | _ => false

/-! ### bx32 (R33 to R35) -/

/-- Decode a bx32 element byte with its block's exponents (R34). -/
def decodeBx (el e0 e1 : Nat) : FVal :=
  let neg := el / 128 % 2 == 1
  let e := if el / 64 % 2 == 1 then e1 else e0
  let m := el % 64
  if e == 0xFF then (if m == 0 then .inf neg else .nan)
  else .fin ⟨neg, m, (e : Int) - 132⟩

/-- |Q(x, E)| of R35: the magnitude of x / 2^(E − 132) rounded to an integer. -/
def bxQ (rm : BitVec 3) (x : Dy) (e : Int) : Nat := roundMag rm x.neg x.man (x.exp - (e - 132)) false 0

def fvalFinite : FVal → Bool
  | .fin _ => true
  | _ => false

/-- The largest finite magnitude of a block, as a dyadic (zero if none). -/
def bxMax : List FVal → Dy
  | [] => ⟨false, 0, 0⟩
  | .fin d :: t => let m := bxMax t; if dyLt m (dyAbs d) then dyAbs d else m
  | _ :: t => bxMax t

def bxSign : FVal → Bool
  | .nan => false
  | .inf n => n
  | .fin d => d.neg

/-- QuantiseBx32 of R35 on the values of one block: the element bytes, E0 and E1. -/
def quantiseBx (xs : List FVal) (rm : BitVec 3) (sat : Bool) (d : Nat) : List Nat × Nat × Nat :=
  let a := bxMax xs
  let e1 : Int :=
    if a.man == 0 then 0
    else
      let e := dyLog2 a + 127
      let e := if bxQ rm a e == 64 then e + 1 else e
      if e < 0 then 0 else e
  let special := xs.any (fun x => !fvalFinite x)
  let E1 : Nat :=
    if special then 0xFF
    else if 0xFE < e1 then (if sat then 0xFE else 0xFF)
    else e1.toNat
  let E0 : Nat := if special then (if 0xFE < e1 then 0xFE else e1.toNat) else E1 - d
  let el (x : FVal) : Nat :=
    match x with
    | .nan => 64 + 1
    | .inf n => (if n then 128 else 0) + 64
    | .fin v =>
      let s := if v.neg then 128 else 0
      let q0 := bxQ rm v E0
      if q0 ≤ 63 then s + q0
      else if E1 == 0xFF then s + 64
      else s + 64 + min (bxQ rm v E1) 63
  (xs.map el, E0, E1)

/-! ### Conversions (R29, R36, R67, R155) -/

/-- The value of the low bits of `x` in a format other than an integer one; a bx32 source carries E0 and E1 in bits 23:8 (R29). -/
def decodeFmt (fm : Fmt) (x : Nat) : FVal :=
  match fm with
  | .flt f => decodeF f (x % 2 ^ f.bits)
  | .bx => decodeBx (x % 256) (x / 256 % 256) (x / 65536 % 256)
  | .int i =>
    let u := x % 2 ^ i.bits
    .fin (dyOfInt (if i.signed && 2 ^ (i.bits - 1) ≤ u then (u : Int) - (2 ^ i.bits : Nat) else u))

/-- The integer value of the low bits of `x` in an integer format. -/
def intValue (i : IFmt) (x : Nat) : Int :=
  let u := x % 2 ^ i.bits
  if i.signed && 2 ^ (i.bits - 1) ≤ u then (u : Int) - (2 ^ i.bits : Nat) else u

/-- FCVT (R67, R155): the bits of the result in its own width. Between integers without SAT the result keeps the low bits of the value (R36), also
where a negative value goes to a wider unsigned format, which R36 does not name (DESIGN CHOICE, log 85). -/
def convert (src dst : Fmt) (rm : BitVec 3) (sat : Bool) (x : Nat) : Nat :=
  match src, dst with
  | .int i, .int o =>
    let v := intValue i x
    if sat then intBits o (max (intMin o) (min (intMax o) v)) else intBits o v
  | s, .int o => roundI o rm sat (decodeFmt s x)
  | s, .flt f => roundF f rm sat false (decodeFmt s x)
  | _, .bx => 0

/-- The token layout of R29 in DATA[31:0]: i8 and i16 sign-extended, every other format zero-extended. -/
def tokenLayout (fm : Fmt) (x : Nat) : W32 :=
  match fm with
  | .int ⟨true, 8⟩ => (BitVec.ofNat 8 x).signExtend 32
  | .int ⟨true, 16⟩ => (BitVec.ofNat 16 x).signExtend 32
  | .flt f => BitVec.ofNat 32 (x % 2 ^ f.bits)
  | .int i => BitVec.ofNat 32 (x % 2 ^ i.bits)
  | .bx => BitVec.ofNat 32 (x % 2 ^ 24)

/-! ### The matrix array (R41, R43) -/

/-- FlushSub (R41): a subnormal of the operand's own format becomes a zero of its sign. -/
def flushSub (fm : Fmt) (v : FVal) : FVal :=
  match fm, v with
  | .flt f, .fin d => if dyLt (dyAbs d) ⟨false, 1, 1 - f.bias⟩ then .fin ⟨d.neg, 0, d.exp⟩ else v
  | _, v => v

/-- RoundRNE32 of R43: the exact window sum with its sticky bit. -/
def roundSticky32 (neg : Bool) (man : Nat) (exp : Int) (sticky : Bool) : Nat :=
  -- four guard bits below the window's lowest bit, where the sticky counts as a non-zero fraction
  roundFin fp32Fmt 0 false false neg (man * 16) (exp - 4) sticky

/-- ChunkSum of R43 over the products of one chunk; the values are already flushed. -/
def chunkSum (ps : List (FVal × FVal)) : FVal :=
  let prods := ps.map (fun p => fMul p.1 p.2)
  let hasNan := prods.any (fun p => p == .nan)
  let pos := prods.any (fun p => p == .inf false)
  let neg := prods.any (fun p => p == .inf true)
  if hasNan || (pos && neg) then .nan
  else if pos then .inf false
  else if neg then .inf true
  else
    let ds := prods.filterMap (fun p => match p with | .fin d => some d | _ => none)
    let nz := ds.filter (fun d => d.man != 0)
    match nz with
    | [] => .fin ⟨ds.all (fun d => d.neg), 0, 0⟩
    | d0 :: t =>
      let emax := t.foldl (fun m d => max m (dyLog2 d)) (dyLog2 d0)
      let lsb := emax - 34
      let trunc (d : Dy) : Int × Bool :=
        let n := roundMag 1 d.neg d.man d.exp false lsb
        (if d.neg then -(n : Int) else n, !dyEq ⟨false, n, lsb⟩ (dyAbs d))
      let acc := nz.foldl (fun (s : Int × Bool) d => let r := trunc d; (s.1 + r.1, s.2 || r.2)) (0, false)
      if acc.1 == 0 then .fin ⟨false, 0, 0⟩
      else decodeF fp32Fmt (roundSticky32 (decide (acc.1 < 0)) acc.1.natAbs lsb acc.2)

/-! ### CRC-32C (R222) -/

/-- One bit of the reflected Castagnoli CRC. -/
def crcBit (c : BitVec 32) : BitVec 32 := if c.getLsbD 0 then (c >>> 1) ^^^ 0x82F63B78#32 else c >>> 1

def crcByte (c : BitVec 32) (b : Byte) : BitVec 32 :=
  crcBit (crcBit (crcBit (crcBit (crcBit (crcBit (crcBit (crcBit (c ^^^ b.zeroExtend 32))))))))

/-- CRC-32C: polynomial 0x1EDC_6F41 reflected, initial value and final XOR all ones (R222). -/
def crc32c (bs : List Byte) : BitVec 32 := (bs.foldl crcByte 0xFFFFFFFF#32) ^^^ 0xFFFFFFFF#32

end Sys2Proof.Machine
end

