-- ==== Sys2Proof/Config.lean ====
section
/-! DEFINITION. What an implementation fixes and the free values of the model (log 3): constants without a body, so that
no proof can know one. A free value is applied to the counter `State.free`, which the reader advances. -/

namespace Sys2Proof

/-- The package number in CID bits 31:16 (R92). -/
opaque Config.packageNumber : BitVec 16

/-- Cycles, beyond one, that pass in the n-th step (log 4: cycle counts are left out). -/
opaque Config.elapsed : Nat → Nat

/-- Which line of a full cache set is dropped: evictions happen "at times no program can choose" (R408). -/
opaque Config.cacheVictim : Nat → Nat

/-- The raw differential reading c_j of column j in a fire (R272), as mantissa and binary exponent: physical. -/
opaque Config.columnReading : Nat → Nat → Int × Int

/-- The raw reading of reference r (0 REFA, 1 REFB) in a fire (R274), as mantissa and binary exponent: physical. -/
opaque Config.referenceReading : Nat → Nat → Int × Int

/-- The OFS measured by a calibration for column j, before the clamp (R277): physical. -/
opaque Config.measuredOffset : Nat → Nat → Int

/-- The GAIN measured by a calibration for column j, before the clamp (R277): physical. -/
opaque Config.measuredGain : Nat → Nat → Nat

/-- The conductance factor DRF measured by a calibration (R277), fp32 bits before the clamp: physical. -/
opaque Config.measuredFactor : Nat → BitVec 32

/-- The final drift check of a calibration on phase 3's readings (R277): physical. -/
opaque Config.calibrationPasses : Nat → Bool

/-- TVAL of the PROT that a lasting fault of the weight-slice SRAM raises: no rule states it (R268). -/
opaque Config.weightFaultValue : Nat → BitVec 64


/-- SHA3-512 (R397, R398), a published standard, uninterpreted here. -/
opaque Config.sha3 : List Byte → BitVec 512

/-- ML-DSA-87 signing with the device identity key (R398): the 4,627 bytes of the signature over a digest. -/
opaque Config.deviceSign : BitVec 512 → Nat → Byte

/-- Bits 63:40 of a report's fence word, by the fenced ports: R417 has the ports' fences show there, R398 does not state how. -/
opaque Config.attestPorts : List Nat → BitVec 24

/-- The port that carries a flow at first, by process and slot (R417 leaves it open). -/
opaque Config.flowPort : Nat → Nat → Nat

/-- The PC of a service core when a droop record is captured (R394, R400): the spec gives a service core no other state. -/
opaque Config.servicePc : Nat → BitVec 64

/-- The digest of the ROM identity, M0 of the measurement chain (R398). -/
opaque Config.romDigest : BitVec 512

/-- The SHA3-512 digest of Lerrath's public key held in fuses (R397). -/
opaque Config.vendorKey : BitVec 512

/-- Where Hythen places new pages (R395 leaves it to Hythen): their virtual address, the stack where the task leaves it open, and the
pages of its own memory that become page tables. -/
opaque Config.placedAt : Nat → BitVec 64
opaque Config.placedOn : Nat → Nat
opaque Config.placedTables : Nat → List Nat

/-- The row id that a home gives a new segment among the rows free to it (R342 leaves the choice open). -/
opaque Config.rowChoice : Nat → Nat

/-- The bytes of a save area whose layout the part fixes (R233), and those of a spill record (R376), by number of the write and offset. -/
opaque Config.saveByte : Nat → Nat → Byte
opaque Config.spillByte : Nat → Nat → Byte

end Sys2Proof
end

