-- ==== Sys2Proof/Machine/Map.lean ====
section
/-! DEFINITION. Sparse data by number: a list of (key, value) pairs, keys rising, with a default for an unlisted key. -/

namespace Sys2Proof.Machine

/-- Sparse data: an unlisted key holds a default that each reader names. -/
abbrev Map (α : Type) := List (Nat × α)

/-- The value at key `n`, or `d` where none is listed. -/
def Map.get {α : Type} (d : α) : Map α → Nat → α
  | [], _ => d
  | (k, v) :: t, n => if n = k then v else Map.get d t n

/-- The value at key `n`, if one is listed. -/
def Map.find {α : Type} : Map α → Nat → Option α
  | [], _ => none
  | (k, v) :: t, n => if n = k then some v else Map.find t n

/-- List value `v` at key `n`, keeping the keys rising. -/
def Map.set {α : Type} : Map α → Nat → α → Map α
  | [], n, v => [(n, v)]
  | (k, w) :: t, n, v =>
    if n = k then (n, v) :: t
    else if n < k then (n, v) :: (k, w) :: t
    else (k, w) :: Map.set t n v

/-- Remove what is listed at key `n`. -/
def Map.erase {α : Type} : Map α → Nat → Map α
  | [], _ => []
  | (k, w) :: t, n => if n = k then Map.erase t n else (k, w) :: Map.erase t n

/-- Write `v` at key `n` in canonical form: an entry equal to the default `d` is not listed. -/
def Map.put {α : Type} [DecidableEq α] (d : α) (m : Map α) (n : Nat) (v : α) : Map α :=
  if v = d then Map.erase m n else Map.set m n v

/-- The canonical form from key `lo` on: keys strictly rising, no value equal to the default. -/
def Map.wfFrom {α : Type} [DecidableEq α] (d : α) : Nat → Map α → Bool
  | _, [] => true
  | lo, (k, v) :: t => decide (lo ≤ k) && decide (v ≠ d) && Map.wfFrom d (k + 1) t

/-- The canonical form. -/
def Map.wf {α : Type} [DecidableEq α] (d : α) (m : Map α) : Bool := Map.wfFrom d 0 m

/-- Change the value at key `n` by `f`. -/
def Map.modify {α : Type} (d : α) (m : Map α) (n : Nat) (f : α → α) : Map α := Map.set m n (f (Map.get d m n))

end Sys2Proof.Machine
end

