-- ==== Sys2Proof/Syntax.lean ====
section
/-! DEFINITION. The instructions and steps of spec/opcode_table.json, one constructor a row, in the table's order: first the
encoded control-thread instructions (spec/06_formats.md), with their fields as the encoding has them, then the steps of the
other agents, whose operands name the unit that steps and what its environment chooses. -/

namespace Sys2Proof

/-- The hasp flags of an S-format instruction: ACQ, REL and the register HR (R120). -/
structure HaspFlags where
  acq : Bool
  rel : Bool
  hr : Reg
  deriving DecidableEq, Repr

/-- The operands of CPY and CPYM (R132): channel, destination and source registers, length register, space codes, EI, EST. -/
structure CopyArgs where
  ch : BitVec 3
  gd : Reg
  gs : Reg
  len : Reg
  dsp : BitVec 3
  ssp : BitVec 3
  ei : Bool
  est : Bool
  fl : HaspFlags
  deriving DecidableEq, Repr

/-- The operands of MMUL (R134): command stream, acc: and act: address registers, operand register, activation format. -/
structure MmulArgs where
  s : BitVec 2
  gd : Reg
  a : Reg
  opnd : Reg
  fmt : BitVec 4
  fl : HaspFlags
  deriving DecidableEq, Repr

/-- Where a token is that hops (R15, R58): a router stage (router, output 0 to 29 in the order of R225), the internal result
stages of a target, an input port queue; or a router whose stage or switch field fails its parity as a token hops (R28). -/
inductive HopSource where
  | stage (r o : Nat)
  | pipe (t : Nat)
  | inPort (k : Nat)
  | badStage (r : Nat)
  | badSwitch (r : Nat)
  deriving DecidableEq, Repr

/-- A parity error found at a firing (R25, R28): in the element's configuration, in the token of a port, in a stage or switch field
of its router. -/
inductive ParityError where
  | config
  | token (port : Nat)
  | stage
  | switchField
  deriving DecidableEq, Repr

/-- Where a drain enters (R211): an input port or a source element. -/
inductive DrainPoint where
  | inPort (k : Nat)
  | source (t : Nat)
  deriving DecidableEq, Repr

/-- Why quiescence is asked for (R105): a pre-emption, the pre-emption of a waiting task (R374), a context save, a precise stop. -/
inductive QuiesceCause where
  | preempt
  | waiting
  | save
  | stop
  deriving DecidableEq, Repr

/-- What check bits find on an access (R249, R320): nothing, a corrected bit, a double-bit error gone at the re-read, one that
stays. -/
inductive EccOutcome where
  | clean
  | corrected
  | transient
  | lasting
  deriving DecidableEq, Repr

/-- An operation that arrives at a hasp's home (R285). -/
inductive HaspOp where
  | init (mode : Nat) (count : Nat) (key : Nat)
  | acquire
  | release
  | arrive
  | signal (n : Word)
  | wait
  | join
  | leave
  deriving DecidableEq, Repr

/-- Whose scan takes a step (R341): a SCAN stream of the core, or the FMRGF at the head of an issuer's queue. -/
inductive ScanSource where
  | stream (e slot : Nat)
  | merge (issuer : Nat)
  deriving DecidableEq, Repr

/-- How a migration ends (R328): on a new frame, returned to the old frame, or with its faults fatal. -/
inductive MigrationEnd where
  | done (frame : Nat)
  | returned
  | fatal
  deriving DecidableEq, Repr

/-- What Hythen makes of an escalated fault (R328): resolved, with the frame it gives a page that has none; or fatal with a reason. -/
inductive Escalation where
  | resolved (frame : Option Nat)
  | fatal (reason : Nat)
  deriving DecidableEq, Repr

/-- A binding of a mailbox slot (R366): slot, entry PC, image addresses, priority, die. -/
structure BindSpec where
  slot : Nat
  entry : Word
  images : List Word
  prio : Nat
  die : Nat
  deriving DecidableEq, Repr

/-- What a program load places (R142, R351, R366): sections as (virtual address, bytes), fibre headers as (virtual address, fields of
ATTR below TENANT, pool), bindings. -/
structure ProgramImage where
  proc : Nat
  sections : List (Word × List Byte)
  fibres : List (Word × Nat × Nat)
  binds : List BindSpec
  deriving DecidableEq, Repr

/-- An image as the root of trust sees it (R397): header and body, version, the digest of the key that comes with it, and whether the
signature over the digest verifies (log 40). -/
structure SignedImage where
  bytes : List Byte
  version : Nat
  key : BitVec 512
  signed : Bool
  deriving DecidableEq, Repr

/-- What fails the self-tests of steps 1 to 4 (R396, R401): dies, links by key, elements as (core, element), DRAM words by physical
address, store lines as (cluster, line), weight slots and lanes as (cluster, number), routers as (core, router); and where Hythen keeps the shim
records of a stack, by the offset in it (R276). -/
structure SelfTest where
  dies : List Nat
  links : List Nat
  elements : List (Nat × Nat)
  words : List Nat
  lines : List (Nat × Nat)
  wslots : List (Nat × Nat)
  lanes : List (Nat × Nat)
  shims : List (Nat × Nat) := []
  routers : List (Nat × Nat) := []
  deriving DecidableEq, Repr

/-- What check bits find in a weight slot that an MMUL reads (R268): a word with a lasting error lies in a column. -/
inductive WeightOutcome where
  | clean
  | corrected
  | transient
  | lasting (column : Nat)
  deriving DecidableEq, Repr

/-- The lane in which a fire ends (R272), and whether the lane proves lastingly faulty in it (R279, R401). -/
structure FireEnd where
  lane : Nat
  fault : Bool := false
  deriving DecidableEq, Repr

/-- An acknowledgement (R420): which of the operations in flight it is of, oldest first, and its CODE. -/
structure FlowAck where
  op : Nat := 0
  code : Nat
  deriving DecidableEq, Repr

/-- An operation in flight of a flow slot that the transport gives up on (R420): the slot, which of its operations in flight, oldest first. -/
structure FlowLoss where
  slot : Nat
  op : Nat := 0
  deriving DecidableEq, Repr

/-- What a remote operation does here (R412, R418): a launch, a copy, a fibre merge. -/
inductive RemoteWork where
  | launch (dst handle arg : Word)
  | copy (dst : Word) (bytes : List Byte)
  | merge (dst : Word) (key val : W32) (fmt : BitVec 4)
  deriving DecidableEq, Repr

/-- An operation that reaches the receive agent of a flow (R412, R413): the process, whether the flow is ordered, the work, the hasp
that it releases. -/
structure RemoteOp where
  proc : Nat
  ordered : Bool
  work : RemoteWork
  href : Option Word
  deriving DecidableEq, Repr

/-- What process creation sets up (R253, R322, R364, R418, R219): tenant, table root, table entries by physical address,
default hasp, launch page, send page and fault-record page by virtual address, the launch page's die. -/
structure ProcessSpec where
  proc : Nat
  tenant : Nat
  root : Nat
  entries : List (Nat × Word)
  hasp : Word
  launchVa : Word
  sendVa : Word
  faultVa : Word
  deriving DecidableEq, Repr

/-- The end of a tenant's hold on a die (R377): the region Hythen restores it with (process, address, records), or none where the region it
has works again. -/
structure HoldEnd where
  tenant : Nat
  region : Option (Nat × Nat × Nat)
  deriving DecidableEq, Repr

/-- The quotas of a tenant on one die (R370, R376, R342, R246, R261, R269, R328): `spill` is its spill region there (process, address, records;
R376), `save` the memory for save areas (address, areas; R233). -/
structure TenantQuota where
  tenant : Nat
  die : Nat
  weight : Nat
  slots : Nat
  cores : List Nat
  shared : List Nat
  cls : List (Nat × Nat × Nat)
  wslots : List (Nat × Nat)
  arrays : List (Nat × Nat)
  pool : Nat
  quota : Nat
  slack : Nat
  rows : List Nat
  frames : List Nat
  large : List Nat
  spill : Option (Nat × Nat × Nat) := none
  save : Option (Nat × Nat) := none
  deriving DecidableEq, Repr

/-- The binding of a flow slot (R418): process, slot, destination package and process, reliable ordered or unordered. -/
structure FlowBinding where
  proc : Nat
  slot : Nat
  package : Nat
  dest : Nat
  ordered : Bool
  deriving DecidableEq, Repr

/-- A live-expert record (R422): process, address of the record, hasp L, placement table (package, stack). -/
structure ExpertRecord where
  proc : Nat
  addr : Word
  hasp : Word
  placement : List (Nat × Nat)
  deriving DecidableEq, Repr

/-- One constructor per row of spec/opcode_table.json. -/
inductive Instr where
  /-- ADD (R150): Adds two registers modulo 2^64 into gd. -/
  | add (d : Reg) (a : Reg) (b : Reg)
  /-- ADD_LITERAL (R150): Adds a register and a sign-extended literal word into gd. -/
  | addLit (d : Reg) (a : Reg) (lit : W32)
  /-- SUB (R150): Subtracts two registers modulo 2^64 into gd. -/
  | sub (d : Reg) (a : Reg) (b : Reg)
  /-- SUB_LITERAL (R150): Subtracts a literal word from a register into gd. -/
  | subLit (d : Reg) (a : Reg) (lit : W32)
  /-- MUL (R150): Writes the low 64 bits of the product of two registers. -/
  | mul (d : Reg) (a : Reg) (b : Reg)
  /-- MUL_LITERAL (R150): Writes the low 64 bits of a register times a literal. -/
  | mulLit (d : Reg) (a : Reg) (lit : W32)
  /-- MULH (R150): Writes the high 64 bits of the signed 128-bit product. -/
  | mulh (d : Reg) (a : Reg) (b : Reg)
  /-- MULH_LITERAL (R150): Signed high product of a register and a literal. -/
  | mulhLit (d : Reg) (a : Reg) (lit : W32)
  /-- MULHN (R150): Writes the high 64 bits of the unsigned 128-bit product. -/
  | mulhn (d : Reg) (a : Reg) (b : Reg)
  /-- MULHN_LITERAL (R150): Unsigned high product of a register and a literal. -/
  | mulhnLit (d : Reg) (a : Reg) (lit : W32)
  /-- DIV (R151): Signed division rounded toward zero, with defined results for zero and overflow. -/
  | div (d : Reg) (a : Reg) (b : Reg)
  /-- DIV_LITERAL (R151): Signed division of a register by a literal. -/
  | divLit (d : Reg) (a : Reg) (lit : W32)
  /-- DIVN (R151): Unsigned division, all ones on division by zero. -/
  | divn (d : Reg) (a : Reg) (b : Reg)
  /-- DIVN_LITERAL (R151): Unsigned division of a register by a literal. -/
  | divnLit (d : Reg) (a : Reg) (lit : W32)
  /-- REM (R151): Signed remainder with the sign of x; x on division by zero. -/
  | rem (d : Reg) (a : Reg) (b : Reg)
  /-- REM_LITERAL (R151): Signed remainder of a register by a literal. -/
  | remLit (d : Reg) (a : Reg) (lit : W32)
  /-- REMN (R151): Unsigned remainder; x on division by zero. -/
  | remn (d : Reg) (a : Reg) (b : Reg)
  /-- REMN_LITERAL (R151): Unsigned remainder of a register by a literal. -/
  | remnLit (d : Reg) (a : Reg) (lit : W32)
  /-- AND (R150): Bitwise AND of two registers. -/
  | and (d : Reg) (a : Reg) (b : Reg)
  /-- AND_LITERAL (R150): Bitwise AND of a register and a literal. -/
  | andLit (d : Reg) (a : Reg) (lit : W32)
  /-- OR (R150): Bitwise OR of two registers. -/
  | or (d : Reg) (a : Reg) (b : Reg)
  /-- OR_LITERAL (R150): Bitwise OR of a register and a literal. -/
  | orLit (d : Reg) (a : Reg) (lit : W32)
  /-- XOR (R150): Bitwise XOR of two registers. -/
  | xor (d : Reg) (a : Reg) (b : Reg)
  /-- XOR_LITERAL (R150): Bitwise XOR of a register and a literal. -/
  | xorLit (d : Reg) (a : Reg) (lit : W32)
  /-- ANDN (R150): x AND NOT y of two registers. -/
  | andn (d : Reg) (a : Reg) (b : Reg)
  /-- ANDN_LITERAL (R150): x AND NOT literal. -/
  | andnLit (d : Reg) (a : Reg) (lit : W32)
  /-- SLL (R150): Shifts left by y[5:0]. -/
  | sll (d : Reg) (a : Reg) (b : Reg)
  /-- SLL_LITERAL (R150): Shifts left by a literal amount. -/
  | sllLit (d : Reg) (a : Reg) (lit : W32)
  /-- SRL (R150): Logical right shift by y[5:0]. -/
  | srl (d : Reg) (a : Reg) (b : Reg)
  /-- SRL_LITERAL (R150): Logical right shift by a literal amount. -/
  | srlLit (d : Reg) (a : Reg) (lit : W32)
  /-- SRA (R150): Arithmetic right shift by y[5:0]. -/
  | sra (d : Reg) (a : Reg) (b : Reg)
  /-- SRA_LITERAL (R150): Arithmetic right shift by a literal amount. -/
  | sraLit (d : Reg) (a : Reg) (lit : W32)
  /-- SLT (R150): Writes 1 if x < y signed, else 0. -/
  | slt (d : Reg) (a : Reg) (b : Reg)
  /-- SLT_LITERAL (R150): Signed compare of a register with a literal. -/
  | sltLit (d : Reg) (a : Reg) (lit : W32)
  /-- SLTN (R150): Writes 1 if x < y unsigned, else 0. -/
  | sltn (d : Reg) (a : Reg) (b : Reg)
  /-- SLTN_LITERAL (R150): Unsigned compare of a register with a literal. -/
  | sltnLit (d : Reg) (a : Reg) (lit : W32)
  /-- CLZ (R150): Counts leading zero bits of a register. -/
  | clz (d : Reg) (a : Reg)
  /-- POPC (R150): Counts one bits of a register. -/
  | popc (d : Reg) (a : Reg)
  /-- ADDI (R152): Adds a sign-extended immediate to a register. -/
  | addi (d : Reg) (a : Reg) (imm : BitVec 16)
  /-- ANDI (R152): ANDs a zero-extended immediate. -/
  | andi (d : Reg) (a : Reg) (imm : BitVec 16)
  /-- ORI (R152): ORs a zero-extended immediate. -/
  | ori (d : Reg) (a : Reg) (imm : BitVec 16)
  /-- XORI (R152): XORs a zero-extended immediate. -/
  | xori (d : Reg) (a : Reg) (imm : BitVec 16)
  /-- SLLI (R152): Shifts left by imm[5:0]. -/
  | slli (d : Reg) (a : Reg) (sh : BitVec 6)
  /-- SRLI (R152): Logical right shift by imm[5:0]. -/
  | srli (d : Reg) (a : Reg) (sh : BitVec 6)
  /-- SRAI (R152): Arithmetic right shift by imm[5:0]. -/
  | srai (d : Reg) (a : Reg) (sh : BitVec 6)
  /-- SLTI (R152): Writes 1 if the register is below the sign-extended immediate. -/
  | slti (d : Reg) (a : Reg) (imm : BitVec 16)
  /-- LUI (R152): Writes sext(imm) × 2^16 with E = 0. -/
  | lui (d : Reg) (imm : BitVec 16)
  /-- FADD (R153): Scalar fp32 addition rounded by Round. -/
  | fadd (d : Reg) (a : Reg) (b : Reg) (rm : BitVec 3) (sat : Bool)
  /-- FADD_LITERAL (R153): Scalar fp32 addition with an fp32 literal. -/
  | faddLit (d : Reg) (a : Reg) (lit : W32) (rm : BitVec 3) (sat : Bool)
  /-- FSUB (R153): Scalar fp32 subtraction. -/
  | fsub (d : Reg) (a : Reg) (b : Reg) (rm : BitVec 3) (sat : Bool)
  /-- FSUB_LITERAL (R153): Scalar fp32 subtraction of a literal. -/
  | fsubLit (d : Reg) (a : Reg) (lit : W32) (rm : BitVec 3) (sat : Bool)
  /-- FMUL (R153): Scalar fp32 multiplication. -/
  | fmul (d : Reg) (a : Reg) (b : Reg) (rm : BitVec 3) (sat : Bool)
  /-- FMUL_LITERAL (R153): Scalar fp32 multiplication by a literal. -/
  | fmulLit (d : Reg) (a : Reg) (lit : W32) (rm : BitVec 3) (sat : Bool)
  /-- FDIV (R153): Scalar fp32 division. -/
  | fdiv (d : Reg) (a : Reg) (b : Reg) (rm : BitVec 3) (sat : Bool)
  /-- FDIV_LITERAL (R153): Scalar fp32 division by a literal. -/
  | fdivLit (d : Reg) (a : Reg) (lit : W32) (rm : BitVec 3) (sat : Bool)
  /-- FSQRT (R153): Scalar fp32 square root. -/
  | fsqrt (d : Reg) (a : Reg) (rm : BitVec 3) (sat : Bool)
  /-- FMA (R153): gd ← ga × gb + gd with one rounding. -/
  | fma (d : Reg) (a : Reg) (b : Reg) (rm : BitVec 3) (sat : Bool)
  /-- FMA_LITERAL (R153): Fused multiply-add with an fp32 literal operand. -/
  | fmaLit (d : Reg) (a : Reg) (lit : W32) (rm : BitVec 3) (sat : Bool)
  /-- FMIN (R154): Scalar fp32 minimum under R63. -/
  | fmin (d : Reg) (a : Reg) (b : Reg)
  /-- FMIN_LITERAL (R154): Scalar fp32 minimum with a literal. -/
  | fminLit (d : Reg) (a : Reg) (lit : W32)
  /-- FMAX (R154): Scalar fp32 maximum under R63. -/
  | fmax (d : Reg) (a : Reg) (b : Reg)
  /-- FMAX_LITERAL (R154): Scalar fp32 maximum with a literal. -/
  | fmaxLit (d : Reg) (a : Reg) (lit : W32)
  /-- FCMP (R154): Writes 1 or 0 by the condition of R65. -/
  | fcmp (d : Reg) (a : Reg) (b : Reg) (cond : BitVec 3)
  /-- FCMP_LITERAL (R154): Compares a register with an fp32 literal. -/
  | fcmpLit (d : Reg) (a : Reg) (lit : W32) (cond : BitVec 3)
  /-- ACCEPT (R305): Turns an estimate into an exact value if its bound meets the literal tolerance, else traps BOUND. -/
  | accept (d : Reg) (a : Reg) (b : Reg) (half : Bool) (tol : W32)
  /-- FCVT (R155): Converts a register between number formats by R67. -/
  | fcvt (d : Reg) (a : Reg) (dst : BitVec 4) (rm : BitVec 3) (sat : Bool) (src : BitVec 4)
  /-- ERET (R176): Returns from a trap: PC ← TPC, TA ← 0. -/
  | eret
  /-- YIELD (R172): Offers the core to the scheduler, saving the context if a task is queued. -/
  | yield
  /-- RETIRE (R173): Waits for commands and the launch, writes back the cache, leaves groups and frees the core. -/
  | retire
  /-- FENCE_I (R175): Writes back the data cache and invalidates the instruction cache and fetch buffer. -/
  | fenceI
  /-- SPAWN (R174): Writes back the data cache and creates a task from a kernel handle's binding. -/
  | spawn (d : Reg) (a : Reg) (b : Reg)
  /-- TRAP (R170): Sends a service request with a code and g1–g6 to Hythen and waits for the reply in g1. -/
  | trap (code : BitVec 16)
  /-- BRK (R171): Completes and raises BRK, or makes a precise stop when a debugger is attached. -/
  | brk (code : BitVec 16)
  /-- CRRD (R169): Reads a core register into gd with E = 0. -/
  | crrd (d : Reg) (n : BitVec 10)
  /-- CRWR (R169): Writes a core register that has no behaviour of its own, under the checks of R91. -/
  | crwr (a : Reg) (n : BitVec 10)
  /-- CRWR_PTRG (R214): A write to PTRG with ARM = 1 waits for any switch, checks the target plane and arms the trigger. -/
  | crwrPtrg (a : Reg)
  /-- CRWR_INJ (R94): A write to INJ arms or disarms an injected drift on the COUNT-th accepted XFIRE. -/
  | crwrInj (a : Reg)
  /-- ATOM_ADD (R160): Atomically adds g[b] to memory and returns the old value. -/
  | atomAdd (d : Reg) (a : Reg) (b : Reg) (space : BitVec 3) (dbl : Bool)
  /-- ATOM_AND (R160): Atomic AND returning the old value. -/
  | atomAnd (d : Reg) (a : Reg) (b : Reg) (space : BitVec 3) (dbl : Bool)
  /-- ATOM_OR (R160): Atomic OR returning the old value. -/
  | atomOr (d : Reg) (a : Reg) (b : Reg) (space : BitVec 3) (dbl : Bool)
  /-- ATOM_XOR (R160): Atomic XOR returning the old value. -/
  | atomXor (d : Reg) (a : Reg) (b : Reg) (space : BitVec 3) (dbl : Bool)
  /-- ATOM_MIN (R160): Atomic signed minimum returning the old value. -/
  | atomMin (d : Reg) (a : Reg) (b : Reg) (space : BitVec 3) (dbl : Bool)
  /-- ATOM_MAX (R160): Atomic signed maximum returning the old value. -/
  | atomMax (d : Reg) (a : Reg) (b : Reg) (space : BitVec 3) (dbl : Bool)
  /-- ATOM_MINN (R160): Atomic unsigned minimum returning the old value. -/
  | atomMinn (d : Reg) (a : Reg) (b : Reg) (space : BitVec 3) (dbl : Bool)
  /-- ATOM_MAXN (R160): Atomic unsigned maximum returning the old value. -/
  | atomMaxn (d : Reg) (a : Reg) (b : Reg) (space : BitVec 3) (dbl : Bool)
  /-- ATOM_SWAP (R160): Atomic swap returning the old value. -/
  | atomSwap (d : Reg) (a : Reg) (b : Reg) (space : BitVec 3) (dbl : Bool)
  /-- ATOM_CAS (R160): Atomic compare-and-swap against g[d], returning the old value. -/
  | atomCas (d : Reg) (a : Reg) (b : Reg) (space : BitVec 3) (dbl : Bool)
  /-- LMARK_EMPTY (R162): Sets F ← 0 on a run of buffer lines. -/
  | lmarkEmpty (a : Reg) (b : Reg) (space : BitVec 3)
  /-- LMARK_FULL (R162): Sets F ← 1 on a run of buffer lines. -/
  | lmarkFull (a : Reg) (b : Reg) (space : BitVec 3)
  /-- LMARK_EST (R162): Marks full lines estimate, waiting for F = 1. -/
  | lmarkEst (a : Reg) (b : Reg) (space : BitVec 3)
  /-- LMARK_EXACT (R162): Zeroes estimate lines and marks them exact, waiting for F = 1. -/
  | lmarkExact (a : Reg) (b : Reg) (space : BitVec 3)
  /-- LWAIT (R163): Waits until the line holding the address is full. -/
  | lwait (a : Reg) (space : BitVec 3)
  /-- LD_B (R157): Loads a sign-extended byte. -/
  | ldB (d : Reg) (a : Reg) (space : BitVec 3) (off : BitVec 13)
  /-- LD_BN (R157): Loads a zero-extended byte. -/
  | ldBn (d : Reg) (a : Reg) (space : BitVec 3) (off : BitVec 13)
  /-- LD_H (R157): Loads a sign-extended halfword. -/
  | ldH (d : Reg) (a : Reg) (space : BitVec 3) (off : BitVec 13)
  /-- LD_HN (R157): Loads a zero-extended halfword. -/
  | ldHn (d : Reg) (a : Reg) (space : BitVec 3) (off : BitVec 13)
  /-- LD_W (R157): Loads a sign-extended word. -/
  | ldW (d : Reg) (a : Reg) (space : BitVec 3) (off : BitVec 13)
  /-- LD_WN (R157): Loads a zero-extended word. -/
  | ldWn (d : Reg) (a : Reg) (space : BitVec 3) (off : BitVec 13)
  /-- LD_D (R157): Loads a doubleword. -/
  | ldD (d : Reg) (a : Reg) (space : BitVec 3) (off : BitVec 13)
  /-- LD_EH (R157): Loads a halfword from a buffer as an estimate (E ← 1). -/
  | ldEh (d : Reg) (a : Reg) (space : BitVec 3) (off : BitVec 13)
  /-- LD_EW (R157): Loads a word from a buffer as an estimate (E ← 1). -/
  | ldEw (d : Reg) (a : Reg) (space : BitVec 3) (off : BitVec 13)
  /-- SB (R158): Stores the low byte of a register. -/
  | sb (src : Reg) (a : Reg) (space : BitVec 3) (off : BitVec 13)
  /-- SH (R158): Stores the low halfword of a register. -/
  | sh (src : Reg) (a : Reg) (space : BitVec 3) (off : BitVec 13)
  /-- SW (R158): Stores the low word of a register. -/
  | sw (src : Reg) (a : Reg) (space : BitVec 3) (off : BitVec 13)
  /-- SD (R158): Stores a doubleword. -/
  | sd (src : Reg) (a : Reg) (space : BitVec 3) (off : BitVec 13)
  /-- BEQ (R165): Branches if two registers are equal. -/
  | beq (a : Reg) (b : Reg) (off : BitVec 13)
  /-- BNE (R165): Branches if two registers differ. -/
  | bne (a : Reg) (b : Reg) (off : BitVec 13)
  /-- BLT (R165): Branches if less, signed. -/
  | blt (a : Reg) (b : Reg) (off : BitVec 13)
  /-- BGE (R165): Branches if greater or equal, signed. -/
  | bge (a : Reg) (b : Reg) (off : BitVec 13)
  /-- BLTN (R165): Branches if less, unsigned. -/
  | bltn (a : Reg) (b : Reg) (off : BitVec 13)
  /-- BGEN (R165): Branches if greater or equal, unsigned. -/
  | bgen (a : Reg) (b : Reg) (off : BitVec 13)
  /-- LOOP (R167): Sets LSTART, LEND and LCNT for a hardware loop, skipping the body on a zero count. -/
  | loop (a : Reg) (off : BitVec 13)
  /-- J (R166): Jumps PC-relative. -/
  | j (off : BitVec 26)
  /-- JAL (R166): Jumps PC-relative and writes the return address to g31. -/
  | jal (off : BitVec 26)
  /-- JALR (R166): Jumps to g[a] + imm and writes the return address to gd. -/
  | jalr (d : Reg) (a : Reg) (imm : BitVec 16)
  /-- SRD (R198): Queues a read stream from a register-named pattern record into an input port. -/
  | srd (eng : BitVec 3) (port : Reg) (recReg : Reg) (fl : HaspFlags)
  /-- SRD_LITERAL (R198): Queues a read stream whose record is named PC-relative by a literal. -/
  | srdLit (eng : BitVec 3) (port : Reg) (lit : W32) (fl : HaspFlags)
  /-- SWR (R198): Queues a write stream from an output port to memory. -/
  | swr (eng : BitVec 3) (port : Reg) (recReg : Reg) (fl : HaspFlags)
  /-- SWR_LITERAL (R198): Queues a write stream with a PC-relative record literal. -/
  | swrLit (eng : BitVec 3) (port : Reg) (lit : W32) (fl : HaspFlags)
  /-- SIND (R198): Queues an indirect gather stream through the base die. -/
  | sind (eng : BitVec 3) (port : Reg) (recReg : Reg) (fl : HaspFlags)
  /-- SIND_LITERAL (R198): Queues an indirect stream with a PC-relative record literal. -/
  | sindLit (eng : BitVec 3) (port : Reg) (lit : W32) (fl : HaspFlags)
  /-- PWAIT (R201): Waits until every earlier stream on a port has ended with its release. -/
  | pwait (port : Reg)
  /-- SSTAT (R202): Reads the status of an engine, channel or port. -/
  | sstat (eng : BitVec 3) (port : Reg) (d : Reg) (kind : BitVec 2)
  /-- CPY (R203): Queues a bulk copy between spaces on a copy channel. -/
  | cpy (c : CopyArgs)
  /-- CPYM (R205): Queues a copy with a follow-on MMUL entered when the copy lands. -/
  | cpym (c : CopyArgs) (m : MmulArgs)
  /-- WPWAIT (R206): Waits until a channel's write pointer reaches a count. -/
  | wpwait (ch : BitVec 3) (a : Reg)
  /-- CFG (R208): Queues a load of an Ilutan image into a plane. -/
  | cfg (p : BitVec 2) (a : Reg)
  /-- CFGS (R208): Queues a partial load of bare configuration writes into a plane. -/
  | cfgs (p : BitVec 2) (b : Reg) (a : Reg)
  /-- PSWITCH (R210): Waits for any switch, then starts a switch to a READY plane. -/
  | pswitch (p : BitVec 2)
  /-- PDRAIN (R212): Switches the active plane into itself, clearing its dynamic state. -/
  | pdrain
  /-- PTRIG (R214): Arms a token-count trigger to switch to a READY plane. -/
  | ptrig (p : BitVec 2) (port : Reg) (a : Reg)
  /-- HINIT (R286): Initialises a hasp in a mode with a count and key id. -/
  | hinit (h : Reg) (mode : BitVec 3) (b : Reg)
  /-- KEY (R287): Binds a page to a hasp's key id and invalidates its TLB entries. -/
  | key (a : Reg) (h : Reg)
  /-- HACQ (R288): Acquires a hasp, taking the lock in MUTEX mode, and invalidates keyed cache lines. -/
  | hacq (h : Reg)
  /-- HREL (R289): Writes back keyed lines and releases a hasp. -/
  | hrel (h : Reg)
  /-- HARR (R290): Releases and arrives at a barrier or group hasp. -/
  | harr (h : Reg)
  /-- HWAIT (R291): Waits until the hasp's phase differs from the task's note. -/
  | hwait (h : Reg)
  /-- HSIG (R290): Releases, adds to a SIGNAL counter and flips the phase. -/
  | hsig (h : Reg) (b : Reg)
  /-- JOIN (R292): Joins a task group. -/
  | join (h : Reg)
  /-- LEAVE (R292): Leaves a task group, possibly flipping its phase. -/
  | leave (h : Reg)
  /-- MLDW (R263): Queues a weight-tile load from wgt: into a weight slot. -/
  | mldw (s : BitVec 2) (slot : Reg) (a : Reg) (shape : Reg) (fmt : BitVec 4) (fl : HaspFlags)
  /-- MMUL (R264): Queues a matrix product from act: against a weight slot into acc:. -/
  | mmul (m : MmulArgs)
  /-- MWAIT (R298): Waits until every earlier command of a command stream has completed. -/
  | mwait (s : BitVec 2)
  /-- XPROG (R301): Queues programming of a crossbar array from the cluster store. -/
  | xprog (arr : Reg) (b : Reg) (fl : HaspFlags)
  /-- XFIRE (R300): Queues one fire of a crossbar array, marking its 16 target lines empty. -/
  | xfire (arr : Reg) (b : Reg) (c : Reg) (fl : HaspFlags)
  /-- XCAL (R302): Queues recalibration of a crossbar array. -/
  | xcal (arr : Reg)
  /-- XSTAT (R303): Reads a crossbar array's status into gd 20 cycles after issue. -/
  | xstat (d : Reg) (arr : Reg)
  /-- FNEW (R350): Makes a header a live empty fibre with given attributes and pool. -/
  | fnew (a : Reg) (b : Reg)
  /-- FFREE (R351): Removes every entry and makes the fibre header dead. -/
  | ffree (a : Reg)
  /-- FPROBE (R354): Probes one key of a fibre and returns found and value. -/
  | fprobe (d : Reg) (a : Reg) (b : Reg)
  /-- FMERGE (R352): Posts a merge of one (key, value) into a fibre. -/
  | fmerge (a : Reg) (b : Reg) (d : Reg) (fmt : BitVec 4)
  /-- FMRGF (R353): Posts a merge of every entry of a source fibre into a destination fibre. -/
  | fmrgf (a : Reg) (b : Reg)
  /-- FSTAT (R355): Reads one 8-byte fibre header word atomically. -/
  | fstat (d : Reg) (a : Reg)
  /-- FCLR (R351): Removes every entry of a fibre, keeping its attributes. -/
  | fclr (a : Reg)
  /-- PDISCARD (R362): Gives up the contents of a page range and broadcasts invalidation. -/
  | pdiscard (a : Reg) (b : Reg)
  /-- PHINT_TLB (R363): Walks a range of pages into the last-level TLB. -/
  | phintTlb (a : Reg) (b : Reg)
  /-- PHINT_FILL (R363): Has the pager resolve ZERO and SWAPPED pages now. -/
  | phintFill (a : Reg) (b : Reg)
  /-- PHINT_COLD (R363): Tells Hythen the pages may be swapped out. -/
  | phintCold (a : Reg) (b : Reg)
  /-- PHINT_NEAR (R363): Asks Hythen to migrate the pages to the issuing core's stack. -/
  | phintNear (a : Reg) (b : Reg)
  /-- ASYNC_TRAP (R182): An asynchronous trap is taken at the next instruction boundary with TA = 0, abandoning any wait. -/
  | asyncTrap
  /-- FETCH_MISS (R96): An instruction-cache miss fetches the line from mem:, stalling the thread. -/
  | fetchMiss (va : Word)
  /-- TOKEN_HOP (R15): A token moves one router stage along a channel when the next stage is free. -/
  | tokenHop (src : HopSource)
  /-- ELEMENT_FIRE (R21): A generic element fires when every used port holds a token and its first route stage is free. -/
  | elementFire (t : Nat) (parity : Option ParityError)
  /-- STALLED_PLANE (R25): No firing for 4,096 cycles after a quiescence request with tokens left raises ELEM subcause 0x5. -/
  | stalledPlane
  /-- FADD_ELEMENT (R61): Element computes a + b in fp32. -/
  | faddElement (t : Nat)
  /-- FSUB_ELEMENT (R61): Element computes a − b in fp32. -/
  | fsubElement (t : Nat)
  /-- FMUL_ELEMENT (R61): Element computes a × b in fp32. -/
  | fmulElement (t : Nat)
  /-- FMA_ELEMENT (R61): Element computes a × b + c with one rounding. -/
  | fmaElement (t : Nat)
  /-- FMS_ELEMENT (R61): Element computes a × b − c with one rounding. -/
  | fmsElement (t : Nat)
  /-- FMIN_ELEMENT (R63): Element emits the smaller fp32 operand. -/
  | fminElement (t : Nat)
  /-- FMAX_ELEMENT (R63): Element emits the larger fp32 operand. -/
  | fmaxElement (t : Nat)
  /-- FABS_ELEMENT (R63): Element clears the sign bit. -/
  | fabsElement (t : Nat)
  /-- FNEG_ELEMENT (R63): Element inverts the sign bit. -/
  | fnegElement (t : Nat)
  /-- FRCP_ELEMENT (R61): Element computes 1 / a correctly rounded. -/
  | frcpElement (t : Nat)
  /-- FRSQ_ELEMENT (R61): Element computes 1 / √a correctly rounded. -/
  | frsqElement (t : Nat)
  /-- FSQRT_ELEMENT (R61): Element computes √a. -/
  | fsqrtElement (t : Nat)
  /-- FDIV_ELEMENT (R61): Element computes a / b. -/
  | fdivElement (t : Nat)
  /-- FRND_ELEMENT (R61): Element rounds a to an integral value. -/
  | frndElement (t : Nat)
  /-- IADD_ELEMENT (R64): Element adds modulo 2^32. -/
  | iaddElement (t : Nat)
  /-- ISUB_ELEMENT (R64): Element subtracts modulo 2^32. -/
  | isubElement (t : Nat)
  /-- IMUL_ELEMENT (R64): Element emits the low 32 bits of a × b. -/
  | imulElement (t : Nat)
  /-- IMULH_ELEMENT (R64): Element emits the high 32 bits of a × b. -/
  | imulhElement (t : Nat)
  /-- IMAD_ELEMENT (R64): Element emits the low 32 bits of a × b + c. -/
  | imadElement (t : Nat)
  /-- IMIN_ELEMENT (R64): Element emits the smaller integer. -/
  | iminElement (t : Nat)
  /-- IMAX_ELEMENT (R64): Element emits the larger integer. -/
  | imaxElement (t : Nat)
  /-- AND_ELEMENT (R64): Element emits a AND b. -/
  | andElement (t : Nat)
  /-- OR_ELEMENT (R64): Element emits a OR b. -/
  | orElement (t : Nat)
  /-- XOR_ELEMENT (R64): Element emits a XOR b. -/
  | xorElement (t : Nat)
  /-- ANDN_ELEMENT (R64): Element emits a AND NOT b. -/
  | andnElement (t : Nat)
  /-- SHL_ELEMENT (R64): Element shifts a left by b[4:0]. -/
  | shlElement (t : Nat)
  /-- SHR_ELEMENT (R64): Element shifts a right by b[4:0]. -/
  | shrElement (t : Nat)
  /-- CLZ_ELEMENT (R64): Element counts leading zeros. -/
  | clzElement (t : Nat)
  /-- POPC_ELEMENT (R64): Element counts one bits. -/
  | popcElement (t : Nat)
  /-- FCMP_ELEMENT (R65): Element emits 1 or 0 by an fp32 condition. -/
  | fcmpElement (t : Nat)
  /-- ICMP_ELEMENT (R65): Element emits 1 or 0 by an integer condition. -/
  | icmpElement (t : Nat)
  /-- SEL_ELEMENT (R66): Element emits b if a is non-zero, else c, consuming both. -/
  | selElement (t : Nat)
  /-- PASS_ELEMENT (R66): Element emits a unchanged. -/
  | passElement (t : Nat)
  /-- FCVT_ELEMENT (R67): Element converts a between formats. -/
  | fcvtElement (t : Nat)
  /-- BXQ_ELEMENT (R68): Element quantises a block of fp32 tokens into bx32 and emits it. -/
  | bxqElement (t : Nat)
  /-- FACC_ELEMENT (R69): Element accumulates fp32 per row or stream. -/
  | faccElement (t : Nat)
  /-- IACC_ELEMENT (R69): Element accumulates integers per row or stream. -/
  | iaccElement (t : Nat)
  /-- CTR_ELEMENT (R70): Element emits runs of index tokens, paced by II and credits. -/
  | ctrElement (t : Nat)
  /-- STEER_ELEMENT (R71): Element sends a to its true or false routes by b. -/
  | steerElement (t : Nat)
  /-- MERGE_ELEMENT (R72): Element emits a or b by select or by arrival. -/
  | mergeElement (t : Nat)
  /-- CARRY_ELEMENT (R73): Element passes a loop-carried value under a continue predicate. -/
  | carryElement (t : Nat)
  /-- RANK_ELEMENT (R74): Systolic top-k cell keeps the better pair and passes the loser. -/
  | rankElement (t : Nat)
  /-- ACCEPT_ELEMENT (R75): Element emits an estimate as exact if its bound meets the tolerance, else raises BOUND. -/
  | acceptElement (t : Nat)
  /-- CONST_ELEMENT (R76): Element emits a constant per input token or N times per launch. -/
  | constElement (t : Nat)
  /-- SINK_ELEMENT (R77): Element consumes tokens and holds EOS. -/
  | sinkElement (t : Nat)
  /-- LD_ELEMENT (R81): Element issues a guarded load from act:, acc: or cls:. -/
  | ldElement (t : Nat)
  /-- ST_ELEMENT (R82): Element issues a guarded store and counts it outstanding. -/
  | stElement (t : Nat)
  /-- ATADD_ELEMENT (R83): Element issues an atomic add that returns the old value. -/
  | ataddElement (t : Nat)
  /-- FABRIC_ACCESS_PERFORMED (R82): A fabric memory access completes; a load emits its value and a store emits its completion token. -/
  | fabricAccessPerformed (t : Nat)
  /-- BANK_GRANT (R100): A buffer bank grants one pending access by priority and age and applies its bit changes. -/
  | bankGrant (buf : BitVec 3) (bank : Nat)
  /-- ELEMENT_CHANGEOVER (R230): An element or slot takes the incoming configuration in the cycle after the drain fires it. -/
  | elementChangeover (t : Nat)
  /-- ROUTER_CHANGEOVER (R230): A router takes the incoming switch fields once its outgoing channels have passed their drains. -/
  | routerChangeover (r : Nat)
  /-- SWITCH_COMPLETE (R230): The switch completes once every element, slot and router has changed over; plane states and EPOCH change. -/
  | switchComplete
  /-- DRAIN_ENTER (R211): A drain enters an input port or source element once the outgoing streams on it have delivered EOS. -/
  | drainEnter (pt : DrainPoint)
  /-- SWITCH_STALL (R232): No progress for 4,096 cycles after a quiescence request in a switch raises ELEM 0x5 and fences the outgoing plane. -/
  | switchStall
  /-- TRIGGER_FIRE (R214): The PTRG token count is reached and the core starts a switch to the target plane. -/
  | triggerFire
  /-- LAUNCH_END (R77): Every sink holds EOS with no stores outstanding and every output port has seen EOS; held EOS are cleared. -/
  | launchEnd
  /-- PLANE_LOAD_START (R209): The loader takes the next queued load and checks the image header. -/
  | planeLoadStart
  /-- PLANE_LOAD_WRITE (R209): The loader applies up to 16 configuration writes per cycle, waiting on line F bits. -/
  | planeLoadWrite
  /-- PLANE_LOAD_CHECK (R222): After the last write the plane is checked and becomes READY or INVALID with CFG. -/
  | planeLoadCheck
  /-- STREAM_START (R187): The dispatcher starts the oldest queued stream when its slot and port are free. -/
  | streamStart
  /-- STREAM_DELIVER (R192): A read stream delivers the next token or its EOS into its port queue. -/
  | streamDeliver (e : Nat) (slot : Nat)
  /-- STREAM_WRITE_TOKEN (R195): A write stream takes one token from its port queue and writes or skips positions. -/
  | streamWriteToken (e : Nat) (slot : Nat)
  /-- GATHER_COMPLETE (R197): An indirect-stream gather returns its data from memory. -/
  | gatherComplete (e : Nat) (slot : Nat) (k : Nat)
  /-- STREAM_END (R188): A stream frees its port and performs its release. -/
  | streamEnd (e : Nat) (slot : Nat)
  /-- COPY_START (R204): A copy channel begins its next copy, performing its acquire. -/
  | copyStart (ch : Nat)
  /-- COPY_LAND (R204): A copy lands bytes in ascending order, advancing WP and filling lines. -/
  | copyLand (ch : Nat) (words : Nat)
  /-- COPY_COMPLETE (R204): A copy's last byte lands and its release is performed. -/
  | copyComplete (ch : Nat)
  /-- QUIESCENCE_REQUEST (R105): A request sets QREQ, closes input ports by row ends and stops issue. -/
  | quiescenceRequest (why : QuiesceCause)
  /-- QUIESCENT_POINT (R106): All generators stopped, channels empty but for resident and held tokens, and memory performed; QPT reads 1. -/
  | quiescentPoint
  /-- CONTEXT_SAVE (R233): Writes the core state into the 384 KiB save area at a quiescent point. -/
  | contextSave
  /-- CONTEXT_RESTORE (R234): Writes every saved field back before the task's first instruction. -/
  | contextRestore (task : Nat)
  /-- INSTRUCTION_PAGE_INVALIDATE (R236): A core stops fetching, drops the page's lines and acknowledges a translation change. -/
  | instructionPageInvalidate (proc : Nat) (va : Word)
  /-- TRACE_WALK_STEP (R237): One step of the critical-path walk records a target and writes trace records. -/
  | traceWalkStep
  /-- PRECISE_STOP (R239): With a debugger attached, a BRK, breakpoint firing or request stops and saves the task. -/
  | preciseStop
  /-- CLUSTER_STORE_ACCESS (R247): A cluster-store bank grants one access, hasp units first. -/
  | clusterStoreAccess (off : Nat) (ecc : EccOutcome)
  /-- HASP_OPERATION (R251): A hasp home checks the invariants and applies one operation as a line-wide write. -/
  | haspOperation (task : Nat) (op : HaspOp) (ref : Word)
  /-- WAKE_DELIVERY (R256): A wake or MUTEX grant reaches its waiting task. -/
  | wakeDelivery (task : Nat)
  /-- ENGINE_HASP_OPERATION (R294): A command's acquire or release with its byte count is applied at the hasp home. -/
  | engineHaspOperation (k : Nat)
  /-- MATRIX_COMMAND_START (R266): The array takes the next command round-robin and checks the slot shape. -/
  | matrixCommandStart
  /-- MATRIX_COMMAND_COMPLETE (R267): An MLDW or MMUL completes, its result lines written full and exact and its release performed. -/
  | matrixCommandComplete (load : Bool) (ecc : WeightOutcome)
  /-- SLOT_REASSIGN (R261): A weight slot passing to another tenant is zeroed and set to bf16. -/
  | slotReassign (slot : Nat) (tenant : Nat)
  /-- FIRE_START (R273): A lane takes a fire whose input lines are full, fetching its shim record if needed. -/
  | fireStart (lane : Nat)
  /-- FIRE_COMPLETE (R272): A fire writes its value and bound lines, or NaN lines and DRIFT on drift. -/
  | fireComplete (lane : FireEnd)
  /-- CALIBRATION (R277): A lane runs the 352-cycle recalibration and sets READY or DRIFT. -/
  | calibration (arr : Nat)
  /-- PROGRAMMING (R278): An array is erased, programmed and verified from its source, then calibrated. -/
  | programming (arr : Nat) (verified : Bool)
  /-- ARRAY_ERASE (R280): An array passing to another tenant is erased and set ZERO. -/
  | arrayErase (arr : Nat) (tenant : Nat)
  /-- TLB_MISS_WALK (R325): A last-level TLB miss runs a page walk on a walk engine. -/
  | tlbMissWalk (proc : Nat) (va : Word)
  /-- INVALIDATION_BROADCAST (R325): A PTE change invalidates every TLB and is acknowledged. -/
  | invalidationBroadcast
  /-- FAULT_TOKEN (R327): A failed translation stops its unit and queues a fault token at the serving pager. -/
  | faultToken (k : Nat)
  /-- PAGER_RESOLUTION (R328): The pager resolves a ZERO, SWAPPED, MIGRATING or DISCARDED fault and returns the tokens. -/
  | pagerResolution (k : Nat)
  /-- FAULT_ESCALATION (R328): Hythen resolves an escalated fault or declares it fatal. -/
  | faultEscalation (k : Nat) (how : Escalation)
  /-- DRAM_ACCESS (R319): A memory controller performs one access of up to 64 bytes. -/
  | dramAccess (pa : Nat) (write : Bool) (ecc : EccOutcome)
  /-- ROW_HAMMER_REFRESH (R321): 2,048 activations of a row refresh its neighbours and hold the bank 280 cycles. -/
  | rowHammerRefresh (row : Nat)
  /-- PERIODIC_REFRESH (R321): A row's periodic refresh clears its activation counter every 32 ms. -/
  | periodicRefresh (row : Nat)
  /-- MERGE_ENTRY (R337): The fibre home applies one merge as COMBINE, INSERT, NEWSEG or SPLIT. -/
  | mergeEntry (issuer : Nat)
  /-- PROBE (R340): The fibre home applies one probe of a key. -/
  | probe (e : Nat) (slot : Nat)
  /-- SCAN_STEP (R341): The fibre home copies one segment's entries above the cursor into the scan buffer. -/
  | scanStep (src : ScanSource)
  /-- ACCEPTANCE_NOTICE (R348): The home's notice that a posted fibre operation is queued reaches the core. -/
  | acceptanceNotice
  /-- POSTED_FAILURE (R349): A home's failure report of a posted operation raises an asynchronous trap and blocks fibre issue. -/
  | postedFailure
  /-- LAUNCH (R367): A write to a slot's ARG queues a task under the slot's binding or sets a refusal code. -/
  | launch (proc : Nat) (slot : Nat) (arg : Word)
  /-- DISPATCH (R372): A core that becomes eligible chooses the next task by priority and shared-core turn and starts it. -/
  | dispatch
  /-- PREEMPTION (R373): A queued higher-priority task makes the scheduler request quiescence of a lower-priority core. -/
  | preemption
  /-- WAIT_PREEMPTION (R374): A task waiting 2^16 cycles may be pre-empted when eligible work is queued. -/
  | waitPreemption
  /-- SPILL (R376): A queue entry without a free slot is written to the tenant's spill region. -/
  | spill (ecc : EccOutcome)
  /-- SPILL_RETURN (R376): Spilled entries return on chip oldest first as slots free. -/
  | spillReturn
  /-- TASK_KILL (R378): Hythen kills a task: commands cancelled, registrations withdrawn, groups and mutexes left. -/
  | taskKill (task : Nat)
  /-- SCRUB (R379): A core reassigned to another tenant has its state cleared in 1,540 cycles. -/
  | scrub
  /-- PARTITION_ZERO (R380): A tenant's cluster-store partition is zeroed when it leaves the cluster. -/
  | partitionZero (tenant : Nat)
  /-- FLIT_RECEIVE (R393): A pintle flit is checked by CRC and retried; 8 failed retries fence the link. -/
  | flitReceive (link : Nat) (ok : Bool)
  /-- POWER_GOOD (R396): Power good starts the bring-up sequence ending in the ready flag. -/
  | powerGood (images : List SignedImage) (test : SelfTest)
  /-- GOVERNOR_MEASURE (R400): Every 10 µs the governor measures power and throttles issue rates if over budget. -/
  | governorMeasure (exceeds : Bool)
  /-- DROOP (R400): A supply droop stretches the domain clock and captures a droop record. -/
  | droop (domain : Nat)
  /-- DIE_FENCE (R402): A die fenced at run time has its tasks killed and its memory made unreachable. -/
  | dieFence (die : Nat)
  /-- DEFHASP (R395): Service request returning the process's default hasp address. -/
  | defhasp (task : Nat)
  /-- HANDLE (R395): Service request returning the kernel handle of a mailbox slot. -/
  | handle (task : Nat)
  /-- MAPMEM (R395): Service request mapping new pages. -/
  | mapmem (task : Nat) (va : Word) (die : Nat) (tables : List Nat)
  /-- UNMAPMEM (R395): Service request unmapping pages. -/
  | unmapmem (task : Nat)
  /-- TRACERING (R395): Service request mapping a read-only trace ring. -/
  | tracering (task : Nat) (va : Word) (tables : List Nat)
  /-- TELEM (R395): Service request returning a telemetry counter. -/
  | telem (task : Nat)
  /-- ATTEST (R398): Service request writing a signed attestation report. -/
  | attest (task : Nat)
  /-- WATCH (R259): Service request arming a hasp watchpoint. -/
  | watch (task : Nat)
  /-- LAUNCHPAGE (R364): Service request returning the launch page's address. -/
  | launchpage (task : Nat)
  /-- SENDPAGE (R418): Service request returning the send page's address. -/
  | sendpage (task : Nat)
  /-- IMAGE_UPDATE (R397): Management request that installs a signed image. -/
  | imageUpdate (image : Nat) (body : SignedImage) (signed : Bool)
  /-- IMAGE_COMMIT (R397): Management request that raises the fused minimum version. -/
  | imageCommit (image : Nat) (signed : Bool)
  /-- TENANT_CREATION (R421): Management request creating a tenant with quotas. -/
  | tenantCreation (q : TenantQuota) (signed : Bool)
  /-- FLOW_SLOT_BINDING (R418): Management request binding a flow slot to a destination. -/
  | flowSlotBinding (b : FlowBinding) (signed : Bool)
  /-- DEBUGGER_ATTACH (R421): Management request attaching a debugger to a task. -/
  | debuggerAttach (task : Nat) (signed : Bool)
  /-- MANAGEMENT_READ (R421): Management request reading fence masks, droop records or telemetry. -/
  | managementRead (what : Nat) (signed : Bool)
  /-- DIE_STRIKING (R421): Management request striking a die from service. -/
  | dieStriking (die : Nat) (signed : Bool)
  /-- GO_SEND (R419): A store of 1 to GO checks and sends the flow slot's operation. -/
  | goSend (proc : Nat) (f : Nat)
  /-- GO_CLEAR (R420): A store of 2 to GO clears the slot's CODE. -/
  | goClear (proc : Nat) (f : Nat)
  /-- REMOTE_LAUNCH (R412): A receive agent performs a remote mailbox store as a launch. -/
  | remoteLaunch (flow : Nat) (op : RemoteOp)
  /-- REMOTE_COPY (R412): A receive agent lands a remote copy in ascending address order. -/
  | remoteCopy (flow : Nat) (op : Option RemoteOp) (words : Nat)
  /-- REMOTE_MERGE (R412): A receive agent applies a remote fibre merge. -/
  | remoteMerge (flow : Nat) (op : Option RemoteOp)
  /-- ACKNOWLEDGEMENT (R420): An acknowledgement from Q increments ACKED and records any failure code. -/
  | acknowledgement (proc : Nat) (f : Nat) (code : FlowAck)
  /-- FLOW_TIMEOUT (R420): After 2 ms without delivery the transport gives up and reports Q unreachable. -/
  | flowTimeout (proc : Nat) (f : FlowLoss)
  /-- PORT_FAILOVER (R417): A flow moves to another port of its I/O die when its port fails lastingly. -/
  | portFailover (port : Nat) (target : Nat)
  /-- STRIKE_NOTICE (R422): Hythen clears dead experts' bits, increments GEN and releases the live-expert hasp. -/
  | strikeNotice (notice : Nat) (die : Nat)
  /-- ILLEGAL_INSTRUCTION (R123): A fetched word whose major opcode, or sub-operation, no mnemonic claims raises ILLEGAL. -/
  | illegalInstruction (word : W32) (lit : W32)
  /-- PAGE_MIGRATION (R328): Hythen begins moving a page to another frame or stack and sets its entry to STATE MIGRATING. -/
  | pageMigration (proc : Nat) (va : Word) (stack : Nat)
  /-- MIGRATION_END (R328): A migration completes on the new frame, or Hythen ends it early, and the entry and the waiting pager are updated. -/
  | migrationEnd (proc : Nat) (va : Word) (how : MigrationEnd)
  /-- SWAP_OUT (R363): Hythen swaps a page out and sets its entry to STATE SWAPPED with the swap copy's address. -/
  | swapOut (proc : Nat) (va : Word) (copy : Nat)
  /-- RECLAMATION (R330): Hythen reclaims a DISCARDED page, moving it to ZERO and returning its frame. -/
  | reclamation (proc : Nat) (va : Word)
  /-- SERVICE_CORE_FAILURE (R401): An ECC failure or an expired watchdog removes a service core, and Hythen runs on the others. -/
  | serviceCoreFailure (k : Nat)
  /-- SUPPLY_RECOVERY (R400): A domain's supply recovers after a droop and its clock stops stretching. -/
  | supplyRecovery (domain : Nat)
  /-- TENANT_HOLD_END (R377): The hold on a tenant ends once Hythen has restored its spill region and its on-chip entries fit its guaranteed count. -/
  | tenantHoldEnd (h : HoldEnd)
  /-- QUIESCENCE_WITHDRAWAL (R105): The scheduler withdraws a pending quiescence request; QREQ clears and the control thread resumes issuing at the same PC. -/
  | quiescenceWithdrawal
  /-- PROGRAM_LOAD (R366): The loader places a program's sections and fibre area, and gives Hythen its mailbox binding table, binding slots with a new GEN. -/
  | programLoad (l : ProgramImage)
  /-- PROCESS_CREATION (R253): Hythen creates a tenant process with its page table, default SIGNAL hasp, launch page and send page. -/
  | processCreation (c : ProcessSpec)
  /-- LIVE_EXPERT_REGISTRATION (R422): A management request registers a live-expert record, its hasp L and its placement table. -/
  | liveExpertRegistration (r : ExpertRecord) (signed : Bool)
  /-- OPERATOR_KEY_COMMIT (R421): A commit request signed by Lerrath's key makes Hythen hold the digest of an operator key that signs later requests. -/
  | operatorKeyCommit (key : BitVec 512) (signed : Bool)
  deriving DecidableEq, Repr

end Sys2Proof
end

