-- ==== Sys2Proof/Machine/State.lean ====
section
/-! DEFINITION. The state of the machine as plain data: a core (control thread, buffers, fabric, engines), a cluster, a die, the
tasks, tenants and processes, the package, the agenda. A field's default is its value at reset; INVENTORY.md lists each one. -/

namespace Sys2Proof.Machine

/-- A token (R7 to R9): control bit C, sideband SB, DATA. -/
structure Token where
  ctl : Bool := false
  sb : BitVec 2 := 0
  data : W32 := 0
  deriving DecidableEq, Repr

/-- A token on its way: the cycle it was emitted in (R25 asks for the oldest token), the cycle it entered where it is now, its
epoch in a port queue (R215). -/
structure Flight where
  tok : Token := {}
  born : Nat := 0
  came : Nat := 0
  epoch : BitVec 32 := 0
  deriving DecidableEq, Repr

/-- What an input slot holds (R11, R13): the token; whether it is resident, and for how many data firings yet. -/
structure Slot where
  fl : Flight := {}
  resident : Bool := false
  left : Nat := 0
  deriving DecidableEq, Repr

/-- An access of LD, ST or ATADD not yet performed (R79): kind (0 LD, 1 ST, 2 ATADD), space (0 act:, 1 acc:, 2 cls:), address,
format, rounding, output type, type of b, value to write, sideband of the result, whether it is guarded off; a bubble or control firing
keeps its place as a token to pass on. `lost`: its plane was fenced, so its result goes nowhere (R26). -/
structure FabAccess where
  pass : Option Token := none
  rm : BitVec 3 := 0
  ot : Bool := false
  et : Bool := false
  lost : Bool := false
  kind : Nat := 0
  space : Nat := 0
  addr : Nat := 0
  fmt : BitVec 4 := 0
  value : W32 := 0
  sb : BitVec 2 := 0
  off : Bool := false
  born : Nat := 0
  deriving DecidableEq, Repr

/-- A run of CTR (R70): next index, trip count, sideband of the last index. -/
structure CtrRun where
  i : Nat := 0
  n : Nat := 0
  fin : BitVec 2 := 0
  deriving DecidableEq, Repr

/-- The operator state of a target (R11): CARRY (R73), FACC and IACC (R69), CTR (R70), RANK (R74), BXQ (R68), CONST (R76), sinks
(R77), and the outstanding accesses of memory operators (R79). -/
structure OpState where
  looping : Bool := false
  acc : W32 := 0
  accOpen : Bool := false
  run : Option CtrRun := none
  credits : Nat := 0
  creditsSet : Bool := false
  started : Bool := false
  eosSent : Bool := false
  lastIndex : Option Nat := none
  lastEmit : Nat := 0
  kept : Option (W32 × W32) := none
  held : Option (W32 × W32) := none
  score : Option W32 := none
  pend : List (Token × Nat) := []
  block : List (W32 × BitVec 2) := []
  count : Nat := 0
  heldEos : Bool := false
  acks : Nat := 0
  out : List FabAccess := []
  deriving DecidableEq, Repr

/-- The state of a plane by its code in R104. -/
inductive PlaneState where
  | empty
  | loading
  | ready
  | active
  | invalid
  | switching
  deriving DecidableEq, Repr

/-- A plane's configuration (R49, R104, R223): fields by target × 32 + field, state, source-node table by target. -/
structure Plane where
  fields : Map Nat := []
  state : PlaneState := .empty
  nodes : Map Word := []
  deriving DecidableEq, Repr

/-- A load in the plane loader (R208, R209, R222): plane, byte address in act: or, at a task's start (R369), in memory; whether bare
writes (CFGS); how many writes, and how many are applied; whether it has started; NS and FULL of the header; the CRC so far; the first
write that named no field, which its check refuses (index, target, field); whether its image is beyond repair (R328). -/
structure PlaneLoad where
  plane : Nat := 0
  addr : Nat := 0
  bare : Bool := false
  count : Nat := 0
  done : Nat := 0
  started : Bool := false
  image : Option Word := none
  ns : Nat := 0
  full : Bool := false
  crc : BitVec 32 := 0xFFFFFFFF
  bad : Option (Nat × Nat × Nat) := none
  lost : Bool := false
  deriving DecidableEq, Repr

/-- A plane switch in progress (R210, R230): the plane going out, the plane coming in, the targets whose drain has fired, the
targets and the routers that have changed over, the stages that drains have left, the ports that drains have entered and left,
whether a stream of the incoming epoch has started on a port of the incoming plane (R216), whether that plane was fenced or made invalid
(R231), the cycle of the last firing or change-over (R232). -/
structure Switch where
  out : Nat := 0
  inc : Nat := 0
  fired : List Nat := []
  targets : List Nat := []
  routers : List Nat := []
  passed : List Nat := []
  entered : List Nat := []
  left : List Nat := []
  started : Bool := false
  cut : Bool := false
  bad : Bool := false
  last : Nat := 0
  deriving DecidableEq, Repr

/-- A port of the fabric in an epoch (R101, R105, R202, R211): data tokens passed, row ends delivered in the launch, whether the last
token delivered was EOS and whether it was a row end, whether EOS was recorded in the launch, after how many row ends quiescence closes
the port, and whether it is closed already: by a stopped generator, or by its stream's EOS under the request. -/
structure Port where
  tokens : Nat := 0
  rowEnds : Nat := 0
  lastEos : Bool := false
  lastRow : Bool := false
  recorded : Bool := false
  limit : Option Nat := none
  shut : Bool := false
  deriving DecidableEq, Repr

/-- The critical-path trace (R237, R238): data firings of the start target; the walk's plane, epoch, start, snapshot, next target and
steps; samples dropped, the ring position. -/
structure Trace where
  firings : Nat := 0
  plane : Nat := 0
  epoch : BitVec 32 := 0
  start : Nat := 0
  snapshot : Map (Nat × Nat) := []
  cyc : Nat := 0
  node : Option Nat := none
  steps : List Word := []
  seen : List Nat := []
  dropped : Nat := 0
  ring : Nat := 0
  deriving DecidableEq, Repr

/-- The fabric of a core: planes, tokens, operator state, ports, switch. Slots are keyed target × 4 + port, router stages router ×
30 + output, internal result stages by target, ports epoch parity × 32 + code. `fencing`: the accesses of a fenced launch are not
all performed yet (R26). `transient`: the transient faults of the core's elements and routers (R401). `bankTurn`: the agent of a class that a bank granted last, keyed as `turnKey` says
(R99). -/
structure Fabric where
  planes : Map Plane := []
  act : Nat := 0
  epoch : BitVec 32 := 0
  slots : Map Slot := []
  stages : Map Flight := []
  pipes : Map (List Flight) := []
  ops : Map OpState := []
  notes : Map (Nat × Nat) := []
  lastFire : Map Nat := []
  lastFiring : Nat := 0
  freed : Map Nat := []
  seenElem : BitVec 128 := 0
  seenRouter : BitVec 64 := 0
  inq : Map (List Flight) := []
  outq : Map (List Flight) := []
  ports : Map Port := []
  transient : Nat := 0
  launch : BitVec 2 := 0
  usedEpoch : Option (BitVec 32) := none
  fencing : Bool := false
  bankTurn : Map Nat := []
  switch : Option Switch := none
  trigCount : Nat := 0
  loads : List PlaneLoad := []
  trace : Trace := {}
  deriving DecidableEq, Repr

/-- A pattern record as read at issue (R189, R190). -/
structure Pattern where
  addr : Word := 0
  base : Word := 0
  xbase : Word := 0
  lens : List Nat := [0, 0, 0, 0]
  strs : List W32 := [0, 0, 0, 0]
  ctrl : W32 := 0
  aux : W32 := 0
  idx : W32 := 0
  iscale : W32 := 0
  deriving DecidableEq, Repr

/-- The hasp references of a command (R120, R198): acquire before, release after, with the acceptance number of R411. -/
structure CmdHasp where
  ref : Word := 0
  hid : Nat := 0
  acq : Bool := false
  rel : Bool := false
  order : Nat := 0
  deriving DecidableEq, Repr

/-- An accepted stream command (R185, R198, R215): SUB of its mnemonic, port code, record, epoch, hasp flags. -/
structure StreamCmd where
  sub : Nat := 0
  port : Nat := 0
  pat : Pattern := {}
  epoch : BitVec 32 := 0
  hasp : CmdHasp := {}
  deriving DecidableEq, Repr

/-- A started stream in a slot (R187 to R197, R357 to R361): command; whether the acquire is done; a read's row, the next position in
it and whether an end-of-tile marker is next; a write's next position; whether the positions are exhausted or the scan is over; EOS
delivered or taken; every write performed; tokens delivered or bytes written; merges applied; the write line buffer; the address and
position of the fault it stopped on; a SIND's indices by run and gathered values by position; the scan cursor and buffer; a key
without its value, or whether the second token of an entry, or a token's exponent, is next; a failure reported by a fibre's home. -/
structure Stream where
  cmd : StreamCmd := {}
  acquired : Bool := false
  row : Nat := 0
  pos : Nat := 0
  tile : Bool := false
  done : Bool := false
  eos : Bool := false
  ended : Bool := false
  relSent : Bool := false
  count : Nat := 0
  merges : Nat := 0
  line : List (Nat × Byte) := []
  fault : Option Nat := none
  spot : Nat := 0
  indices : Map W32 := []
  gathered : Map W32 := []
  cursor : Option Nat := none
  buffer : List (W32 × W32) := []
  key : Option W32 := none
  second : Bool := false
  failed : Option Nat := none
  deriving DecidableEq, Repr

/-- A stream engine (R102, R202, R213): queue, four slots, streams ended in the queue that still release, COMPLETED, OVR, CAN. -/
structure Engine where
  queue : List StreamCmd := []
  slots : Map Stream := []
  ending : List Stream := []
  completed : Nat := 0
  ovr : Bool := false
  can : Bool := false
  deriving DecidableEq, Repr

/-- A command of a matrix command stream (R266, R295, R296): MLDW or MMUL with its operands as read at issue, its hasp flags and
acceptance number, whether its acquire is performed; for ACC = 1 the target's bytes as they stood at the start, or behind
the acquire (R265, R266). -/
structure MatCmd where
  load : Bool := false
  slot : Nat := 0
  src : Nat := 0
  dst : Nat := 0
  fmt : BitVec 4 := 1
  k : Nat := 128
  n : Nat := 128
  m : Nat := 0
  opnd : Word := 0
  hasp : CmdHasp := {}
  acquired : Bool := false
  relSent : Bool := false
  prior : List Byte := []
  deriving DecidableEq, Repr

/-- A copy (R203): addresses, length, spaces, EI, EST, hasp flags, its follow-on MMUL, its progress: the bytes landed,
and those read behind them that have not landed yet. -/
structure Copy where
  dst : Word := 0
  src : Word := 0
  len : Nat := 0
  dsp : BitVec 3 := 0
  ssp : BitVec 3 := 0
  ei : Bool := false
  est : Bool := false
  hasp : CmdHasp := {}
  mmul : Option MmulArgs := none
  mcmd : Option MatCmd := none
  landed : Nat := 0
  staged : List Byte := []
  started : Bool := false
  acquired : Bool := false
  fault : Option Nat := none
  relSent : Bool := false
  deriving DecidableEq, Repr

/-- A copy channel (R103, R202): queue of copies, the first in progress, COMPLETED, CAN, WP, and the bytes that cancelled copies did not
land, which WPWAIT counts as ended (R294). -/
structure Channel where
  queue : List Copy := []
  completed : Nat := 0
  can : Bool := false
  wp : Word := 0
  gone : Nat := 0
  deriving DecidableEq, Repr

/-- A buffer (R97): bytes and the F and E bits of its 128-byte lines; an unlisted byte is 0, an unlisted line full and exact. -/
structure Buffer where
  bytes : Map Byte := []
  empty : Map Bool := []
  est : Map Bool := []
  deriving DecidableEq, Repr

/-- A line of the data cache (R95): line number PA / 64, key id of its page, the bytes stored since the last write-back, 64 bytes. -/
structure DLine where
  line : Nat := 0
  key : BitVec 12 := 0
  dirty : BitVec 64 := 0
  bytes : List Byte := []
  deriving DecidableEq, Repr

/-- A line of the instruction cache (R96): process, line number VA / 64, 64 bytes. -/
structure ILine where
  proc : Nat := 0
  line : Nat := 0
  bytes : List Byte := []
  deriving DecidableEq, Repr

/-- A TLB entry (R325): process, first address, page size, the leaf entry and its physical address. -/
structure TlbEntry where
  proc : Nat := 0
  va : Nat := 0
  size : Nat := 0
  pte : Word := 0
  ptePa : Nat := 0
  deriving DecidableEq, Repr

/-- Which unit of a core faults (R327): control thread, stream slot of an engine, copy channel, an instruction fetch, the loader of a
task's bound images (R369), or no unit at all: a hint (R363). -/
inductive FaultUnit where
  | thread
  | fetch
  | stream (e slot : Nat)
  | copy (ch : Nat)
  | image
  | hint
  deriving DecidableEq, Repr

/-- A fault that a unit holds or a pager serves (R324, R327): process, address, access (0 read, 1 write, 2 fetch), reason of R324
or 4 for memory, the unit and its core, whether the access is to a fibre page. -/
structure FaultTok where
  proc : Nat := 0
  va : Nat := 0
  access : Nat := 0
  reason : Nat := 0
  core : Nat := 0
  unit : FaultUnit := .thread
  fibre : Bool := false
  deriving DecidableEq, Repr

/-- The control thread's run state (R182, R239): no task, running, stopped by a trap (cause, double), stopped for a debugger. -/
inductive Run where
  | idle
  | running
  | stopped (cause : Nat) (double : Bool)
  | parked
  deriving DecidableEq, Repr

/-- What the control thread waits for (R170, R172, R287, R293): nothing; a hasp registration; a service reply; the core's hand-over
after a YIELD; the acknowledgements of a KEY; a fibre home's reply, a PDISCARD whose pages below an address are done (R356); an LMARK that has marked its
first lines (R162); an XSTAT that has issued and whose status is not written yet (R303). -/
inductive Wait where
  | none
  | hasp (hid : Nat)
  | service
  | yielded
  | key
  | reply
  | pages (upto : Nat)
  | marks (lines : Nat)
  | status
  deriving DecidableEq, Repr

/-- An asynchronous trap held until a boundary (R182): cause code and TVAL; whether a posted fibre operation failed (R349). -/
structure AsyncTrap where
  cause : Nat := 0
  value : Word := 0
  fibre : Bool := false
  deriving DecidableEq, Repr

/-- A release or acquire of a command on its way to the hasp's home (R198, R289, R411): reference, release or acquire, bytes a
BYTES release reports, acceptance number, and the unit that waits (0 engine slot, 1 channel, 2 matrix stream, 3 array). -/
structure HaspFlight where
  ref : Word := 0
  hid : Nat := 0
  rel : Bool := false
  bytes : Nat := 0
  order : Nat := 0
  unit : Nat := 0
  a : Nat := 0
  b : Nat := 0
  deriving DecidableEq, Repr

/-- Who asks for a bank of a buffer (R99): the control thread; a stream in a slot; a copy channel; a command of the matrix array, by its stream's
key, for its operands or for its results; a fire of a crossbar array, likewise; a fabric target; the plane loader (R228). -/
inductive BankAgent where
  | thread
  | stream (e slot : Nat)
  | copy (ch : Nat)
  | matrix (key : Nat) (result : Bool)
  | fire (arr : Nat) (result : Bool)
  | fabric (t : Nat)
  | loader
  deriving DecidableEq, Repr

/-- A request at the banks of a buffer (R99): its agent, the acceptance number of the agent's command or the thread's PC, the buffer, first byte
and bytes, the cycle in which it was made, whether a bank has granted it. -/
structure BankReq where
  agent : BankAgent := .thread
  order : Nat := 0
  buf : BitVec 3 := 1
  addr : Nat := 0
  len : Nat := 0
  born : Nat := 0
  granted : Bool := false
  deriving DecidableEq, Repr

/-- A core (R89, R92): control thread, core registers, buffers, caches, fabric, engines, channels. `bankReqs` holds the requests that a bank has
refused and that stand (R99). `rfence` marks the routers that are fenced as routers (R28), whose elements' bits of EFNC are set with them. -/
structure Core where
  id : Nat := 0
  regs : Vector Word 32 := Vector.replicate 32 0
  etag : Vector Bool 32 := Vector.replicate 32 false
  pc : Word := 0
  run : Run := .idle
  stalled : Bool := false
  stallCyc : Option Nat := none
  wait : Wait := .none
  task : Option Nat := none
  proc : Nat := 0
  tenant : Nat := 0
  tid : Word := 0
  icnt : Word := 0
  tvec : Word := 0
  tcause : Word := 0
  tpc : Word := 0
  tval : Word := 0
  tstat : Word := 0
  lcnt : Word := 0
  lstart : Word := 0
  lend : Word := 0
  ptrg : Word := 0
  efnc : BitVec 128 := 0
  rfence : BitVec 64 := 0
  inj : Word := 0
  clsb : Word := 0
  clsz : Word := 0
  bankReqs : List BankReq := []
  qreq : Option QuiesceCause := none
  qcyc : Nat := 0
  qpt : Bool := false
  held : Bool := false
  act : Buffer := {}
  wgt : Buffer := {}
  acc : Buffer := {}
  icache : List ILine := []
  dcache : List DLine := []
  utlb : List TlbEntry := []
  asyncs : List AsyncTrap := []
  faults : List FaultTok := []
  fatal : Option Nat := none
  fab : Fabric := {}
  engines : Map Engine := []
  chans : Map Channel := []
  accepted : Nat := 0
  flights : List HaspFlight := []
  posted : Nat := 0
  postFails : List (Nat × Word) := []
  stop : Option (Nat × Nat × Nat × List Nat) := none
  owner : Option Nat := none
  last : Option Nat := none
  scrub : Bool := false
  dispatched : Nat := 0
  deriving DecidableEq, Repr

/-- A weight slot of the matrix array (R261, R263): bytes of the set, latched format and shape, owner, shape accepted last, lasting
fault. -/
structure WSlot where
  bytes : Map Byte := []
  fmt : BitVec 4 := 1
  k : Nat := 128
  n : Nat := 128
  owner : Option Nat := none
  accK : Nat := 128
  accN : Nat := 128
  bad : Bool := false
  deriving DecidableEq, Repr

/-- The state of a crossbar array (R276). -/
inductive ArrayState where
  | zero
  | ready
  | drift
  | worn
  | programming
  deriving DecidableEq, Repr

/-- A command on an array (R273, R299): kind (0 XPROG, 1 XFIRE, 2 XCAL), issuing core, addresses, hasp flags, injection; whether its
acquire is on its way or performed, whether it has started; a fire's input lines, and the failure of its shim record's CHECK. -/
structure XbarCmd where
  kind : Nat := 0
  core : Nat := 0
  src : Nat := 0
  dst : Nat := 0
  hasp : CmdHasp := {}
  inject : Bool := false
  acqSent : Bool := false
  acquired : Bool := false
  started : Bool := false
  input : List Byte := []
  badShim : Bool := false
  relSent : Bool := false
  deriving DecidableEq, Repr

/-- A crossbar array (R269, R271, R276, R277): levels of its 512 × 256 cell pairs, state, programming count, drift statistics, owner,
shim record, queue of commands. -/
structure XArray where
  levels : Map Int := []
  state : ArrayState := .zero
  progs : Nat := 0
  drs : Nat := 0
  owner : Option Nat := none
  sw : W32 := 0
  calCyc : Word := 0
  drf : W32 := 0
  refA : W32 := 0
  refB : W32 := 0
  ofs : Map Nat := []
  gain : Map Nat := []
  queue : List XbarCmd := []
  deriving DecidableEq, Repr

/-- A cluster (R246, R266, R269): cluster store, its words with a lasting error, the lines left out of partitions, the errors that each bank
counted (R249), those of the weight slices (R268); the matrix array's slots, command streams by core × 4 + stream, the stream served last,
the streams whose MLDW and whose MMUL run; the arrays of the crossbar bank, the array that holds a lane, fenced lanes, the core that a lane
served last, the cached shim records, the latest used first, the boot's measurement of the arrays that are not listed (first free value,
cycle; R277). -/
structure Cluster where
  store : Map Byte := []
  badWords : List Nat := []
  badLines : List Nat := []
  corrected : Map Nat := []
  weightCorrected : Nat := 0
  measured : Option (Nat × Word) := none
  wslots : Map WSlot := []
  mstreams : Map (List MatCmd) := []
  mturn : Nat := 63
  loading : Option Nat := none
  multiplying : Option Nat := none
  arrays : Map XArray := []
  lanes : Map Nat := []
  lanesFenced : List Nat := []
  laneTurn : Map Nat := []
  shimCache : List Nat := []
  deriving DecidableEq, Repr

/-- A posted fibre operation at its home (R348, R352, R353): kind (0 FMERGE, 1 FMRGF, 2 FCLR, 3 FFREE, 4 FNEW), the process, header,
second header, key, value, format, FMRGF's cursor and buffer. -/
structure FibOp where
  kind : Nat := 0
  proc : Nat := 0
  va : Word := 0
  hdr : Nat := 0
  src : Nat := 0
  srcVa : Word := 0
  key : W32 := 0
  val : W32 := 0
  fmt : BitVec 4 := 0
  cursor : Option Nat := none
  buffer : List (W32 × W32) := []
  /-- VFMT of the source that `buffer` was scanned from. -/
  srcFmt : Nat := 0
  scanned : Bool := false
  core : Nat := 0
  task : Nat := 0
  tenant : Nat := 0
  seq : Nat := 0
  stream : Option (Nat × Nat) := none
  flow : Option Nat := none
  deriving DecidableEq, Repr

/-- A tenant's segment pool on a stack (R342): guaranteed rows and slack rows. -/
structure Pool where
  tenant : Nat := 0
  quota : Nat := 0
  used : Nat := 0
  deriving DecidableEq, Repr

/-- A registration of a waiting task with a hasp (R256): task, hasp, the phase that the waiter read, whether it waits for a MUTEX. -/
structure Registration where
  task : Nat := 0
  hid : Nat := 0
  phase : Bool := false
  lock : Bool := false
  deriving DecidableEq, Repr

/-- A die with its memory stack (R318 to R331, R371, R400): DRAM errors, row activations, TLB, pager, fibre homes, pools, scheduler; `shim`
is where the region of its crossbar arrays' records starts in the stack (R276), `granted` the ranges of its DRAM (address, size) that Hythen has
granted to tenants (R328, R342, R233). -/
structure Die where
  shim : Nat := 0x17FB800000
  granted : List (Nat × Nat) := []
  badWords : List Nat := []
  corrected : Nat := 0
  outOfUse : List Nat := []
  openRow : Map Nat := []
  activations : Map Nat := []
  holds : Map Nat := []
  tlb : List TlbEntry := []
  pager : List FaultTok := []
  free : Map (List Nat) := []
  fibq : Map (List FibOp) := []
  pools : Map Pool := []
  slack : Nat := 0
  slackUsed : Nat := 0
  rowsFree : List Nat := []
  queues : Map (List Nat) := []
  turn : Nat := 63
  used : Nat := 0
  counter : Nat := 0
  weights : Map Nat := []
  onChip : List Nat := []
  spilling : List Nat := []
  spilled : List Nat := []
  heldTenants : List Nat := []
  regs : List Registration := []
  fenced : Bool := false
  deriving DecidableEq, Repr

/-- Where a task is (R369 to R378). -/
inductive TaskStatus where
  | queued
  | running
  | parked
  | stopped
  | retired
  | killed
  deriving DecidableEq, Repr

/-- What a context save keeps of a core (R89, R233): the core's own saved fields, as a core record, and its queued matrix commands. -/
structure Saved where
  core : Core := {}
  mstreams : List (List MatCmd) := []
  deriving DecidableEq, Repr

/-- A task (R369): identity, launch data, where it is, saved context, phase notes, groups, service request and reply, a wake on its
way, with the key id of the lock that it grants, the groups in which it has arrived, the locks it holds, the core asked to make room for it (R373), the next slot of its fault
records (R219), whether a debugger is attached, its stop record, its trace ring's address and records, the references by which its watchpoints
and its groups were named, asynchronous traps held until it first runs (R259), the save area of its context (R233), whether a kill waits for its
quiescent point (R378). -/
structure Task where
  num : Nat := 0
  tenant : Nat := 0
  proc : Nat := 0
  prio : Nat := 0
  die : Nat := 0
  entry : Word := 0
  images : List Word := []
  arg : Word := 0
  status : TaskStatus := .queued
  saved : Option Saved := none
  notes : List (Nat × Bool) := []
  groups : List Nat := []
  request : Option (Nat × List Word) := none
  reply : Option Word := none
  wake : Option Nat := none
  granted : Option (BitVec 12) := none
  arrived : List Nat := []
  locks : List Nat := []
  asked : Option Nat := none
  faultSlot : Nat := 0
  debug : Bool := false
  stopRecord : List Byte := []
  ring : Option (Word × Nat) := none
  watches : List (Nat × Word) := []
  refs : List (Nat × Word) := []
  asyncs : List AsyncTrap := []
  area : Option Nat := none
  killing : Bool := false
  deriving DecidableEq, Repr

/-- A binding of a mailbox slot (R366): generation, entry, images, priority, die. -/
structure Binding where
  gen : Nat := 0
  entry : Word := 0
  images : List Word := []
  prio : Nat := 0
  die : Nat := 0
  deriving DecidableEq, Repr

/-- A slot of a launch page (R365): HANDLE, ARG, LAUNCHES, last task number, CODE, binding. -/
structure LaunchSlot where
  handle : Word := 0
  arg : Word := 0
  launches : Nat := 0
  last : Nat := 0
  code : Nat := 0
  binding : Option Binding := none
  gen : Nat := 0
  deriving DecidableEq, Repr

/-- An operation of a flow that is sent and not acknowledged (R418, R419): the words of its flow slot as they stood at GO. -/
structure FlowOp where
  kind : Nat := 0
  src : Word := 0
  dst : Word := 0
  href : Word := 0
  val : Word := 0
  ctrl : Word := 0
  /-- Acknowledged ahead of an earlier operation of an unordered flow. -/
  done : Bool := false
  /-- A copy's source is read (R413): its bytes on their way; the CODE of a source that could not be read. -/
  read : Bool := false
  bytes : List Byte := []
  fails : Nat := 0
  deriving DecidableEq, Repr

/-- A flow slot of a send page (R417 to R419): its words, counters, binding (package, process, ordered), operations in flight, the port that
carries the flow. -/
structure FlowSlot where
  ctrl : Word := 0
  src : Word := 0
  dst : Word := 0
  href : Word := 0
  val : Word := 0
  acked : Nat := 0
  sent : Nat := 0
  code : Nat := 0
  bound : Option (Nat × Nat × Bool) := none
  inFlight : List FlowOp := []
  port : Nat := 0
  deriving DecidableEq, Repr

/-- An operation at the receive agent of a flow (R412, R413): its number, the CODE of R420 with which it is performed or failed (0: performed). -/
structure Arrival where
  flow : Nat := 0
  id : Nat := 0
  op : RemoteOp
  done : Option Nat := none
  deriving DecidableEq, Repr

/-- A process (R253, R322, R364, R418): tenant, table root, default hasp, launch page, send page, fault-record page. -/
structure Proc where
  tenant : Nat := 0
  root : Nat := 0
  hasp : Word := 0
  launchVa : Option Nat := none
  sendVa : Option Nat := none
  faultVa : Option Nat := none
  slots : Map LaunchSlot := []
  flows : Map FlowSlot := []
  deriving DecidableEq, Repr

/-- A tenant (R246, R370, R376): cluster-store partitions by cluster (offset, size), guaranteed queue slots by die, by die its spill region
(process, address, records), the next record of each region, the memory for save areas (address, areas; R233), whether it exists (R421). -/
structure Tenant where
  cls : Map (Nat × Nat) := []
  slots : Map Nat := []
  spill : Map (Nat × Nat × Nat) := []
  spillNext : Map Nat := []
  save : Map (Nat × Nat) := []
  live : Bool := false
  deriving DecidableEq, Repr

/-- A live-expert record (R422): process, address of the record, hasp L, placement (package, stack). -/
structure Expert where
  proc : Nat := 0
  addr : Word := 0
  hasp : Word := 0
  placement : List (Nat × Nat) := []
  deriving DecidableEq, Repr

/-- A pintle link (R391, R393): fenced, retries of the flit, consecutive failures, counted retries. -/
structure Link where
  fenced : Bool := false
  tries : Nat := 0
  retries : Nat := 0
  deriving DecidableEq, Repr

/-- The package (R391 to R402, R416 to R422): links; fenced ports with the port that took over, itself where none was left; ready and recovery, the reports of the ready flag by port; the images
installed (version, digest), their fused minimum versions, the measurement chain; service cores removed; the governor's step, its
cycles and last measurement; droop records and stretched domains; the operator key's digest; discarded requests and replies of the
management mailbox; lasting faults of cluster-store lines reported to tenants (tenant, cluster, line; R249); live-expert records and strike notices (package, die); translation changes not yet acknowledged (process, page,
size); migrations under way (process, page, stack); hints to Hythen; receive agents and the acknowledgements they sent. -/
structure Package where
  links : Map Link := []
  portFenced : Map Nat := []
  ready : Bool := false
  readySent : List (Nat × List Byte) := []
  recovery : Bool := false
  images : Map (Nat × BitVec 512) := []
  minVersion : Map Nat := []
  chain : List (BitVec 512) := []
  serviceDown : List Nat := []
  throttle : Nat := 0
  throttleCyc : Nat := 0
  measured : Nat := 0
  droops : List (List Byte) := []
  stretched : List Nat := []
  opKey : Option (BitVec 512) := none
  mgmtDropped : Nat := 0
  mgmtReplies : List (Nat × List Byte) := []
  lineReports : List (Nat × Nat × Nat) := []
  experts : List Expert := []
  striking : List (Nat × Nat) := []
  unacked : List (Nat × Nat × Nat) := []
  migrations : List (Nat × Nat × Nat) := []
  hints : List (Nat × Nat × Nat × Nat × Nat) := []
  arriving : List Arrival := []
  arrivals : Nat := 0
  acksSent : List (Nat × Nat) := []
  deriving DecidableEq, Repr

/-- A step of another agent that the machine takes of its own accord (log 2): a target's firing or access, a token's hop, a change of a
switch, a step of the fabric as a whole, of a stream, a copy, a hasp flight, the array, a lane or a crossbar array, of faults, homes,
services and the scheduler. -/
inductive Agent where
  | fire (t : Nat)
  | performed (t : Nat)
  | hop (src : HopSource)
  | changeover (t : Nat)
  | routerChangeover (r : Nat)
  | drain (pt : DrainPoint)
  | switchComplete
  | switchStall
  | stalledPlane
  | trigger
  | launchEnd
  | loadStart
  | loadWrite
  | loadCheck
  | traceWalk
  | streamStart
  | deliver (e slot : Nat)
  | take (e slot : Nat)
  | gather (e slot n : Nat)
  | probe (e slot : Nat)
  | scan (src : ScanSource)
  | streamEnd (e slot : Nat)
  | copyStart (ch : Nat)
  | copyLand (ch : Nat)
  | copyComplete (ch : Nat)
  | haspFlight (k : Nat)
  | matrixStart
  | matrixComplete (load : Bool)
  | fireStart (lane : Nat)
  | fireComplete (lane : Nat)
  | calibrate (arr : Nat)
  | program (arr : Nat)
  | quiescent
  | contextSave
  | preciseStop
  | contextRestore (task : Nat)
  | wake (task : Nat)
  | kill (task : Nat)
  | service (task : Nat)
  | accepted
  | postFailed
  | merge (issuer : Nat)
  | fault (k : Nat)
  | pager (k : Nat)
  | escalate (k : Nat)
  | invalidate
  | scrub
  | dispatch
  | preempt
  | waitPreempt
  | spill
  | spillReturn
  | pass
  deriving DecidableEq, Repr

/-- What a turn is of (log 2): a core's control thread, a step named with its operands, a step that the machine takes of its own accord. -/
inductive Move where
  | thread
  | event (i : Instr)
  | agent (a : Agent)
  deriving DecidableEq, Repr

/-- Whose turn it is (log 2): the core that the step is of, or on whose die or cluster it is, and what moves. -/
structure Turn where
  core : Nat := 0
  what : Move := .thread
  deriving DecidableEq, Repr

/-- The machine. `core` is the core whose turn it is, `others` the other cores by number; `mem` is DRAM by physical address in
canonical form with default 0 (R319); `ptes` the page tables' entries by physical address / 8. -/
structure State where
  core : Core := {}
  others : Map Core := []
  clusters : Map Cluster := []
  dies : Map Die := []
  mem : Map Byte := []
  ptes : Map Word := []
  procs : Map Proc := []
  tenants : Map Tenant := []
  tasks : Map Task := []
  pkg : Package := {}
  cyc : Nat := 0
  agenda : List Turn := []
  free : Nat := 0
  deriving DecidableEq, Repr

/-- Why the machine stops. -/
inductive Fault where
  /-- A controller is asked for a physical address that R318 calls absent; raised by the step DRAM_ACCESS alone, since no translation
  names such an address. Safe: the machine stops where the hardware never goes. -/
  | absentAddress (pa : Nat)
  deriving DecidableEq, Repr

/-- Why a step has no meaning. -/
inductive Refusal where
  /-- An arm of the dispatch that has no meaning yet; no meaning answers with it. Safe: the model stops. -/
  | notModelled (mnemonic : String)
  deriving DecidableEq, Repr

/-- The machine right after power good: every field at its default, which is the value the spec gives or log 1 names. -/
def State.reset : State := {}

end Sys2Proof.Machine
end

