-- ==== Sys2Proof/Decode.lean ====
section
/-! DEFINITION. The decoder of control-thread instructions, total on any bytes and rejecting by name, and the encoder, both
written from the formats and the opcode map of spec/06_formats.md. The decoder splits words as R120 lays them out; a reserved
field or an unused register field that is not zero is rejected (R3, R122). Field values that the table leaves free and a rule
makes illegal (a rounding mode above 4, a space code above 4) decode here and raise ILLEGAL in the meaning, see WellFormed. -/

namespace Sys2Proof

/-- Why bytes are no instruction. Each is ILLEGAL on the machine (R122, R123), but for `truncated`: more bytes are needed. -/
inductive DecodeError where
  /-- Fewer bytes than the instruction has. -/
  | truncated
  /-- A major opcode that R123 does not list. -/
  | unknownMajor
  /-- A function, SUB, COND or OPC value that the group does not assign. -/
  | unknownFunction
  /-- A reserved bit or an unused field that is not zero. -/
  | nonzeroField
  /-- L set where no literal is admitted. -/
  | literalForbidden
  /-- L clear where the literal is required. -/
  | literalMissing
  /-- A CPYM without its MMUL, or an MMUL with F set on its own (R133). -/
  | unfused
  deriving DecidableEq, Repr

/-- The `n`-bit field of `w` whose lowest bit is `lo`, as a number. -/
def bits (w lo n : Nat) : Nat := w / 2 ^ lo % 2 ^ n

/-- The same field as a bit vector. -/
def fieldOf (w lo n : Nat) : BitVec n := BitVec.ofNat n (w / 2 ^ lo)

/-- Bit `k` of `w`. -/
def flag (w k : Nat) : Bool := w / 2 ^ k % 2 == 1

/-- The register field whose lowest bit is `lo`. -/
def regAt (w lo : Nat) : Reg := fieldOf w lo 5

/-- ACQ, REL and HR of an S-format word (R120). -/
def haspFlagsOf (w : Nat) : HaspFlags := { acq := flag w 8, rel := flag w 7, hr := regAt w 2 }

/-- The major opcode, bits 31:26 (R119). -/
def major (w : Nat) : Nat := bits w 26 6

/-- Whether the first word announces a literal word: L of the A groups 0x01 and 0x02 is bit 10 (R124, R128), L of the S format
is bit 12 (R120). -/
def hasLiteral (w : Nat) : Bool :=
  if major w = 0x01 ∨ major w = 0x02 then flag w 10
  else if 0x38 ≤ major w ∧ major w ≤ 0x3D ∧ major w ≠ 0x3B then flag w 12
  else false

/-- Whether the word is a CPYM, which is decoded together with the MMUL that follows it (R133). -/
def isCpym (w : Nat) : Bool := major w == 0x39 && bits w 9 3 == 1 && flag w 12

/-- How many words the instruction that begins with `w` has: 1, 2 with its literal, 4 for CPYM and MMUL (R119, R133). -/
def wordsNeeded (w : Nat) : Nat := if isCpym w then 4 else if hasLiteral w then 2 else 1

/-- The integer register forms by OP (R124). -/
def intRegister (op : Nat) (d a b : Reg) : Except DecodeError Instr :=
  match op with
  | 0 => .ok (.add d a b)
  | 1 => .ok (.sub d a b)
  | 2 => .ok (.mul d a b)
  | 3 => .ok (.mulh d a b)
  | 4 => .ok (.mulhn d a b)
  | 5 => .ok (.div d a b)
  | 6 => .ok (.divn d a b)
  | 7 => .ok (.rem d a b)
  | 8 => .ok (.remn d a b)
  | 9 => .ok (.and d a b)
  | 10 => .ok (.or d a b)
  | 11 => .ok (.xor d a b)
  | 12 => .ok (.andn d a b)
  | 13 => .ok (.sll d a b)
  | 14 => .ok (.srl d a b)
  | 15 => .ok (.sra d a b)
  | 16 => .ok (.slt d a b)
  | 17 => .ok (.sltn d a b)
  | 18 => if b = 0 then .ok (.clz d a) else .error .nonzeroField
  | 19 => if b = 0 then .ok (.popc d a) else .error .nonzeroField
  | _ => .error .unknownFunction

/-- The integer forms with a literal by OP (R124). -/
def intLiteral (op : Nat) (d a : Reg) (lit : W32) : Except DecodeError Instr :=
  match op with
  | 0 => .ok (.addLit d a lit)
  | 1 => .ok (.subLit d a lit)
  | 2 => .ok (.mulLit d a lit)
  | 3 => .ok (.mulhLit d a lit)
  | 4 => .ok (.mulhnLit d a lit)
  | 5 => .ok (.divLit d a lit)
  | 6 => .ok (.divnLit d a lit)
  | 7 => .ok (.remLit d a lit)
  | 8 => .ok (.remnLit d a lit)
  | 9 => .ok (.andLit d a lit)
  | 10 => .ok (.orLit d a lit)
  | 11 => .ok (.xorLit d a lit)
  | 12 => .ok (.andnLit d a lit)
  | 13 => .ok (.sllLit d a lit)
  | 14 => .ok (.srlLit d a lit)
  | 15 => .ok (.sraLit d a lit)
  | 16 => .ok (.sltLit d a lit)
  | 17 => .ok (.sltnLit d a lit)
  | 18 => .error .literalForbidden
  | 19 => .error .literalForbidden
  | _ => .error .unknownFunction

/-- Major 0x01 (R124). -/
def decodeInteger (w lit : Nat) : Except DecodeError Instr :=
  if bits w 5 5 ≠ 0 then .error .nonzeroField
  else if flag w 10 then
    if bits w 11 5 ≠ 0 then .error .nonzeroField
    else intLiteral (bits w 0 5) (regAt w 21) (regAt w 16) (BitVec.ofNat 32 lit)
  else intRegister (bits w 0 5) (regAt w 21) (regAt w 16) (regAt w 11)

/-- Major 0x02 without a literal (R128). -/
def fpRegister (op : Nat) (d a b : Reg) (rm : BitVec 3) (sat : Bool) : Except DecodeError Instr :=
  match op with
  | 0 => .ok (.fadd d a b rm sat)
  | 1 => .ok (.fsub d a b rm sat)
  | 2 => .ok (.fmul d a b rm sat)
  | 3 => .ok (.fdiv d a b rm sat)
  | 4 => if b = 0 then .ok (.fsqrt d a rm sat) else .error .nonzeroField
  | 5 => .ok (.fma d a b rm sat)
  | 6 => if rm = 0 ∧ sat = false then .ok (.fmin d a b) else .error .nonzeroField
  | 7 => if rm = 0 ∧ sat = false then .ok (.fmax d a b) else .error .nonzeroField
  | 8 => if sat = false then .ok (.fcmp d a b rm) else .error .nonzeroField
  | 9 => .error .literalMissing
  | _ => .error .unknownFunction

/-- Major 0x02 with a literal in the place of operand b (R128). -/
def fpLiteral (op : Nat) (d a : Reg) (lit : W32) (rm : BitVec 3) (sat : Bool) : Except DecodeError Instr :=
  match op with
  | 0 => .ok (.faddLit d a lit rm sat)
  | 1 => .ok (.fsubLit d a lit rm sat)
  | 2 => .ok (.fmulLit d a lit rm sat)
  | 3 => .ok (.fdivLit d a lit rm sat)
  | 4 => .error .literalForbidden
  | 5 => .ok (.fmaLit d a lit rm sat)
  | 6 => if rm = 0 ∧ sat = false then .ok (.fminLit d a lit) else .error .nonzeroField
  | 7 => if rm = 0 ∧ sat = false then .ok (.fmaxLit d a lit) else .error .nonzeroField
  | 8 => if sat = false then .ok (.fcmpLit d a lit rm) else .error .nonzeroField
  | _ => .error .unknownFunction

/-- Major 0x02 (R128): scalar fp and ACCEPT. Only ACCEPT uses F2, and it keeps its b field beside the literal. -/
def decodeFloat (w lit : Nat) : Except DecodeError Instr :=
  if bits w 2 4 = 9 ∧ flag w 10 then
    if bits w 6 4 ≠ 0 ∨ bits w 1 1 ≠ 0 then .error .nonzeroField
    else .ok (.accept (regAt w 21) (regAt w 16) (regAt w 11) (flag w 0) (BitVec.ofNat 32 lit))
  else if bits w 0 2 ≠ 0 then .error .nonzeroField
  else if flag w 10 then
    if bits w 11 5 ≠ 0 then .error .nonzeroField
    else fpLiteral (bits w 2 4) (regAt w 21) (regAt w 16) (BitVec.ofNat 32 lit) (fieldOf w 7 3) (flag w 6)
  else fpRegister (bits w 2 4) (regAt w 21) (regAt w 16) (regAt w 11) (fieldOf w 7 3) (flag w 6)

/-- Major 0x03 (R129): FCVT. -/
def decodeFcvt (w : Nat) : Except DecodeError Instr :=
  if bits w 15 1 ≠ 0 ∨ bits w 0 3 ≠ 0 then .error .nonzeroField
  else .ok (.fcvt (regAt w 21) (regAt w 16) (fieldOf w 11 4) (fieldOf w 8 3) (flag w 7) (fieldOf w 3 4))

/-- Major 0x04 (R130): the system instructions by the whole fn. -/
def decodeSystem (w : Nat) : Except DecodeError Instr :=
  if bits w 0 11 = 5 then .ok (.spawn (regAt w 21) (regAt w 16) (regAt w 11))
  else if bits w 11 15 ≠ 0 then .error .nonzeroField
  else match bits w 0 11 with
    | 1 => .ok .eret
    | 2 => .ok .yield
    | 3 => .ok .retire
    | 4 => .ok .fenceI
    | _ => .error .unknownFunction

/-- ATOM by OPC (R127). -/
def atomOf (opc : Nat) (d a b : Reg) (space : BitVec 3) (dbl : Bool) : Except DecodeError Instr :=
  match opc with
  | 0 => .ok (.atomAdd d a b space dbl)
  | 1 => .ok (.atomAnd d a b space dbl)
  | 2 => .ok (.atomOr d a b space dbl)
  | 3 => .ok (.atomXor d a b space dbl)
  | 4 => .ok (.atomMin d a b space dbl)
  | 5 => .ok (.atomMax d a b space dbl)
  | 6 => .ok (.atomMinn d a b space dbl)
  | 7 => .ok (.atomMaxn d a b space dbl)
  | 8 => .ok (.atomSwap d a b space dbl)
  | 9 => .ok (.atomCas d a b space dbl)
  | _ => .error .unknownFunction

/-- LMARK by OPC (R127). -/
def lmarkOf (opc : Nat) (a b : Reg) (space : BitVec 3) : Except DecodeError Instr :=
  match opc with
  | 0 => .ok (.lmarkEmpty a b space)
  | 1 => .ok (.lmarkFull a b space)
  | 2 => .ok (.lmarkEst a b space)
  | 3 => .ok (.lmarkExact a b space)
  | _ => .error .unknownFunction

/-- Major 0x09 (R127): ATOM, LMARK and LWAIT by fn[7:6]. -/
def decodeAtom (w : Nat) : Except DecodeError Instr :=
  if bits w 0 1 ≠ 0 then .error .nonzeroField
  else match bits w 6 2 with
    | 0 => atomOf (bits w 1 4) (regAt w 21) (regAt w 16) (regAt w 11) (fieldOf w 8 3) (flag w 5)
    | 1 => if bits w 21 5 ≠ 0 ∨ flag w 5 then .error .nonzeroField
           else lmarkOf (bits w 1 4) (regAt w 16) (regAt w 11) (fieldOf w 8 3)
    | 2 => if bits w 21 5 ≠ 0 ∨ bits w 11 5 ≠ 0 ∨ bits w 1 5 ≠ 0 then .error .nonzeroField
           else .ok (.lwait (regAt w 16) (fieldOf w 8 3))
    | _ => .error .unknownFunction

/-- Major 0x30 (R131): the branches by cond. -/
def decodeBranch (w : Nat) : Except DecodeError Instr :=
  match bits w 13 3 with
  | 0 => .ok (.beq (regAt w 21) (regAt w 16) (fieldOf w 0 13))
  | 1 => .ok (.bne (regAt w 21) (regAt w 16) (fieldOf w 0 13))
  | 2 => .ok (.blt (regAt w 21) (regAt w 16) (fieldOf w 0 13))
  | 3 => .ok (.bge (regAt w 21) (regAt w 16) (fieldOf w 0 13))
  | 4 => .ok (.bltn (regAt w 21) (regAt w 16) (fieldOf w 0 13))
  | 5 => .ok (.bgen (regAt w 21) (regAt w 16) (fieldOf w 0 13))
  | _ => .error .unknownFunction

/-- A stream instruction SRD, SWR or SIND, by record register or by literal (R132). -/
def streamOf (w lit : Nat) (byReg : BitVec 3 → Reg → Reg → HaspFlags → Instr)
    (byLit : BitVec 3 → Reg → W32 → HaspFlags → Instr) : Except DecodeError Instr :=
  if bits w 0 2 ≠ 0 then .error .nonzeroField
  else if flag w 12 then
    if bits w 13 5 ≠ 0 then .error .nonzeroField
    else .ok (byLit (fieldOf w 23 3) (regAt w 18) (BitVec.ofNat 32 lit) (haspFlagsOf w))
  else .ok (byReg (fieldOf w 23 3) (regAt w 18) (regAt w 13) (haspFlagsOf w))

/-- Major 0x38 (R132): streams by SUB. -/
def decodeStream (w lit : Nat) : Except DecodeError Instr :=
  match bits w 9 3 with
  | 0 => streamOf w lit .srd .srdLit
  | 1 => streamOf w lit .swr .swrLit
  | 2 => streamOf w lit .sind .sindLit
  | 3 => if flag w 12 then .error .literalForbidden
         else if bits w 23 3 ≠ 0 ∨ bits w 13 5 ≠ 0 ∨ bits w 0 9 ≠ 0 then .error .nonzeroField
         else .ok (.pwait (regAt w 18))
  | 4 => if flag w 12 then .error .literalForbidden
         else if bits w 2 7 ≠ 0 then .error .nonzeroField
         else .ok (.sstat (fieldOf w 23 3) (regAt w 18) (regAt w 13) (fieldOf w 0 2))
  | _ => .error .unknownFunction

/-- The operands of a copy: the word and its literal (R132). -/
def copyArgsOf (w lit : Nat) : CopyArgs :=
  { ch := fieldOf w 23 3, gd := regAt w 18, gs := regAt w 13, len := regAt lit 27, dsp := fieldOf lit 24 3, ssp := fieldOf lit 21 3,
    ei := flag w 0, est := flag w 1, fl := haspFlagsOf w }

/-- The operands of an MMUL: the word and its literal (R134). -/
def mmulArgsOf (w lit : Nat) : MmulArgs :=
  { s := fieldOf w 23 2, gd := regAt w 18, a := regAt w 13, opnd := regAt lit 27, fmt := fieldOf lit 23 4, fl := haspFlagsOf w }

/-- Whether `w` and `lit` are an MMUL with F set (R133, R134). -/
def isFusedMmul (w lit : Nat) : Bool :=
  major w == 0x3C && bits w 9 3 == 1 && flag w 12 && bits w 25 1 == 0 && bits w 0 2 == 1 && bits lit 0 23 == 0

/-- Major 0x39 (R132, R133): copies by SUB. -/
def decodeCopy (w lit w2 lit2 : Nat) : Except DecodeError Instr :=
  match bits w 9 3 with
  | 0 => if flag w 12 = false then .error .literalMissing
         else if bits lit 0 21 ≠ 0 then .error .nonzeroField
         else .ok (.cpy (copyArgsOf w lit))
  | 1 => if flag w 12 = false then .error .literalMissing
         else if bits lit 0 21 ≠ 0 then .error .nonzeroField
         else if isFusedMmul w2 lit2 then .ok (.cpym (copyArgsOf w lit) (mmulArgsOf w2 lit2))
         else .error .unfused
  | 2 => if flag w 12 then .error .literalForbidden
         else if bits w 18 5 ≠ 0 ∨ bits w 0 9 ≠ 0 then .error .nonzeroField
         else .ok (.wpwait (fieldOf w 23 3) (regAt w 13))
  | _ => .error .unknownFunction

/-- Major 0x3A (R132): plane configuration by SUB. -/
def decodePlane (w : Nat) : Except DecodeError Instr :=
  if flag w 12 then .error .literalForbidden
  else if bits w 25 1 ≠ 0 ∨ bits w 0 9 ≠ 0 then .error .nonzeroField
  else match bits w 9 3 with
    | 0 => if bits w 18 5 ≠ 0 then .error .nonzeroField else .ok (.cfg (fieldOf w 23 2) (regAt w 13))
    | 1 => .ok (.cfgs (fieldOf w 23 2) (regAt w 18) (regAt w 13))
    | 2 => if bits w 13 10 ≠ 0 then .error .nonzeroField else .ok (.pswitch (fieldOf w 23 2))
    | 3 => if bits w 13 12 ≠ 0 then .error .nonzeroField else .ok .pdrain
    | 4 => .ok (.ptrig (fieldOf w 23 2) (regAt w 18) (regAt w 13))
    | _ => .error .unknownFunction

/-- Major 0x3B (R135): hasps and groups by bits 15:12. -/
def decodeHasp (w : Nat) : Except DecodeError Instr :=
  if bits w 0 4 ≠ 0 then .error .nonzeroField
  else match bits w 12 4 with
    | 0 => if bits w 21 5 ≠ 0 then .error .nonzeroField
           else .ok (.hinit (regAt w 16) (fieldOf w 9 3) (regAt w 4))
    | 1 => if bits w 4 8 ≠ 0 then .error .nonzeroField else .ok (.key (regAt w 21) (regAt w 16))
    | 6 => if bits w 21 5 ≠ 0 ∨ bits w 9 3 ≠ 0 then .error .nonzeroField else .ok (.hsig (regAt w 16) (regAt w 4))
    | n => if bits w 21 5 ≠ 0 ∨ bits w 4 8 ≠ 0 then .error .nonzeroField
           else match n with
             | 2 => .ok (.hacq (regAt w 16))
             | 3 => .ok (.hrel (regAt w 16))
             | 4 => .ok (.harr (regAt w 16))
             | 5 => .ok (.hwait (regAt w 16))
             | 7 => .ok (.join (regAt w 16))
             | 8 => .ok (.leave (regAt w 16))
             | _ => .error .unknownFunction

/-- Major 0x3C (R134): the exact matrix array by SUB. -/
def decodeMatrix (w lit : Nat) : Except DecodeError Instr :=
  if bits w 25 1 ≠ 0 then .error .nonzeroField
  else match bits w 9 3 with
    | 0 => if flag w 12 = false then .error .literalMissing
           else if bits w 0 2 ≠ 0 ∨ bits lit 0 23 ≠ 0 then .error .nonzeroField
           else .ok (.mldw (fieldOf w 23 2) (regAt w 18) (regAt w 13) (regAt lit 27) (fieldOf lit 23 4) (haspFlagsOf w))
    | 1 => if flag w 12 = false then .error .literalMissing
           else if flag w 0 then .error .unfused
           else if bits w 0 2 ≠ 0 ∨ bits lit 0 23 ≠ 0 then .error .nonzeroField
           else .ok (.mmul (mmulArgsOf w lit))
    | 2 => if flag w 12 then .error .literalForbidden
           else if bits w 13 10 ≠ 0 ∨ bits w 0 9 ≠ 0 then .error .nonzeroField
           else .ok (.mwait (fieldOf w 23 2))
    | _ => .error .unknownFunction

/-- Major 0x3D (R134): the crossbar by SUB. -/
def decodeCrossbar (w lit : Nat) : Except DecodeError Instr :=
  if bits w 23 3 ≠ 0 ∨ bits w 0 2 ≠ 0 then .error .nonzeroField
  else if 4 ≤ bits w 9 3 then .error .unknownFunction
  else if flag w 12 = false then .error .literalMissing
  else if bits lit 0 27 ≠ 0 then .error .nonzeroField
  else match bits w 9 3 with
    | 0 => if bits w 18 5 ≠ 0 then .error .nonzeroField
           else .ok (.xprog (regAt lit 27) (regAt w 13) (haspFlagsOf w))
    | 1 => .ok (.xfire (regAt lit 27) (regAt w 13) (regAt w 18) (haspFlagsOf w))
    | 2 => if bits w 13 10 ≠ 0 ∨ bits w 2 7 ≠ 0 then .error .nonzeroField else .ok (.xcal (regAt lit 27))
    | _ => if bits w 13 5 ≠ 0 ∨ bits w 2 7 ≠ 0 then .error .nonzeroField else .ok (.xstat (regAt w 18) (regAt lit 27))

/-- Major 0x3E (R136): fibres and pages by fn[9:6]. -/
def decodeFibre (w : Nat) : Except DecodeError Instr :=
  if bits w 10 1 ≠ 0 then .error .nonzeroField
  else match bits w 6 4 with
    | 2 => if bits w 0 6 ≠ 0 then .error .nonzeroField else .ok (.fprobe (regAt w 21) (regAt w 16) (regAt w 11))
    | 3 => if bits w 4 2 ≠ 0 then .error .nonzeroField
           else .ok (.fmerge (regAt w 16) (regAt w 11) (regAt w 21) (fieldOf w 0 4))
    | 5 => if bits w 0 6 ≠ 0 ∨ bits w 11 5 ≠ 0 then .error .nonzeroField else .ok (.fstat (regAt w 21) (regAt w 16))
    | n =>
      if bits w 21 5 ≠ 0 then .error .nonzeroField
      else match n, bits w 0 6 with
        | 0, 0 => .ok (.fnew (regAt w 16) (regAt w 11))
        | 1, 0 => if bits w 11 5 ≠ 0 then .error .nonzeroField else .ok (.ffree (regAt w 16))
        | 4, 0 => .ok (.fmrgf (regAt w 16) (regAt w 11))
        | 6, 0 => if bits w 11 5 ≠ 0 then .error .nonzeroField else .ok (.fclr (regAt w 16))
        | 7, 0 => .ok (.pdiscard (regAt w 16) (regAt w 11))
        | 8, 0 => .ok (.phintTlb (regAt w 16) (regAt w 11))
        | 8, 1 => .ok (.phintFill (regAt w 16) (regAt w 11))
        | 8, 2 => .ok (.phintCold (regAt w 16) (regAt w 11))
        | 8, 3 => .ok (.phintNear (regAt w 16) (regAt w 11))
        | _, _ => .error .unknownFunction

/-- The I and M formats whose major opcode alone selects the instruction (R123, R125, R126). -/
def decodeByMajor (w : Nat) : Except DecodeError Instr :=
  match major w with
  | 0x05 => if bits w 16 10 ≠ 0 then .error .nonzeroField else .ok (.trap (fieldOf w 0 16))
  | 0x06 => if bits w 16 10 ≠ 0 then .error .nonzeroField else .ok (.brk (fieldOf w 0 16))
  | 0x07 => if bits w 16 5 ≠ 0 ∨ bits w 10 6 ≠ 0 then .error .nonzeroField
            else .ok (.crrd (regAt w 21) (fieldOf w 0 10))
  | 0x08 => if bits w 21 5 ≠ 0 ∨ bits w 10 6 ≠ 0 then .error .nonzeroField
            else if bits w 0 10 = 0x031 then .ok (.crwrPtrg (regAt w 16))
            else if bits w 0 10 = 0x050 then .ok (.crwrInj (regAt w 16))
            else .ok (.crwr (regAt w 16) (fieldOf w 0 10))
  | 0x10 => .ok (.ldB (regAt w 21) (regAt w 16) (fieldOf w 13 3) (fieldOf w 0 13))
  | 0x11 => .ok (.ldBn (regAt w 21) (regAt w 16) (fieldOf w 13 3) (fieldOf w 0 13))
  | 0x12 => .ok (.ldH (regAt w 21) (regAt w 16) (fieldOf w 13 3) (fieldOf w 0 13))
  | 0x13 => .ok (.ldHn (regAt w 21) (regAt w 16) (fieldOf w 13 3) (fieldOf w 0 13))
  | 0x14 => .ok (.ldW (regAt w 21) (regAt w 16) (fieldOf w 13 3) (fieldOf w 0 13))
  | 0x15 => .ok (.ldWn (regAt w 21) (regAt w 16) (fieldOf w 13 3) (fieldOf w 0 13))
  | 0x16 => .ok (.ldD (regAt w 21) (regAt w 16) (fieldOf w 13 3) (fieldOf w 0 13))
  | 0x17 => .ok (.ldEh (regAt w 21) (regAt w 16) (fieldOf w 13 3) (fieldOf w 0 13))
  | 0x18 => .ok (.ldEw (regAt w 21) (regAt w 16) (fieldOf w 13 3) (fieldOf w 0 13))
  | 0x19 => .ok (.sb (regAt w 21) (regAt w 16) (fieldOf w 13 3) (fieldOf w 0 13))
  | 0x1A => .ok (.sh (regAt w 21) (regAt w 16) (fieldOf w 13 3) (fieldOf w 0 13))
  | 0x1B => .ok (.sw (regAt w 21) (regAt w 16) (fieldOf w 13 3) (fieldOf w 0 13))
  | 0x1C => .ok (.sd (regAt w 21) (regAt w 16) (fieldOf w 13 3) (fieldOf w 0 13))
  | 0x20 => .ok (.addi (regAt w 21) (regAt w 16) (fieldOf w 0 16))
  | 0x21 => .ok (.andi (regAt w 21) (regAt w 16) (fieldOf w 0 16))
  | 0x22 => .ok (.ori (regAt w 21) (regAt w 16) (fieldOf w 0 16))
  | 0x23 => .ok (.xori (regAt w 21) (regAt w 16) (fieldOf w 0 16))
  | 0x24 => if bits w 6 10 ≠ 0 then .error .nonzeroField else .ok (.slli (regAt w 21) (regAt w 16) (fieldOf w 0 6))
  | 0x25 => if bits w 6 10 ≠ 0 then .error .nonzeroField else .ok (.srli (regAt w 21) (regAt w 16) (fieldOf w 0 6))
  | 0x26 => if bits w 6 10 ≠ 0 then .error .nonzeroField else .ok (.srai (regAt w 21) (regAt w 16) (fieldOf w 0 6))
  | 0x27 => .ok (.slti (regAt w 21) (regAt w 16) (fieldOf w 0 16))
  | 0x28 => if bits w 16 5 ≠ 0 then .error .nonzeroField else .ok (.lui (regAt w 21) (fieldOf w 0 16))
  | 0x31 => if bits w 13 8 ≠ 0 then .error .nonzeroField else .ok (.loop (regAt w 21) (fieldOf w 0 13))
  | 0x32 => .ok (.j (fieldOf w 0 26))
  | 0x33 => .ok (.jal (fieldOf w 0 26))
  | 0x34 => .ok (.jalr (regAt w 21) (regAt w 16) (fieldOf w 0 16))
  | _ => .error .unknownMajor

/-- Decode a first word, its literal word, and for a CPYM the MMUL's two words (R119 to R136). -/
def decodeWords (w lit w2 lit2 : Nat) : Except DecodeError Instr :=
  match major w with
  | 0x01 => decodeInteger w lit
  | 0x02 => decodeFloat w lit
  | 0x03 => decodeFcvt w
  | 0x04 => decodeSystem w
  | 0x09 => decodeAtom w
  | 0x30 => decodeBranch w
  | 0x38 => decodeStream w lit
  | 0x39 => decodeCopy w lit w2 lit2
  | 0x3A => decodePlane w
  | 0x3B => decodeHasp w
  | 0x3C => decodeMatrix w lit
  | 0x3D => decodeCrossbar w lit
  | 0x3E => decodeFibre w
  | _ => decodeByMajor w

/-- Four bytes as a word, little-endian (R2). -/
def wordOfBytes (b0 b1 b2 b3 : Byte) : Nat := b0.toNat + 256 * b1.toNat + 65536 * b2.toNat + 16777216 * b3.toNat

/-- The bytes of a word, little-endian (R2). -/
def bytesOfWord (w : Nat) : List Byte :=
  [BitVec.ofNat 8 w, BitVec.ofNat 8 (w / 256), BitVec.ofNat 8 (w / 65536), BitVec.ofNat 8 (w / 16777216)]

/-- The next word of a byte list, and the bytes after it. -/
def takeWord : List Byte → Option (Nat × List Byte)
  | b0 :: b1 :: b2 :: b3 :: rest => some (wordOfBytes b0 b1 b2 b3, rest)
  | _ => none

/-- The instruction at the start of a byte list, and the bytes after it. -/
def decode (bs : List Byte) : Except DecodeError (Instr × List Byte) :=
  match takeWord bs with
  | none => .error .truncated
  | some (w, r1) =>
    if isCpym w then
      match takeWord r1 with
      | none => .error .truncated
      | some (lit, r2) =>
        match takeWord r2 with
        | none => .error .truncated
        | some (w2, r3) =>
          match takeWord r3 with
          | none => .error .truncated
          | some (lit2, r4) => (decodeWords w lit w2 lit2).map (fun i => (i, r4))
    else if hasLiteral w then
      match takeWord r1 with
      | none => .error .truncated
      | some (lit, r2) => (decodeWords w lit 0 0).map (fun i => (i, r2))
    else (decodeWords w 0 0 0).map (fun i => (i, r1))

/-- Format A (R120). -/
def wordA (op d a b fn : Nat) : Nat := op * 2 ^ 26 + d * 2 ^ 21 + a * 2 ^ 16 + b * 2 ^ 11 + fn

/-- Format I; also formats J and H with their fields joined (R120). -/
def wordI (op d a imm : Nat) : Nat := op * 2 ^ 26 + d * 2 ^ 21 + a * 2 ^ 16 + imm

/-- Formats M and B (R120). -/
def wordM (op d a sp off : Nat) : Nat := op * 2 ^ 26 + d * 2 ^ 21 + a * 2 ^ 16 + sp * 2 ^ 13 + off

/-- Format S (R120); `low` holds the flags in bits 12:0. -/
def wordS (op eng port rec low : Nat) : Nat := op * 2 ^ 26 + eng * 2 ^ 23 + port * 2 ^ 18 + rec * 2 ^ 13 + low

/-- The ACQ, REL and HR bits of a word. -/
def HaspFlags.toBits (f : HaspFlags) : Nat := f.acq.toNat * 2 ^ 8 + f.rel.toNat * 2 ^ 7 + f.hr.toNat * 2 ^ 2

/-- The two words of a copy; `sub` is 0 for CPY, 1 for CPYM. -/
def CopyArgs.toWords (c : CopyArgs) (sub : Nat) : List Nat :=
  [wordS 0x39 c.ch.toNat c.gd.toNat c.gs.toNat (0x1000 + sub * 2 ^ 9 + c.fl.toBits + c.ei.toNat + c.est.toNat * 2),
   c.len.toNat * 2 ^ 27 + c.dsp.toNat * 2 ^ 24 + c.ssp.toNat * 2 ^ 21]

/-- The two words of an MMUL; `f` is its F bit. -/
def MmulArgs.toWords (m : MmulArgs) (f : Nat) : List Nat :=
  [wordS 0x3C m.s.toNat m.gd.toNat m.a.toNat (0x1200 + m.fl.toBits + f), m.opnd.toNat * 2 ^ 27 + m.fmt.toNat * 2 ^ 23]

/-- The words of an instruction (R119 to R136); a step that is no control-thread instruction has none. -/
def encode (i : Instr) : List Nat :=
  match i with
  | .add d a b => [wordA 0x01 d.toNat a.toNat b.toNat 0]
  | .addLit d a lit => [wordA 0x01 d.toNat a.toNat 0 1024, lit.toNat]
  | .sub d a b => [wordA 0x01 d.toNat a.toNat b.toNat 1]
  | .subLit d a lit => [wordA 0x01 d.toNat a.toNat 0 1025, lit.toNat]
  | .mul d a b => [wordA 0x01 d.toNat a.toNat b.toNat 2]
  | .mulLit d a lit => [wordA 0x01 d.toNat a.toNat 0 1026, lit.toNat]
  | .mulh d a b => [wordA 0x01 d.toNat a.toNat b.toNat 3]
  | .mulhLit d a lit => [wordA 0x01 d.toNat a.toNat 0 1027, lit.toNat]
  | .mulhn d a b => [wordA 0x01 d.toNat a.toNat b.toNat 4]
  | .mulhnLit d a lit => [wordA 0x01 d.toNat a.toNat 0 1028, lit.toNat]
  | .div d a b => [wordA 0x01 d.toNat a.toNat b.toNat 5]
  | .divLit d a lit => [wordA 0x01 d.toNat a.toNat 0 1029, lit.toNat]
  | .divn d a b => [wordA 0x01 d.toNat a.toNat b.toNat 6]
  | .divnLit d a lit => [wordA 0x01 d.toNat a.toNat 0 1030, lit.toNat]
  | .rem d a b => [wordA 0x01 d.toNat a.toNat b.toNat 7]
  | .remLit d a lit => [wordA 0x01 d.toNat a.toNat 0 1031, lit.toNat]
  | .remn d a b => [wordA 0x01 d.toNat a.toNat b.toNat 8]
  | .remnLit d a lit => [wordA 0x01 d.toNat a.toNat 0 1032, lit.toNat]
  | .and d a b => [wordA 0x01 d.toNat a.toNat b.toNat 9]
  | .andLit d a lit => [wordA 0x01 d.toNat a.toNat 0 1033, lit.toNat]
  | .or d a b => [wordA 0x01 d.toNat a.toNat b.toNat 10]
  | .orLit d a lit => [wordA 0x01 d.toNat a.toNat 0 1034, lit.toNat]
  | .xor d a b => [wordA 0x01 d.toNat a.toNat b.toNat 11]
  | .xorLit d a lit => [wordA 0x01 d.toNat a.toNat 0 1035, lit.toNat]
  | .andn d a b => [wordA 0x01 d.toNat a.toNat b.toNat 12]
  | .andnLit d a lit => [wordA 0x01 d.toNat a.toNat 0 1036, lit.toNat]
  | .sll d a b => [wordA 0x01 d.toNat a.toNat b.toNat 13]
  | .sllLit d a lit => [wordA 0x01 d.toNat a.toNat 0 1037, lit.toNat]
  | .srl d a b => [wordA 0x01 d.toNat a.toNat b.toNat 14]
  | .srlLit d a lit => [wordA 0x01 d.toNat a.toNat 0 1038, lit.toNat]
  | .sra d a b => [wordA 0x01 d.toNat a.toNat b.toNat 15]
  | .sraLit d a lit => [wordA 0x01 d.toNat a.toNat 0 1039, lit.toNat]
  | .slt d a b => [wordA 0x01 d.toNat a.toNat b.toNat 16]
  | .sltLit d a lit => [wordA 0x01 d.toNat a.toNat 0 1040, lit.toNat]
  | .sltn d a b => [wordA 0x01 d.toNat a.toNat b.toNat 17]
  | .sltnLit d a lit => [wordA 0x01 d.toNat a.toNat 0 1041, lit.toNat]
  | .clz d a => [wordA 0x01 d.toNat a.toNat 0 18]
  | .popc d a => [wordA 0x01 d.toNat a.toNat 0 19]
  | .addi d a imm => [wordI 0x20 d.toNat a.toNat imm.toNat]
  | .andi d a imm => [wordI 0x21 d.toNat a.toNat imm.toNat]
  | .ori d a imm => [wordI 0x22 d.toNat a.toNat imm.toNat]
  | .xori d a imm => [wordI 0x23 d.toNat a.toNat imm.toNat]
  | .slli d a sh => [wordI 0x24 d.toNat a.toNat sh.toNat]
  | .srli d a sh => [wordI 0x25 d.toNat a.toNat sh.toNat]
  | .srai d a sh => [wordI 0x26 d.toNat a.toNat sh.toNat]
  | .slti d a imm => [wordI 0x27 d.toNat a.toNat imm.toNat]
  | .lui d imm => [wordI 0x28 d.toNat 0 imm.toNat]
  | .fadd d a b rm sat => [wordA 0x02 d.toNat a.toNat b.toNat (rm.toNat * 2 ^ 7 + sat.toNat * 2 ^ 6 + 0)]
  | .faddLit d a lit rm sat => [wordA 0x02 d.toNat a.toNat 0 (1024 + rm.toNat * 2 ^ 7 + sat.toNat * 2 ^ 6 + 0), lit.toNat]
  | .fsub d a b rm sat => [wordA 0x02 d.toNat a.toNat b.toNat (rm.toNat * 2 ^ 7 + sat.toNat * 2 ^ 6 + 4)]
  | .fsubLit d a lit rm sat => [wordA 0x02 d.toNat a.toNat 0 (1024 + rm.toNat * 2 ^ 7 + sat.toNat * 2 ^ 6 + 4), lit.toNat]
  | .fmul d a b rm sat => [wordA 0x02 d.toNat a.toNat b.toNat (rm.toNat * 2 ^ 7 + sat.toNat * 2 ^ 6 + 8)]
  | .fmulLit d a lit rm sat => [wordA 0x02 d.toNat a.toNat 0 (1024 + rm.toNat * 2 ^ 7 + sat.toNat * 2 ^ 6 + 8), lit.toNat]
  | .fdiv d a b rm sat => [wordA 0x02 d.toNat a.toNat b.toNat (rm.toNat * 2 ^ 7 + sat.toNat * 2 ^ 6 + 12)]
  | .fdivLit d a lit rm sat => [wordA 0x02 d.toNat a.toNat 0 (1024 + rm.toNat * 2 ^ 7 + sat.toNat * 2 ^ 6 + 12), lit.toNat]
  | .fsqrt d a rm sat => [wordA 0x02 d.toNat a.toNat 0 (rm.toNat * 2 ^ 7 + sat.toNat * 2 ^ 6 + 16)]
  | .fma d a b rm sat => [wordA 0x02 d.toNat a.toNat b.toNat (rm.toNat * 2 ^ 7 + sat.toNat * 2 ^ 6 + 20)]
  | .fmaLit d a lit rm sat => [wordA 0x02 d.toNat a.toNat 0 (1024 + rm.toNat * 2 ^ 7 + sat.toNat * 2 ^ 6 + 20), lit.toNat]
  | .fmin d a b => [wordA 0x02 d.toNat a.toNat b.toNat 24]
  | .fminLit d a lit => [wordA 0x02 d.toNat a.toNat 0 1048, lit.toNat]
  | .fmax d a b => [wordA 0x02 d.toNat a.toNat b.toNat 28]
  | .fmaxLit d a lit => [wordA 0x02 d.toNat a.toNat 0 1052, lit.toNat]
  | .fcmp d a b cond => [wordA 0x02 d.toNat a.toNat b.toNat (cond.toNat * 2 ^ 7 + 32)]
  | .fcmpLit d a lit cond => [wordA 0x02 d.toNat a.toNat 0 (1024 + cond.toNat * 2 ^ 7 + 32), lit.toNat]
  | .accept d a b half tol => [wordA 0x02 d.toNat a.toNat b.toNat (1024 + 36 + half.toNat), tol.toNat]
  | .fcvt d a dst rm sat src => [wordA 0x03 d.toNat a.toNat dst.toNat (rm.toNat * 2 ^ 8 + sat.toNat * 2 ^ 7 + src.toNat * 2 ^ 3)]
  | .eret => [wordA 0x04 0 0 0 1]
  | .yield => [wordA 0x04 0 0 0 2]
  | .retire => [wordA 0x04 0 0 0 3]
  | .fenceI => [wordA 0x04 0 0 0 4]
  | .spawn d a b => [wordA 0x04 d.toNat a.toNat b.toNat 5]
  | .trap code => [wordI 0x05 0 0 code.toNat]
  | .brk code => [wordI 0x06 0 0 code.toNat]
  | .crrd d n => [wordI 0x07 d.toNat 0 n.toNat]
  | .crwr a n => [wordI 0x08 0 a.toNat n.toNat]
  | .crwrPtrg a => [wordI 0x08 0 a.toNat 0x031]
  | .crwrInj a => [wordI 0x08 0 a.toNat 0x050]
  | .atomAdd d a b space dbl => [wordA 0x09 d.toNat a.toNat b.toNat (space.toNat * 2 ^ 8 + dbl.toNat * 2 ^ 5 + 0)]
  | .atomAnd d a b space dbl => [wordA 0x09 d.toNat a.toNat b.toNat (space.toNat * 2 ^ 8 + dbl.toNat * 2 ^ 5 + 2)]
  | .atomOr d a b space dbl => [wordA 0x09 d.toNat a.toNat b.toNat (space.toNat * 2 ^ 8 + dbl.toNat * 2 ^ 5 + 4)]
  | .atomXor d a b space dbl => [wordA 0x09 d.toNat a.toNat b.toNat (space.toNat * 2 ^ 8 + dbl.toNat * 2 ^ 5 + 6)]
  | .atomMin d a b space dbl => [wordA 0x09 d.toNat a.toNat b.toNat (space.toNat * 2 ^ 8 + dbl.toNat * 2 ^ 5 + 8)]
  | .atomMax d a b space dbl => [wordA 0x09 d.toNat a.toNat b.toNat (space.toNat * 2 ^ 8 + dbl.toNat * 2 ^ 5 + 10)]
  | .atomMinn d a b space dbl => [wordA 0x09 d.toNat a.toNat b.toNat (space.toNat * 2 ^ 8 + dbl.toNat * 2 ^ 5 + 12)]
  | .atomMaxn d a b space dbl => [wordA 0x09 d.toNat a.toNat b.toNat (space.toNat * 2 ^ 8 + dbl.toNat * 2 ^ 5 + 14)]
  | .atomSwap d a b space dbl => [wordA 0x09 d.toNat a.toNat b.toNat (space.toNat * 2 ^ 8 + dbl.toNat * 2 ^ 5 + 16)]
  | .atomCas d a b space dbl => [wordA 0x09 d.toNat a.toNat b.toNat (space.toNat * 2 ^ 8 + dbl.toNat * 2 ^ 5 + 18)]
  | .lmarkEmpty a b space => [wordA 0x09 0 a.toNat b.toNat (space.toNat * 2 ^ 8 + 64)]
  | .lmarkFull a b space => [wordA 0x09 0 a.toNat b.toNat (space.toNat * 2 ^ 8 + 66)]
  | .lmarkEst a b space => [wordA 0x09 0 a.toNat b.toNat (space.toNat * 2 ^ 8 + 68)]
  | .lmarkExact a b space => [wordA 0x09 0 a.toNat b.toNat (space.toNat * 2 ^ 8 + 70)]
  | .lwait a space => [wordA 0x09 0 a.toNat 0 (space.toNat * 2 ^ 8 + 128)]
  | .ldB d a space off => [wordM 0x10 d.toNat a.toNat space.toNat off.toNat]
  | .ldBn d a space off => [wordM 0x11 d.toNat a.toNat space.toNat off.toNat]
  | .ldH d a space off => [wordM 0x12 d.toNat a.toNat space.toNat off.toNat]
  | .ldHn d a space off => [wordM 0x13 d.toNat a.toNat space.toNat off.toNat]
  | .ldW d a space off => [wordM 0x14 d.toNat a.toNat space.toNat off.toNat]
  | .ldWn d a space off => [wordM 0x15 d.toNat a.toNat space.toNat off.toNat]
  | .ldD d a space off => [wordM 0x16 d.toNat a.toNat space.toNat off.toNat]
  | .ldEh d a space off => [wordM 0x17 d.toNat a.toNat space.toNat off.toNat]
  | .ldEw d a space off => [wordM 0x18 d.toNat a.toNat space.toNat off.toNat]
  | .sb src a space off => [wordM 0x19 src.toNat a.toNat space.toNat off.toNat]
  | .sh src a space off => [wordM 0x1A src.toNat a.toNat space.toNat off.toNat]
  | .sw src a space off => [wordM 0x1B src.toNat a.toNat space.toNat off.toNat]
  | .sd src a space off => [wordM 0x1C src.toNat a.toNat space.toNat off.toNat]
  | .beq a b off => [wordM 0x30 a.toNat b.toNat 0 off.toNat]
  | .bne a b off => [wordM 0x30 a.toNat b.toNat 1 off.toNat]
  | .blt a b off => [wordM 0x30 a.toNat b.toNat 2 off.toNat]
  | .bge a b off => [wordM 0x30 a.toNat b.toNat 3 off.toNat]
  | .bltn a b off => [wordM 0x30 a.toNat b.toNat 4 off.toNat]
  | .bgen a b off => [wordM 0x30 a.toNat b.toNat 5 off.toNat]
  | .loop a off => [wordM 0x31 a.toNat 0 0 off.toNat]
  | .j off => [wordI 0x32 0 0 off.toNat]
  | .jal off => [wordI 0x33 0 0 off.toNat]
  | .jalr d a imm => [wordI 0x34 d.toNat a.toNat imm.toNat]
  | .srd eng port recReg fl => [wordS 0x38 eng.toNat port.toNat recReg.toNat (0 + fl.toBits)]
  | .srdLit eng port lit fl => [wordS 0x38 eng.toNat port.toNat 0 (0x1000 + 0 + fl.toBits), lit.toNat]
  | .swr eng port recReg fl => [wordS 0x38 eng.toNat port.toNat recReg.toNat (512 + fl.toBits)]
  | .swrLit eng port lit fl => [wordS 0x38 eng.toNat port.toNat 0 (0x1000 + 512 + fl.toBits), lit.toNat]
  | .sind eng port recReg fl => [wordS 0x38 eng.toNat port.toNat recReg.toNat (1024 + fl.toBits)]
  | .sindLit eng port lit fl => [wordS 0x38 eng.toNat port.toNat 0 (0x1000 + 1024 + fl.toBits), lit.toNat]
  | .pwait port => [wordS 0x38 0 port.toNat 0 0x600]
  | .sstat eng port d kind => [wordS 0x38 eng.toNat port.toNat d.toNat (0x800 + kind.toNat)]
  | .cpy c => c.toWords 0
  | .cpym c m => c.toWords 1 ++ m.toWords 1
  | .wpwait ch a => [wordS 0x39 ch.toNat 0 a.toNat 0x400]
  | .cfg p a => [wordS 0x3A p.toNat 0 a.toNat 0]
  | .cfgs p b a => [wordS 0x3A p.toNat b.toNat a.toNat 0x200]
  | .pswitch p => [wordS 0x3A p.toNat 0 0 0x400]
  | .pdrain => [wordS 0x3A 0 0 0 0x600]
  | .ptrig p port a => [wordS 0x3A p.toNat port.toNat a.toNat 0x800]
  | .hinit h mode b => [wordI 0x3B 0 h.toNat (mode.toNat * 2 ^ 9 + b.toNat * 2 ^ 4)]
  | .key a h => [wordI 0x3B a.toNat h.toNat 0x1000]
  | .hacq h => [wordI 0x3B 0 h.toNat 0x2000]
  | .hrel h => [wordI 0x3B 0 h.toNat 0x3000]
  | .harr h => [wordI 0x3B 0 h.toNat 0x4000]
  | .hwait h => [wordI 0x3B 0 h.toNat 0x5000]
  | .hsig h b => [wordI 0x3B 0 h.toNat (0x6000 + b.toNat * 2 ^ 4)]
  | .join h => [wordI 0x3B 0 h.toNat 0x7000]
  | .leave h => [wordI 0x3B 0 h.toNat 0x8000]
  | .mldw s slot a shape fmt fl => [wordS 0x3C s.toNat slot.toNat a.toNat (0x1000 + fl.toBits), shape.toNat * 2 ^ 27 + fmt.toNat * 2 ^ 23]
  | .mmul m => m.toWords 0
  | .mwait s => [wordS 0x3C s.toNat 0 0 0x400]
  | .xprog arr b fl => [wordS 0x3D 0 0 b.toNat (0x1000 + fl.toBits), arr.toNat * 2 ^ 27]
  | .xfire arr b c fl => [wordS 0x3D 0 c.toNat b.toNat (0x1200 + fl.toBits), arr.toNat * 2 ^ 27]
  | .xcal arr => [wordS 0x3D 0 0 0 0x1400, arr.toNat * 2 ^ 27]
  | .xstat d arr => [wordS 0x3D 0 d.toNat 0 0x1600, arr.toNat * 2 ^ 27]
  | .fnew a b => [wordA 0x3E 0 a.toNat b.toNat (0 * 2 ^ 6 + 0)]
  | .ffree a => [wordA 0x3E 0 a.toNat 0 (1 * 2 ^ 6 + 0)]
  | .fprobe d a b => [wordA 0x3E d.toNat a.toNat b.toNat (2 * 2 ^ 6 + 0)]
  | .fmerge a b d fmt => [wordA 0x3E d.toNat a.toNat b.toNat (3 * 2 ^ 6 + fmt.toNat)]
  | .fmrgf a b => [wordA 0x3E 0 a.toNat b.toNat (4 * 2 ^ 6 + 0)]
  | .fstat d a => [wordA 0x3E d.toNat a.toNat 0 (5 * 2 ^ 6 + 0)]
  | .fclr a => [wordA 0x3E 0 a.toNat 0 (6 * 2 ^ 6 + 0)]
  | .pdiscard a b => [wordA 0x3E 0 a.toNat b.toNat (7 * 2 ^ 6 + 0)]
  | .phintTlb a b => [wordA 0x3E 0 a.toNat b.toNat (8 * 2 ^ 6 + 0)]
  | .phintFill a b => [wordA 0x3E 0 a.toNat b.toNat (8 * 2 ^ 6 + 1)]
  | .phintCold a b => [wordA 0x3E 0 a.toNat b.toNat (8 * 2 ^ 6 + 2)]
  | .phintNear a b => [wordA 0x3E 0 a.toNat b.toNat (8 * 2 ^ 6 + 3)]
  | .asyncTrap => []
  | .fetchMiss _ => []
  | .tokenHop _ => []
  | .elementFire _ _ => []
  | .stalledPlane => []
  | .faddElement _ => []
  | .fsubElement _ => []
  | .fmulElement _ => []
  | .fmaElement _ => []
  | .fmsElement _ => []
  | .fminElement _ => []
  | .fmaxElement _ => []
  | .fabsElement _ => []
  | .fnegElement _ => []
  | .frcpElement _ => []
  | .frsqElement _ => []
  | .fsqrtElement _ => []
  | .fdivElement _ => []
  | .frndElement _ => []
  | .iaddElement _ => []
  | .isubElement _ => []
  | .imulElement _ => []
  | .imulhElement _ => []
  | .imadElement _ => []
  | .iminElement _ => []
  | .imaxElement _ => []
  | .andElement _ => []
  | .orElement _ => []
  | .xorElement _ => []
  | .andnElement _ => []
  | .shlElement _ => []
  | .shrElement _ => []
  | .clzElement _ => []
  | .popcElement _ => []
  | .fcmpElement _ => []
  | .icmpElement _ => []
  | .selElement _ => []
  | .passElement _ => []
  | .fcvtElement _ => []
  | .bxqElement _ => []
  | .faccElement _ => []
  | .iaccElement _ => []
  | .ctrElement _ => []
  | .steerElement _ => []
  | .mergeElement _ => []
  | .carryElement _ => []
  | .rankElement _ => []
  | .acceptElement _ => []
  | .constElement _ => []
  | .sinkElement _ => []
  | .ldElement _ => []
  | .stElement _ => []
  | .ataddElement _ => []
  | .fabricAccessPerformed _ => []
  | .bankGrant _ _ => []
  | .elementChangeover _ => []
  | .routerChangeover _ => []
  | .switchComplete => []
  | .drainEnter _ => []
  | .switchStall => []
  | .triggerFire => []
  | .launchEnd => []
  | .planeLoadStart => []
  | .planeLoadWrite => []
  | .planeLoadCheck => []
  | .streamStart => []
  | .streamDeliver _ _ => []
  | .streamWriteToken _ _ => []
  | .gatherComplete _ _ _ => []
  | .streamEnd _ _ => []
  | .copyStart _ => []
  | .copyLand _ _ => []
  | .copyComplete _ => []
  | .quiescenceRequest _ => []
  | .quiescentPoint => []
  | .contextSave => []
  | .contextRestore _ => []
  | .instructionPageInvalidate _ _ => []
  | .traceWalkStep => []
  | .preciseStop => []
  | .clusterStoreAccess _ _ => []
  | .haspOperation _ _ _ => []
  | .wakeDelivery _ => []
  | .engineHaspOperation _ => []
  | .matrixCommandStart => []
  | .matrixCommandComplete _ _ => []
  | .slotReassign _ _ => []
  | .fireStart _ => []
  | .fireComplete _ => []
  | .calibration _ => []
  | .programming _ _ => []
  | .arrayErase _ _ => []
  | .tlbMissWalk _ _ => []
  | .invalidationBroadcast => []
  | .faultToken _ => []
  | .pagerResolution _ => []
  | .faultEscalation _ _ => []
  | .dramAccess _ _ _ => []
  | .rowHammerRefresh _ => []
  | .periodicRefresh _ => []
  | .mergeEntry _ => []
  | .probe _ _ => []
  | .scanStep _ => []
  | .acceptanceNotice => []
  | .postedFailure => []
  | .launch _ _ _ => []
  | .dispatch => []
  | .preemption => []
  | .waitPreemption => []
  | .spill _ => []
  | .spillReturn => []
  | .taskKill _ => []
  | .scrub => []
  | .partitionZero _ => []
  | .flitReceive _ _ => []
  | .powerGood _ _ => []
  | .governorMeasure _ => []
  | .droop _ => []
  | .dieFence _ => []
  | .defhasp _ => []
  | .handle _ => []
  | .mapmem _ _ _ _ => []
  | .unmapmem _ => []
  | .tracering _ _ _ => []
  | .telem _ => []
  | .attest _ => []
  | .watch _ => []
  | .launchpage _ => []
  | .sendpage _ => []
  | .imageUpdate _ _ _ => []
  | .imageCommit _ _ => []
  | .tenantCreation _ _ => []
  | .flowSlotBinding _ _ => []
  | .debuggerAttach _ _ => []
  | .managementRead _ _ => []
  | .dieStriking _ _ => []
  | .goSend _ _ => []
  | .goClear _ _ => []
  | .remoteLaunch _ _ => []
  | .remoteCopy _ _ _ => []
  | .remoteMerge _ _ => []
  | .acknowledgement _ _ _ => []
  | .flowTimeout _ _ => []
  | .portFailover _ _ => []
  | .strikeNotice _ _ => []
  | .illegalInstruction _ _ => []
  | .pageMigration _ _ _ => []
  | .migrationEnd _ _ _ => []
  | .swapOut _ _ _ => []
  | .reclamation _ _ => []
  | .serviceCoreFailure _ => []
  | .supplyRecovery _ => []
  | .tenantHoldEnd _ => []
  | .quiescenceWithdrawal => []
  | .programLoad _ => []
  | .processCreation _ => []
  | .liveExpertRegistration _ _ => []
  | .operatorKeyCommit _ _ => []

/-- The bytes of an instruction in memory, each word little-endian (R2, R119). -/
def encodeBytes (i : Instr) : List Byte := ((encode i).map bytesOfWord).flatten

/-- The length of an instruction in bytes: 4, 8 with a literal, 16 for CPYM with its MMUL (R119, R133). -/
def Instr.size (i : Instr) : Nat := 4 * (encode i).length

/-- Word `k` of an instruction laid out as the opcode table numbers its bits. -/
def tableWord (w k : Nat) : Nat := w / 2 ^ (32 * k) % 2 ^ 32

/-- The bytes of an instruction given as one number, in the table's numbering; `nbits` of them are given, the rest is zero, up to
the longest instruction's four words. -/
def tableBytes (nbits w : Nat) : List Byte :=
  let v := w % 2 ^ nbits
  bytesOfWord (tableWord v 0) ++ bytesOfWord (tableWord v 1) ++ bytesOfWord (tableWord v 2) ++ bytesOfWord (tableWord v 3)

/-- The instruction the decoder reads from bits numbered as spec/opcode_table.json numbers them. -/
def decodeTableWord (nbits w : Nat) : Option Instr :=
  match decode (tableBytes nbits w) with
  | .ok (i, _) => some i
  | .error _ => none

end Sys2Proof
end

