-- ==== Sys2Proof/WellFormed.lean ====
section
/-! DEFINITION. Which field values of a decoded instruction are legal (spec/06_formats.md R122 to R136). An instruction whose
check fails raises ILLEGAL when it is decoded (R122); the meanings ask this check first. A step that has no encoding carries no
field to check. -/

namespace Sys2Proof

/-- A rounding mode code: 5 to 7 are illegal (R37, R128). -/
def legalMode (rm : BitVec 3) : Bool := rm.toNat < 5

/-- A space code of the M format: 5 to 7 are illegal (R95, R126). -/
def legalSpace (sp : BitVec 3) : Bool := sp.toNat < 5

/-- The buffer spaces act:, wgt: and acc: (R95), the only ones whose lines carry F and E. -/
def bufferSpace (sp : BitVec 3) : Bool := sp == 1 || sp == 2 || sp == 3

/-- The spaces that ATOM admits: all but wgt: (R127). -/
def atomSpace (sp : BitVec 3) : Bool := sp == 0 || sp == 1 || sp == 3 || sp == 4

/-- The format codes that FCVT admits, i64 and n64 included (R129). -/
def convertCode (f : BitVec 4) : Bool := f.toNat ≤ 0xD && f != 5

/-- The format codes of the matrix array (R262). -/
def matrixCode (f : BitVec 4) : Bool := 1 ≤ f.toNat && f.toNat ≤ 6

/-- The input formats of FMERGE (R136). -/
def mergeCode (f : BitVec 4) : Bool := f == 0 || f == 1 || f == 2 || f == 8 || f == 0xC

/-- HR is zero while ACQ and REL are both clear (R122). -/
def HaspFlags.legal (f : HaspFlags) : Bool := f.acq || f.rel || f.hr == 0

/-- An engine or channel number: above 3 is illegal (R132). -/
def legalUnit (e : BitVec 3) : Bool := e.toNat < 4

/-- A space that a copy reaches: never acc: (R203). -/
def copySpace (sp : BitVec 3) : Bool := sp == 0 || sp == 1 || sp == 2 || sp == 4

/-- The field rules of CPY and CPYM (R132, R203): EI needs a buffer as destination. -/
def CopyArgs.legal (c : CopyArgs) : Bool :=
  legalUnit c.ch && copySpace c.dsp && copySpace c.ssp && (!c.ei || bufferSpace c.dsp) && c.fl.legal

/-- The field rules of MMUL (R134, R262). -/
def MmulArgs.legal (m : MmulArgs) : Bool := matrixCode m.fmt && m.fl.legal

/-- The unit operand of SSTAT (R202): kinds 0 and 1 name an engine or channel and no port, kind 2 a port and no engine. -/
def legalUnitOperand (eng : BitVec 3) (port : Reg) (kind : BitVec 2) : Bool :=
  if kind == 3 then false else if kind == 2 then eng == 0 else legalUnit eng && port == 0

/-- A tolerance of ACCEPT: no NaN and no negative value but minus zero (R305). -/
def legalTolerance (t : W32) : Bool := t.toNat ≤ 0x7F800000 || t == 0x80000000

/-- Whether every field of the instruction is legal (R122 to R136). -/
def Instr.wellFormed (i : Instr) : Bool :=
  match i with
  | .add _ _ _ => true
  | .addLit _ _ _ => true
  | .sub _ _ _ => true
  | .subLit _ _ _ => true
  | .mul _ _ _ => true
  | .mulLit _ _ _ => true
  | .mulh _ _ _ => true
  | .mulhLit _ _ _ => true
  | .mulhn _ _ _ => true
  | .mulhnLit _ _ _ => true
  | .div _ _ _ => true
  | .divLit _ _ _ => true
  | .divn _ _ _ => true
  | .divnLit _ _ _ => true
  | .rem _ _ _ => true
  | .remLit _ _ _ => true
  | .remn _ _ _ => true
  | .remnLit _ _ _ => true
  | .and _ _ _ => true
  | .andLit _ _ _ => true
  | .or _ _ _ => true
  | .orLit _ _ _ => true
  | .xor _ _ _ => true
  | .xorLit _ _ _ => true
  | .andn _ _ _ => true
  | .andnLit _ _ _ => true
  | .sll _ _ _ => true
  | .sllLit _ _ _ => true
  | .srl _ _ _ => true
  | .srlLit _ _ _ => true
  | .sra _ _ _ => true
  | .sraLit _ _ _ => true
  | .slt _ _ _ => true
  | .sltLit _ _ _ => true
  | .sltn _ _ _ => true
  | .sltnLit _ _ _ => true
  | .clz _ _ => true
  | .popc _ _ => true
  | .addi _ _ _ => true
  | .andi _ _ _ => true
  | .ori _ _ _ => true
  | .xori _ _ _ => true
  | .slli _ _ _ => true
  | .srli _ _ _ => true
  | .srai _ _ _ => true
  | .slti _ _ _ => true
  | .lui _ _ => true
  | .fadd _ _ _ rm _ => legalMode rm
  | .faddLit _ _ _ rm _ => legalMode rm
  | .fsub _ _ _ rm _ => legalMode rm
  | .fsubLit _ _ _ rm _ => legalMode rm
  | .fmul _ _ _ rm _ => legalMode rm
  | .fmulLit _ _ _ rm _ => legalMode rm
  | .fdiv _ _ _ rm _ => legalMode rm
  | .fdivLit _ _ _ rm _ => legalMode rm
  | .fsqrt _ _ rm _ => legalMode rm
  | .fma _ _ _ rm _ => legalMode rm
  | .fmaLit _ _ _ rm _ => legalMode rm
  | .fmin _ _ _ => true
  | .fminLit _ _ _ => true
  | .fmax _ _ _ => true
  | .fmaxLit _ _ _ => true
  | .fcmp _ _ _ _ => true
  | .fcmpLit _ _ _ _ => true
  | .accept _ _ _ _ tol => legalTolerance tol
  | .fcvt _ _ dst rm _ src => legalMode rm && convertCode dst && convertCode src
  | .eret => true
  | .yield => true
  | .retire => true
  | .fenceI => true
  | .spawn _ _ _ => true
  | .trap _ => true
  | .brk _ => true
  | .crrd _ _ => true
  | .crwr _ n => n != 0x031 && n != 0x050
  | .crwrPtrg _ => true
  | .crwrInj _ => true
  | .atomAdd _ _ _ space _ => atomSpace space
  | .atomAnd _ _ _ space _ => atomSpace space
  | .atomOr _ _ _ space _ => atomSpace space
  | .atomXor _ _ _ space _ => atomSpace space
  | .atomMin _ _ _ space _ => atomSpace space
  | .atomMax _ _ _ space _ => atomSpace space
  | .atomMinn _ _ _ space _ => atomSpace space
  | .atomMaxn _ _ _ space _ => atomSpace space
  | .atomSwap _ _ _ space _ => atomSpace space
  | .atomCas _ _ _ space _ => atomSpace space
  | .lmarkEmpty _ _ space => bufferSpace space
  | .lmarkFull _ _ space => bufferSpace space
  | .lmarkEst _ _ space => bufferSpace space
  | .lmarkExact _ _ space => bufferSpace space
  | .lwait _ space => bufferSpace space
  | .ldB _ _ space _ => legalSpace space
  | .ldBn _ _ space _ => legalSpace space
  | .ldH _ _ space _ => legalSpace space
  | .ldHn _ _ space _ => legalSpace space
  | .ldW _ _ space _ => legalSpace space
  | .ldWn _ _ space _ => legalSpace space
  | .ldD _ _ space _ => legalSpace space
  | .ldEh _ _ space _ => bufferSpace space
  | .ldEw _ _ space _ => bufferSpace space
  | .sb _ _ space _ => legalSpace space
  | .sh _ _ space _ => legalSpace space
  | .sw _ _ space _ => legalSpace space
  | .sd _ _ space _ => legalSpace space
  | .beq _ _ _ => true
  | .bne _ _ _ => true
  | .blt _ _ _ => true
  | .bge _ _ _ => true
  | .bltn _ _ _ => true
  | .bgen _ _ _ => true
  | .loop _ off => decide (0 < off.toInt)
  | .j _ => true
  | .jal _ => true
  | .jalr _ _ _ => true
  | .srd eng port _ fl => legalUnit eng && decide (port.toNat < 16) && fl.legal
  | .srdLit eng port _ fl => legalUnit eng && decide (port.toNat < 16) && fl.legal
  | .swr eng port _ fl => legalUnit eng && decide (16 ≤ port.toNat) && fl.legal
  | .swrLit eng port _ fl => legalUnit eng && decide (16 ≤ port.toNat) && fl.legal
  | .sind eng port _ fl => legalUnit eng && decide (port.toNat < 16) && fl.legal
  | .sindLit eng port _ fl => legalUnit eng && decide (port.toNat < 16) && fl.legal
  | .pwait _ => true
  | .sstat eng port _ kind => legalUnitOperand eng port kind
  | .cpy c => c.legal
  | .cpym c m => c.legal && m.legal
  | .wpwait ch _ => legalUnit ch
  | .cfg _ _ => true
  | .cfgs _ _ _ => true
  | .pswitch _ => true
  | .pdrain => true
  | .ptrig _ _ _ => true
  | .hinit _ mode _ => decide (mode.toNat < 5)
  | .key _ _ => true
  | .hacq _ => true
  | .hrel _ => true
  | .harr _ => true
  | .hwait _ => true
  | .hsig _ _ => true
  | .join _ => true
  | .leave _ => true
  | .mldw _ _ _ _ fmt fl => matrixCode fmt && fl.legal
  | .mmul m => m.legal
  | .mwait _ => true
  | .xprog _ _ fl => fl.legal
  | .xfire _ _ _ fl => fl.legal
  | .xcal _ => true
  | .xstat _ _ => true
  | .fnew _ _ => true
  | .ffree _ => true
  | .fprobe _ _ _ => true
  | .fmerge _ _ _ fmt => mergeCode fmt
  | .fmrgf _ _ => true
  | .fstat _ _ => true
  | .fclr _ => true
  | .pdiscard _ _ => true
  | .phintTlb _ _ => true
  | .phintFill _ _ => true
  | .phintCold _ _ => true
  | .phintNear _ _ => true
  | .asyncTrap => true
  | .fetchMiss _ => true
  | .tokenHop _ => true
  | .elementFire _ _ => true
  | .stalledPlane => true
  | .faddElement _ => true
  | .fsubElement _ => true
  | .fmulElement _ => true
  | .fmaElement _ => true
  | .fmsElement _ => true
  | .fminElement _ => true
  | .fmaxElement _ => true
  | .fabsElement _ => true
  | .fnegElement _ => true
  | .frcpElement _ => true
  | .frsqElement _ => true
  | .fsqrtElement _ => true
  | .fdivElement _ => true
  | .frndElement _ => true
  | .iaddElement _ => true
  | .isubElement _ => true
  | .imulElement _ => true
  | .imulhElement _ => true
  | .imadElement _ => true
  | .iminElement _ => true
  | .imaxElement _ => true
  | .andElement _ => true
  | .orElement _ => true
  | .xorElement _ => true
  | .andnElement _ => true
  | .shlElement _ => true
  | .shrElement _ => true
  | .clzElement _ => true
  | .popcElement _ => true
  | .fcmpElement _ => true
  | .icmpElement _ => true
  | .selElement _ => true
  | .passElement _ => true
  | .fcvtElement _ => true
  | .bxqElement _ => true
  | .faccElement _ => true
  | .iaccElement _ => true
  | .ctrElement _ => true
  | .steerElement _ => true
  | .mergeElement _ => true
  | .carryElement _ => true
  | .rankElement _ => true
  | .acceptElement _ => true
  | .constElement _ => true
  | .sinkElement _ => true
  | .ldElement _ => true
  | .stElement _ => true
  | .ataddElement _ => true
  | .fabricAccessPerformed _ => true
  | .bankGrant _ _ => true
  | .elementChangeover _ => true
  | .routerChangeover _ => true
  | .switchComplete => true
  | .drainEnter _ => true
  | .switchStall => true
  | .triggerFire => true
  | .launchEnd => true
  | .planeLoadStart => true
  | .planeLoadWrite => true
  | .planeLoadCheck => true
  | .streamStart => true
  | .streamDeliver _ _ => true
  | .streamWriteToken _ _ => true
  | .gatherComplete _ _ _ => true
  | .streamEnd _ _ => true
  | .copyStart _ => true
  | .copyLand _ _ => true
  | .copyComplete _ => true
  | .quiescenceRequest _ => true
  | .quiescentPoint => true
  | .contextSave => true
  | .contextRestore _ => true
  | .instructionPageInvalidate _ _ => true
  | .traceWalkStep => true
  | .preciseStop => true
  | .clusterStoreAccess _ _ => true
  | .haspOperation _ _ _ => true
  | .wakeDelivery _ => true
  | .engineHaspOperation _ => true
  | .matrixCommandStart => true
  | .matrixCommandComplete _ _ => true
  | .slotReassign _ _ => true
  | .fireStart _ => true
  | .fireComplete _ => true
  | .calibration _ => true
  | .programming _ _ => true
  | .arrayErase _ _ => true
  | .tlbMissWalk _ _ => true
  | .invalidationBroadcast => true
  | .faultToken _ => true
  | .pagerResolution _ => true
  | .faultEscalation _ _ => true
  | .dramAccess _ _ _ => true
  | .rowHammerRefresh _ => true
  | .periodicRefresh _ => true
  | .mergeEntry _ => true
  | .probe _ _ => true
  | .scanStep _ => true
  | .acceptanceNotice => true
  | .postedFailure => true
  | .launch _ _ _ => true
  | .dispatch => true
  | .preemption => true
  | .waitPreemption => true
  | .spill _ => true
  | .spillReturn => true
  | .taskKill _ => true
  | .scrub => true
  | .partitionZero _ => true
  | .flitReceive _ _ => true
  | .powerGood _ _ => true
  | .governorMeasure _ => true
  | .droop _ => true
  | .dieFence _ => true
  | .defhasp _ => true
  | .handle _ => true
  | .mapmem _ _ _ _ => true
  | .unmapmem _ => true
  | .tracering _ _ _ => true
  | .telem _ => true
  | .attest _ => true
  | .watch _ => true
  | .launchpage _ => true
  | .sendpage _ => true
  | .imageUpdate _ _ _ => true
  | .imageCommit _ _ => true
  | .tenantCreation _ _ => true
  | .flowSlotBinding _ _ => true
  | .debuggerAttach _ _ => true
  | .managementRead _ _ => true
  | .dieStriking _ _ => true
  | .goSend _ _ => true
  | .goClear _ _ => true
  | .remoteLaunch _ _ => true
  | .remoteCopy _ _ _ => true
  | .remoteMerge _ _ => true
  | .acknowledgement _ _ _ => true
  | .flowTimeout _ _ => true
  | .portFailover _ _ => true
  | .strikeNotice _ _ => true
  | .illegalInstruction _ _ => true
  | .pageMigration _ _ _ => true
  | .migrationEnd _ _ _ => true
  | .swapOut _ _ _ => true
  | .reclamation _ _ => true
  | .serviceCoreFailure _ => true
  | .supplyRecovery _ => true
  | .tenantHoldEnd _ => true
  | .quiescenceWithdrawal => true
  | .programLoad _ => true
  | .processCreation _ => true
  | .liveExpertRegistration _ _ => true
  | .operatorKeyCommit _ _ => true

/-- Whether the instruction has an encoding (the table's first rows); the other rows are steps of the other agents. -/
def Instr.encoded (i : Instr) : Bool := !(encode i).isEmpty

end Sys2Proof
end

