-- ==== Sys2Proof/Machine/Ops.lean ====
section
/-! DEFINITION. The named operations on registers and on the control thread: reading and writing a register, taking a trap,
returning from one, stopping, waiting, and completing an instruction with the hardware loop's close. -/

namespace Sys2Proof.Machine

/-- What a meaning answers. -/
abbrev Out := Host.Outcome State Fault Refusal

/-- Change the core whose turn it is. -/
def State.modCore (f : Core → Core) (s : State) : State := { s with core := f s.core }

/-- The g registers: g0 reads as zero (R90). -/
def State.reg (s : State) (r : Reg) : Word := if r = 0 then 0 else s.core.regs[r.toNat]'r.isLt

/-- The E bit of a register: g0's is 0 (R90). -/
def State.tag (s : State) (r : Reg) : Bool := if r = 0 then false else s.core.etag[r.toNat]'r.isLt

/-- Write a value and its E bit to a register; a write to g0 is discarded (R90). -/
def State.setReg (d : Reg) (v : Word) (e : Bool) (s : State) : State :=
  if d = 0 then s
  else s.modCore (fun c => { c with regs := c.regs.set d.toNat v d.isLt, etag := c.etag.set d.toNat e d.isLt })

/-- Trap causes (R177). -/
def causeIllegal : Nat := 1
def causePriv : Nat := 2
def causeAlign : Nat := 3
def causeProt : Nat := 4
def causeType : Nat := 5
def causeBound : Nat := 6
def causeDrift : Nat := 7
def causeXworn : Nat := 8
def causePool : Nat := 9
def causeQfull : Nat := 10
def causeCfg : Nat := 11
def causeHasp : Nat := 12
def causeStreamFault : Nat := 13
def causeBrk : Nat := 14
def causeWatch : Nat := 15
def causeElem : Nat := 16

/-- TSTAT.TA and TSTAT.SLA (R178). -/
def Core.ta (c : Core) : Bool := c.tstat.getLsbD 0
def Core.sla (c : Core) : Bool := c.tstat.getLsbD 1

/-- TSTAT from its two bits (R178). -/
def tstatOf (sla ta : Bool) : Word := BitVec.ofNat 64 (2 * sla.toNat + ta.toNat)

/-- TCAUSE (R177): ASYNC in bit 8, CODE in bits 7:0. -/
def tcauseOf (async : Bool) (cause : Nat) : Word := BitVec.ofNat 64 (256 * async.toNat + cause)

/-- Change a task's record, if the task exists. -/
def State.modTask (n : Nat) (f : Task → Task) (s : State) : State :=
  match Map.find s.tasks n with
  | some t => { s with tasks := Map.set s.tasks n (f t) }
  | none => s

/-- Change the record of the task on the core. -/
def State.modOwnTask (f : Task → Task) (s : State) : State :=
  match s.core.task with
  | some n => s.modTask n f
  | none => s

/-- The task stops at a trap with TVEC = 0 or at a double trap (R179, R182, R183). -/
def State.stopTask (cause : Nat) (double : Bool) (s : State) : State :=
  (s.modCore (fun c => { c with run := .stopped cause double, stalled := false })).modOwnTask
    (fun t => { t with status := .stopped })

/-- The trap frame as R179 writes it: TPC, TCAUSE, TVAL, TSTAT; PC goes to TVEC. -/
def Core.trapFrame (cause : Nat) (async : Bool) (value resume : Word) (c : Core) : Core :=
  { c with tpc := resume, tcause := tcauseOf async cause, tval := value, tstat := tstatOf (c.lcnt != 0) true,
           pc := if c.tvec = 0 then c.pc else c.tvec, stalled := false, fatal := none }

/-- Take a trap (R179, R182): a synchronous cause under TA = 1 is a double trap; TVEC = 0 stops the task. -/
def State.takeTrap (cause : Nat) (async : Bool) (value resume : Word) (s : State) : State :=
  if s.core.ta then s.stopTask cause true
  else
    let t := s.modCore (Core.trapFrame cause async value resume)
    if s.core.tvec = 0 then t.stopTask cause false else t

/-- A synchronous trap of the instruction at PC (R179): nothing else changes. -/
def trap (cause : Nat) (value : Word) (s : State) : Out := .next (s.takeTrap cause false value s.core.pc)

/-- Return from a trap (R176): PC ← TPC, TA ← 0, nothing else: SLA stays. -/
def Core.trapReturn (c : Core) : Core := { c with pc := c.tpc, tstat := tstatOf c.sla false, stalled := false }

/-- TVAL of ILLEGAL (R137): the instruction word, and the literal where there is one. Of a CPYM they are its own, also where its MMUL is at fault:
R133 fixes TPC alone (DESIGN CHOICE, log 88). -/
def illegalValue (ws : List Nat) : Word :=
  match ws with
  | [] => 0
  | [w] => BitVec.ofNat 64 w
  | w :: lit :: _ => BitVec.ofNat 64 (w + 2 ^ 32 * lit)

/-- ILLEGAL for an instruction (R137). -/
def illegal (i : Instr) (s : State) : Out := trap causeIllegal (illegalValue (encode i)) s

/-- Run a meaning after the field checks of R122. -/
def guardWf (i : Instr) (s : State) (k : State → Out) : Out := if i.wellFormed then k s else illegal i s

/-- TYPE on an exact-only register (R148, R180): TVAL bit 5 and the register. -/
def exactTrap (r : Reg) (s : State) : Out := trap causeType (BitVec.ofNat 64 (32 + r.toNat)) s

/-- Run a meaning after checking that every listed register is exact, in the order given (R122, R148); TVAL names the first that is not
(DESIGN CHOICE, log 118). -/
def guardExact (rs : List Reg) (s : State) (k : State → Out) : Out :=
  match rs with
  | [] => k s
  | r :: t => if s.tag r then exactTrap r s else guardExact t s k

/-- Where execution goes after an instruction at `pc` of `len` bytes whose next PC is `npc`, and LCNT then (R168). -/
def Core.closeLoop (c : Core) (len npc : Word) : Word × Word :=
  if c.ta = false ∧ c.lcnt ≠ 0 ∧ c.pc = c.lend ∧ npc = c.pc + len then
    (if c.lcnt - 1 = 0 then npc else c.lstart, c.lcnt - 1)
  else (npc, c.lcnt)

/-- The core after an instruction completed (R168): PC, LCNT, ICNT; the wait is over. -/
def Core.complete (len npc : Word) (c : Core) : Core :=
  { c with pc := (c.closeLoop len npc).1, lcnt := (c.closeLoop len npc).2, icnt := c.icnt + 1,
           stalled := false, wait := .none, fatal := none }

/-- Complete an instruction of `len` bytes whose next PC is `npc`. -/
def State.finishAt (len npc : Word) (s : State) : State := s.modCore (Core.complete len npc)

/-- Complete an instruction of `len` bytes that goes on to the next one. -/
def State.finish (len : Word) (s : State) : State := s.finishAt len (s.core.pc + len)

/-- The control thread stays at the instruction at PC, which issues again (R164, R186); `since` is the cycle in which a wait of R374's list began,
where it waits in one. -/
def stay (since : Option Nat) (s : State) : Out := .next (s.modCore (fun c => { c with stalled := true, stallCyc := since }))

/-- It waits in one of the waits that R374 lists: the same one as before, or one that begins now. -/
def stall (s : State) : Out := stay (some ((if s.core.stalled then s.core.stallCyc else none).getD s.cyc)) s

/-- It is held up by something that R374 does not list: a fault, a bank, a page that changes, a switch, an earlier operation of its own. -/
def pause (s : State) : Out := stay none s

/-- Hold an asynchronous trap for the next boundary (R182). -/
def State.raiseAsync (cause : Nat) (value : Word) (s : State) : State :=
  s.modCore (fun c => { c with asyncs := c.asyncs ++ [{ cause := cause, value := value }] })

/-- The numbers of the core's stack and cluster (R92). -/
def Core.stack (c : Core) : Nat := c.id / 256
def Core.clusterKey (c : Core) : Nat := c.id / 16

/-- CID (R92): package number, stack, cluster, core. -/
def Core.cid (c : Core) : Word := BitVec.ofNat 64 (65536 * Config.packageNumber.toNat + c.id % 4096)

/-- The core numbered `n`, wherever it is kept. -/
def State.coreAt (s : State) (n : Nat) : Core := if n = s.core.id then s.core else Map.get { id := n } s.others n

/-- Put a core back. -/
def State.setCore (n : Nat) (c : Core) (s : State) : State :=
  if n = s.core.id then { s with core := c } else { s with others := Map.set s.others n c }

/-- Make the core numbered `n` the one whose turn it is. -/
def State.focus (n : Nat) (s : State) : State :=
  if n = s.core.id then s
  else { s with core := s.coreAt n, others := Map.set (Map.erase s.others n) s.core.id s.core }

/-- Change the core numbered `n`. -/
def State.modCoreAt (n : Nat) (f : Core → Core) (s : State) : State := s.setCore n (f (s.coreAt n))

/-- The core's cluster and die, and changing them. -/
def State.cluster (s : State) : Cluster := Map.get {} s.clusters s.core.clusterKey
def State.modClusterAt (k : Nat) (f : Cluster → Cluster) (s : State) : State :=
  { s with clusters := Map.set s.clusters k (f (Map.get {} s.clusters k)) }
def State.modCluster (f : Cluster → Cluster) (s : State) : State := s.modClusterAt s.core.clusterKey f
def State.dieAt (s : State) (k : Nat) : Die := Map.get {} s.dies k
def State.die (s : State) : Die := s.dieAt s.core.stack
def State.modDieAt (k : Nat) (f : Die → Die) (s : State) : State := { s with dies := Map.set s.dies k (f (s.dieAt k)) }
def State.modDie (f : Die → Die) (s : State) : State := s.modDieAt s.core.stack f

/-- A process, and changing it. -/
def State.procAt (s : State) (p : Nat) : Proc := Map.get {} s.procs p
def State.modProc (p : Nat) (f : Proc → Proc) (s : State) : State := { s with procs := Map.set s.procs p (f (s.procAt p)) }

/-- Change the fabric of the core. -/
def State.modFab (f : Fabric → Fabric) (s : State) : State := s.modCore (fun c => { c with fab := f c.fab })

/-- The next free value's index; the reader advances the counter (log 3). -/
def State.draw (s : State) : Nat × State := (s.free, { s with free := s.free + 1 })

end Sys2Proof.Machine
end

