-- ==== Sys2Proof/Machine/Operands.lean ====
section
/-! DEFINITION. Operand forms of the control-thread instructions: sign extension, literals, addresses, branch targets, and values
as little-endian bytes. -/

namespace Sys2Proof.Machine

/-- A literal word as an integer operand: sign-extended (R121). -/
def litInt (lit : W32) : Word := lit.signExtend 64

/-- A 16-bit immediate, sign-extended or zero-extended (R125). -/
def sext16 (imm : BitVec 16) : Word := imm.signExtend 64
def zext16 (imm : BitVec 16) : Word := imm.zeroExtend 64

/-- The low word of a register, the fp32 operand (R149). -/
def lowWord (x : Word) : W32 := x.truncate 32

/-- A 32-bit result with bits 63:32 zero (R149, R29). -/
def zext32 (x : W32) : Word := x.zeroExtend 64

/-- The byte address of a load or store (R121): g[base] + sext(off13). -/
def State.effAddr (s : State) (base : Reg) (off : BitVec 13) : Word := s.reg base + off.signExtend 64

/-- The target of a branch: PC + 4 × sext(off13); of a jump: PC + 4 × sext(off26) (R121). -/
def branchTarget (pc : Word) (off : BitVec 13) : Word := pc + 4 * off.signExtend 64
def jumpTarget (pc : Word) (off : BitVec 26) : Word := pc + 4 * off.signExtend 64

/-- The number whose little-endian bytes these are (R2). -/
def leValue : List Byte → Nat
  | [] => 0
  | b :: t => b.toNat + 256 * leValue t

/-- The `n` little-endian bytes of a number (R2). -/
def leBytes : Nat → Nat → List Byte
  | 0, _ => []
  | n + 1, v => BitVec.ofNat 8 v :: leBytes n (v / 256)

/-- How a load widens the bytes it read (R126): sign-extended from `n` bytes, or zero-extended. -/
def widen (signed : Bool) (n : Nat) (v : Nat) : Word :=
  if signed then (BitVec.ofNat (8 * n) v).signExtend 64 else BitVec.ofNat 64 v

/-- The OR of the E bits of two registers (R148). -/
def State.tag2 (s : State) (a b : Reg) : Bool := s.tag a || s.tag b

/-- Whether a 64-bit value is a canonical 57-bit virtual address: bits 63:57 copy bit 56 (R95). -/
def canonical (va : Word) : Bool := (va.truncate 57).signExtend 64 == va

/-- Whether every address of `n` bytes from `a` keeps the sign rule (R95): none lies in the hole, and the range does not wrap. -/
def memRange (a : Word) (n : Nat) : Bool :=
  canonical a && (n == 0 || (decide (a.toNat + n ≤ 2 ^ 64) && canonical (a + BitVec.ofNat 64 (n - 1)) && (decide (2 ^ 56 ≤ a.toNat) || decide (a.toNat + n ≤ 2 ^ 56))))

end Sys2Proof.Machine
end

