-- ==== Sys2Proof/Machine/Integer.lean ====
section
/-! DEFINITION. The integer instructions (R150 to R152): register forms, literal forms, I-format forms. -/

namespace Sys2Proof.Machine

/-- An integer register form (R150, R148): gd ← f(g[a], g[b]), E the OR of the operands' E bits. -/
def intOp (f : Word → Word → Word) (d a b : Reg) (s : State) : Out :=
  .next ((s.setReg d (f (s.reg a) (s.reg b)) (s.tag2 a b)).finish 4)

/-- An integer literal form (R121, R150): the literal is sign-extended and exact. -/
def intLit (f : Word → Word → Word) (d a : Reg) (lit : W32) (s : State) : Out :=
  .next ((s.setReg d (f (s.reg a) (litInt lit)) (s.tag a)).finish 8)

/-- An integer instruction with one register operand (R150). -/
def intOne (f : Word → Word) (d a : Reg) (s : State) : Out := .next ((s.setReg d (f (s.reg a)) (s.tag a)).finish 4)

/-- High halves of the 128-bit product (R150). -/
def mulHigh (x y : Word) : Word := (x.signExtend 128 * y.signExtend 128).extractLsb' 64 64
def mulHighN (x y : Word) : Word := (x.zeroExtend 128 * y.zeroExtend 128).extractLsb' 64 64

/-- Division and remainder with the outcomes of R151. -/
def divS (x y : Word) : Word := if y = 0 then BitVec.allOnes 64 else x.sdiv y
def divU (x y : Word) : Word := if y = 0 then BitVec.allOnes 64 else x.udiv y
def remS (x y : Word) : Word := if y = 0 then x else x.srem y
def remU (x y : Word) : Word := if y = 0 then x else x.umod y

/-- Shifts by y[5:0] (R150). -/
def shiftOf (y : Word) : Nat := y.toNat % 64
def sllOf (x y : Word) : Word := x <<< shiftOf y
def srlOf (x y : Word) : Word := x >>> shiftOf y
def sraOf (x y : Word) : Word := x.sshiftRight (shiftOf y)

/-- 1 where the condition holds, else 0. -/
def oneIf (c : Bool) : Word := if c then 1 else 0
def sltOf (x y : Word) : Word := oneIf (x.slt y)
def sltnOf (x y : Word) : Word := oneIf (x.ult y)
def andnOf (x y : Word) : Word := x &&& ~~~y

/-- Leading zero bits of the low `n` bits of a number. -/
def leadingZeros : Nat → Nat → Nat
  | 0, _ => 0
  | n + 1, x => if x / 2 ^ n % 2 = 1 then 0 else 1 + leadingZeros n x

/-- One bits among the low `n` bits of a number. -/
def oneBits : Nat → Nat → Nat
  | 0, _ => 0
  | n + 1, x => x / 2 ^ n % 2 + oneBits n x

def clzOf (x : Word) : Word := BitVec.ofNat 64 (leadingZeros 64 x.toNat)
def popcOf (x : Word) : Word := BitVec.ofNat 64 (oneBits 64 x.toNat)

/-- ADD (R150). -/
def execAdd (d a b : Reg) (s : State) : Out := intOp (· + ·) d a b s

/-- ADD with a literal (R150). -/
def execAddLit (d a : Reg) (lit : W32) (s : State) : Out := intLit (· + ·) d a lit s

/-- SUB (R150). -/
def execSub (d a b : Reg) (s : State) : Out := intOp (· - ·) d a b s

/-- SUB with a literal (R150). -/
def execSubLit (d a : Reg) (lit : W32) (s : State) : Out := intLit (· - ·) d a lit s

/-- MUL (R150). -/
def execMul (d a b : Reg) (s : State) : Out := intOp (· * ·) d a b s

/-- MUL with a literal (R150). -/
def execMulLit (d a : Reg) (lit : W32) (s : State) : Out := intLit (· * ·) d a lit s

/-- MULH (R150). -/
def execMulh (d a b : Reg) (s : State) : Out := intOp mulHigh d a b s

/-- MULH with a literal (R150). -/
def execMulhLit (d a : Reg) (lit : W32) (s : State) : Out := intLit mulHigh d a lit s

/-- MULHN (R150). -/
def execMulhn (d a b : Reg) (s : State) : Out := intOp mulHighN d a b s

/-- MULHN with a literal (R150). -/
def execMulhnLit (d a : Reg) (lit : W32) (s : State) : Out := intLit mulHighN d a lit s

/-- DIV (R151). -/
def execDiv (d a b : Reg) (s : State) : Out := intOp divS d a b s

/-- DIV with a literal (R151). -/
def execDivLit (d a : Reg) (lit : W32) (s : State) : Out := intLit divS d a lit s

/-- DIVN (R151). -/
def execDivn (d a b : Reg) (s : State) : Out := intOp divU d a b s

/-- DIVN with a literal (R151). -/
def execDivnLit (d a : Reg) (lit : W32) (s : State) : Out := intLit divU d a lit s

/-- REM (R151). -/
def execRem (d a b : Reg) (s : State) : Out := intOp remS d a b s

/-- REM with a literal (R151). -/
def execRemLit (d a : Reg) (lit : W32) (s : State) : Out := intLit remS d a lit s

/-- REMN (R151). -/
def execRemn (d a b : Reg) (s : State) : Out := intOp remU d a b s

/-- REMN with a literal (R151). -/
def execRemnLit (d a : Reg) (lit : W32) (s : State) : Out := intLit remU d a lit s

/-- AND (R150). -/
def execAnd (d a b : Reg) (s : State) : Out := intOp (· &&& ·) d a b s

/-- AND with a literal (R150). -/
def execAndLit (d a : Reg) (lit : W32) (s : State) : Out := intLit (· &&& ·) d a lit s

/-- OR (R150). -/
def execOr (d a b : Reg) (s : State) : Out := intOp (· ||| ·) d a b s

/-- OR with a literal (R150). -/
def execOrLit (d a : Reg) (lit : W32) (s : State) : Out := intLit (· ||| ·) d a lit s

/-- XOR (R150). -/
def execXor (d a b : Reg) (s : State) : Out := intOp (· ^^^ ·) d a b s

/-- XOR with a literal (R150). -/
def execXorLit (d a : Reg) (lit : W32) (s : State) : Out := intLit (· ^^^ ·) d a lit s

/-- ANDN (R150). -/
def execAndn (d a b : Reg) (s : State) : Out := intOp andnOf d a b s

/-- ANDN with a literal (R150). -/
def execAndnLit (d a : Reg) (lit : W32) (s : State) : Out := intLit andnOf d a lit s

/-- SLL (R150). -/
def execSll (d a b : Reg) (s : State) : Out := intOp sllOf d a b s

/-- SLL with a literal (R150). -/
def execSllLit (d a : Reg) (lit : W32) (s : State) : Out := intLit sllOf d a lit s

/-- SRL (R150). -/
def execSrl (d a b : Reg) (s : State) : Out := intOp srlOf d a b s

/-- SRL with a literal (R150). -/
def execSrlLit (d a : Reg) (lit : W32) (s : State) : Out := intLit srlOf d a lit s

/-- SRA (R150). -/
def execSra (d a b : Reg) (s : State) : Out := intOp sraOf d a b s

/-- SRA with a literal (R150). -/
def execSraLit (d a : Reg) (lit : W32) (s : State) : Out := intLit sraOf d a lit s

/-- SLT (R150). -/
def execSlt (d a b : Reg) (s : State) : Out := intOp sltOf d a b s

/-- SLT with a literal (R150). -/
def execSltLit (d a : Reg) (lit : W32) (s : State) : Out := intLit sltOf d a lit s

/-- SLTN (R150). -/
def execSltn (d a b : Reg) (s : State) : Out := intOp sltnOf d a b s

/-- SLTN with a literal (R150). -/
def execSltnLit (d a : Reg) (lit : W32) (s : State) : Out := intLit sltnOf d a lit s

/-- CLZ (R150). -/
def execClz (d a : Reg) (s : State) : Out := intOne clzOf d a s

/-- POPC (R150). -/
def execPopc (d a : Reg) (s : State) : Out := intOne popcOf d a s

/-- ADDI (R152): g[a] + sext(imm). -/
def execAddi (d a : Reg) (imm : BitVec 16) (s : State) : Out := intOne (· + sext16 imm) d a s

/-- ANDI, ORI and XORI (R152) with the zero-extended immediate. -/
def execAndi (d a : Reg) (imm : BitVec 16) (s : State) : Out := intOne (· &&& zext16 imm) d a s
def execOri (d a : Reg) (imm : BitVec 16) (s : State) : Out := intOne (· ||| zext16 imm) d a s
def execXori (d a : Reg) (imm : BitVec 16) (s : State) : Out := intOne (· ^^^ zext16 imm) d a s

/-- SLLI, SRLI and SRAI (R152) by imm[5:0]. -/
def execSlli (d a : Reg) (sh : BitVec 6) (s : State) : Out := intOne (· <<< sh.toNat) d a s
def execSrli (d a : Reg) (sh : BitVec 6) (s : State) : Out := intOne (· >>> sh.toNat) d a s
def execSrai (d a : Reg) (sh : BitVec 6) (s : State) : Out := intOne (fun x => x.sshiftRight sh.toNat) d a s

/-- SLTI (R152): signed compare with sext(imm). -/
def execSlti (d a : Reg) (imm : BitVec 16) (s : State) : Out := intOne (fun x => sltOf x (sext16 imm)) d a s

/-- LUI (R152): sext(imm) × 2^16, exact. -/
def execLui (d : Reg) (imm : BitVec 16) (s : State) : Out := .next ((s.setReg d (sext16 imm <<< 16) false).finish 4)

end Sys2Proof.Machine
end

