-- ==== Sys2Proof/Machine/Float.lean ====
section
/-! DEFINITION. The scalar floating-point instructions (R153 to R155) and ACCEPT (R305). -/

namespace Sys2Proof.Machine

/-- A two-operand fp32 form (R149, R153): fp32 from bits 31:0, the result zero-extended, E the OR of the operands'. -/
def fpOp (f : W32 → W32 → W32) (d a b : Reg) (s : State) : Out :=
  .next ((s.setReg d (zext32 (f (lowWord (s.reg a)) (lowWord (s.reg b)))) (s.tag2 a b)).finish 4)

/-- The same with an fp32 literal in the place of b (R121). -/
def fpLit (f : W32 → W32 → W32) (d a : Reg) (lit : W32) (s : State) : Out :=
  .next ((s.setReg d (zext32 (f (lowWord (s.reg a)) lit)) (s.tag a)).finish 8)

/-- FADD (R153). -/
def execFadd (d a b : Reg) (rm : BitVec 3) (sat : Bool) (s : State) : Out :=
  guardWf (.fadd d a b rm sat) s (fun s => fpOp (fadd32 rm sat) d a b s)

/-- FADD with a literal (R153). -/
def execFaddLit (d a : Reg) (lit : W32) (rm : BitVec 3) (sat : Bool) (s : State) : Out :=
  guardWf (.faddLit d a lit rm sat) s (fun s => fpLit (fadd32 rm sat) d a lit s)

/-- FSUB (R153). -/
def execFsub (d a b : Reg) (rm : BitVec 3) (sat : Bool) (s : State) : Out :=
  guardWf (.fsub d a b rm sat) s (fun s => fpOp (fsub32 rm sat) d a b s)

/-- FSUB with a literal (R153). -/
def execFsubLit (d a : Reg) (lit : W32) (rm : BitVec 3) (sat : Bool) (s : State) : Out :=
  guardWf (.fsubLit d a lit rm sat) s (fun s => fpLit (fsub32 rm sat) d a lit s)

/-- FMUL (R153). -/
def execFmul (d a b : Reg) (rm : BitVec 3) (sat : Bool) (s : State) : Out :=
  guardWf (.fmul d a b rm sat) s (fun s => fpOp (fmul32 rm sat) d a b s)

/-- FMUL with a literal (R153). -/
def execFmulLit (d a : Reg) (lit : W32) (rm : BitVec 3) (sat : Bool) (s : State) : Out :=
  guardWf (.fmulLit d a lit rm sat) s (fun s => fpLit (fmul32 rm sat) d a lit s)

/-- FDIV (R153). -/
def execFdiv (d a b : Reg) (rm : BitVec 3) (sat : Bool) (s : State) : Out :=
  guardWf (.fdiv d a b rm sat) s (fun s => fpOp (fdiv32 rm sat) d a b s)

/-- FDIV with a literal (R153). -/
def execFdivLit (d a : Reg) (lit : W32) (rm : BitVec 3) (sat : Bool) (s : State) : Out :=
  guardWf (.fdivLit d a lit rm sat) s (fun s => fpLit (fdiv32 rm sat) d a lit s)

/-- FSQRT (R153). -/
def execFsqrt (d a : Reg) (rm : BitVec 3) (sat : Bool) (s : State) : Out :=
  guardWf (.fsqrt d a rm sat) s (fun s =>
    .next ((s.setReg d (zext32 (fsqrt32 rm sat (lowWord (s.reg a)))) (s.tag a)).finish 4))

/-- FMA (R153): gd ← ga × gb + gd with one rounding; the addend's E bit counts. -/
def execFma (d a b : Reg) (rm : BitVec 3) (sat : Bool) (s : State) : Out :=
  guardWf (.fma d a b rm sat) s (fun s =>
    .next ((s.setReg d (zext32 (fma32 rm sat (lowWord (s.reg a)) (lowWord (s.reg b)) (lowWord (s.reg d))))
      (s.tag2 a b || s.tag d)).finish 4))

/-- FMA with a literal (R153). -/
def execFmaLit (d a : Reg) (lit : W32) (rm : BitVec 3) (sat : Bool) (s : State) : Out :=
  guardWf (.fmaLit d a lit rm sat) s (fun s =>
    .next ((s.setReg d (zext32 (fma32 rm sat (lowWord (s.reg a)) lit (lowWord (s.reg d)))) (s.tag a || s.tag d)).finish 8))

/-- FMIN and FMAX (R154, R63), by register or literal. -/
def execFmin (d a b : Reg) (s : State) : Out := fpOp fmin32 d a b s
def execFminLit (d a : Reg) (lit : W32) (s : State) : Out := fpLit fmin32 d a lit s
def execFmax (d a b : Reg) (s : State) : Out := fpOp fmax32 d a b s
def execFmaxLit (d a : Reg) (lit : W32) (s : State) : Out := fpLit fmax32 d a lit s

/-- FCMP's result as a word: 1 or 0 by the condition of R65. -/
def fcmp32 (cond : BitVec 3) (x y : W32) : W32 := if fcond cond x y then 1 else 0

/-- FCMP (R154), by register or literal: 1 or 0 in all 64 bits. -/
def execFcmp (d a b : Reg) (cond : BitVec 3) (s : State) : Out := fpOp (fcmp32 cond) d a b s
def execFcmpLit (d a : Reg) (lit : W32) (cond : BitVec 3) (s : State) : Out := fpLit (fcmp32 cond) d a lit s

/-- The source value of FCVT by its format code (R155): the low bits of the register. -/
def fcvtSource (src : BitVec 4) (x : Word) : Nat := x.toNat % 2 ^ (8 * fmtSize src)

/-- FCVT's result in the register (R155): i64 and n64 fill it, every other format is its token in bits 31:0. -/
def fcvtResult (dst src : BitVec 4) (rm : BitVec 3) (sat : Bool) (x : Word) : Word :=
  match fmtOf dst, fmtOf src with
  | some fd, some fs =>
    let r := convert fs fd rm sat (fcvtSource src x)
    if dst = 9 ∨ dst = 13 then BitVec.ofNat 64 r else zext32 (tokenLayout fd r)
  | _, _ => 0

/-- FCVT (R155). -/
def execFcvt (d a : Reg) (dst : BitVec 4) (rm : BitVec 3) (sat : Bool) (src : BitVec 4) (s : State) : Out :=
  guardWf (.fcvt d a dst rm sat src) s (fun s =>
    .next ((s.setReg d (fcvtResult dst src rm sat (s.reg a)) (s.tag a)).finish 4))

/-- The value bits of ACCEPT: est32 in bits 31:0, est16 in bits 15:0 (R305). -/
def acceptValue (half : Bool) (x : Word) : Nat := if half then x.toNat % 2 ^ 16 else x.toNat % 2 ^ 32

/-- Whether the value is a NaN or an infinity in its format. -/
def notFinite (half : Bool) (v : Nat) : Bool := !fvalFinite (decodeF (if half then fp16Fmt else fp32Fmt) v)

/-- The test of ACCEPT (R305, R75): a finite value, a bound that is no NaN, |bound| at most the tolerance. -/
def acceptPasses (half : Bool) (v : Nat) (bd tol : W32) : Bool :=
  !notFinite half v && !isNaN32 bd && !lt32 tol (fabs32 bd)

/-- ACCEPT (R305): the value becomes exact, its bits unchanged, or BOUND is raised with the bound in TVAL[63:32]. -/
def execAccept (d a b : Reg) (half : Bool) (tol : W32) (s : State) : Out :=
  guardWf (.accept d a b half tol) s (fun s =>
    let v := acceptValue half (s.reg a)
    let bd := lowWord (s.reg b)
    if acceptPasses half v bd tol then .next ((s.setReg d (BitVec.ofNat 64 v) false).finish 8)
    else trap causeBound (BitVec.ofNat 64 (bd.toNat * 2 ^ 32)) s)

end Sys2Proof.Machine
end

