-- ==== Sys2Proof/Machine/Memory.lean ====
section
/-! DEFINITION. The memory spaces: DRAM by physical address, page tables and translation (R322 to R325), the data cache (R95, R408),
the typed buffers with their F and E bits (R97, R98), the cluster store (R246), and the accesses of the control thread (R156). -/

namespace Sys2Proof.Machine

/-! ### DRAM -/

/-- The canonical form of DRAM: addresses rising, no byte listed that equals what an unlisted one reads as, zero (R319). -/
def Memory.wf (m : Map Byte) : Bool := Map.wf 0 m

/-- A byte of DRAM; a byte that nothing has written is zero (R319). -/
def State.memByte (s : State) (pa : Nat) : Byte := Map.get 0 s.mem pa

/-- `n` bytes of DRAM from `pa`. -/
def State.memBytes (s : State) (pa : Nat) : Nat → List Byte
  | 0 => []
  | n + 1 => s.memByte pa :: s.memBytes (pa + 1) n

/-- The stack of a physical address (R318), and whether its offset exists. -/
def paStack (pa : Nat) : Nat := pa / 2 ^ 37 % 16
def paPresent (pa : Nat) : Bool := decide (pa < 2 ^ 41) && decide (pa % 2 ^ 37 < 0x1800000000)

/-- The row of a physical address in its stack, and the bank of a row: channel × 96 + bank (R318). -/
def paRow (pa : Nat) : Nat := pa % 2 ^ 37 / 1024
def bankOf (u : Nat) : Nat := u % 32 * 96 + u / 32 % 96

/-- Open a row: an activation, unless it is open already (R319, R321). -/
def Die.openAt (u : Nat) (d : Die) : Die :=
  if Map.find d.openRow (bankOf u) = some u then d
  else { d with openRow := Map.set d.openRow (bankOf u) u, activations := Map.put 0 d.activations u (Map.get 0 d.activations u + 1) }

/-- The refresh of a row's neighbours (R321): its counter is cleared, the bank's hold counts. -/
def Die.refreshRow (u : Nat) (d : Die) : Die :=
  { d with activations := Map.put 0 d.activations u 0, holds := Map.put 0 d.holds (bankOf u) (Map.get 0 d.holds (bankOf u) + 1) }

/-- An access to a row (R319, R321): it waits for the refresh that its bank owes, then the row opens. How long it waits is time (log 4). -/
def Die.useRow (u : Nat) (d : Die) : Die :=
  if d.fenced then d
  else match d.activations.find? (fun e => decide (2048 ≤ e.2) && bankOf e.1 == bankOf u) with
    | some e => (d.refreshRow e.1).openAt u
    | none => d.openAt u
def useRowAt (dies : Map Die) (pa : Nat) : Map Die := Map.set dies (paStack pa) ((Map.get {} dies (paStack pa)).useRow (paRow pa))
def State.openRow (pa : Nat) (s : State) : State := { s with dies := useRowAt s.dies pa }

/-- The rows of a range of DRAM, opened one after another (R321). -/
def State.openRows (pa size : Nat) (s : State) : State :=
  { s with dies := (List.range ((size + 1023) / 1024)).foldl (fun d k => useRowAt d (pa + 1024 * k)) s.dies }

/-- Write bytes to DRAM from `pa`, keeping the canonical form. -/
def putBytes (m : Map Byte) (pa : Nat) : List Byte → Map Byte
  | [] => m
  | b :: t => putBytes (Map.put 0 m pa b) (pa + 1) t
def State.setMem (pa : Nat) (bs : List Byte) (s : State) : State := { s with mem := putBytes s.mem pa bs, dies := useRowAt s.dies pa }

/-- A number in DRAM, little-endian. -/
def State.memNat (s : State) (pa n : Nat) : Nat := leValue (s.memBytes pa n)

/-- Whether a word of DRAM that the `n` bytes at `pa` touch has a lasting double-bit error (R320). -/
def State.wordsBad (s : State) (pa n : Nat) : Bool :=
  (s.dieAt (paStack pa)).badWords.any (fun w => decide (pa / 8 ≤ w) && decide (w ≤ (pa + n - 1) / 8))

/-- The pintle links of a row between two columns, and of a column between two rows (R391); a link's key is 16 × its lower stack + its
higher one. -/
def rowLinks (r c d : Nat) : List Nat :=
  ((List.range 3).filter (fun k => decide (min c d ≤ k) && decide (k < max c d))).map (fun k => (4 * r + k) * 16 + (4 * r + k + 1))
def columnLinks (c r q : Nat) : List Nat :=
  ((List.range 3).filter (fun k => decide (min r q ≤ k) && decide (k < max r q))).map (fun k => (4 * k + c) * 16 + (4 * k + c + 4))

/-- The two paths between two stacks (R392, R393): row first, column first. -/
def rowPath (a b : Nat) : List Nat := rowLinks (a / 4) (a % 4) (b % 4) ++ columnLinks (b % 4) (a / 4) (b / 4)
def columnPath (a b : Nat) : List Nat := columnLinks (a % 4) (a / 4) (b / 4) ++ rowLinks (b / 4) (a % 4) (b % 4)

/-- Whether a path crosses a fenced link, and whether two stacks reach each other (R393). -/
def State.pathCut (s : State) (p : List Nat) : Bool := p.any (fun k => (Map.get {} s.pkg.links k).fenced)
def State.reaches (s : State) (a b : Nat) : Bool := !(s.pathCut (rowPath a b) && s.pathCut (columnPath a b))

/-- Whether a stack is out of reach of another one: its die is fenced (R402), or both paths to it are cut (R393); and of the core's. -/
def State.stackCut (s : State) (a k : Nat) : Bool := (s.dieAt k).fenced || !s.reaches a k
def State.stackGone (s : State) (k : Nat) : Bool := s.stackCut s.core.stack k

/-- Whether an access of the core meets a lasting memory error: in the words, or because the stack is out of reach (R320, R393, R402). -/
def State.memBad (s : State) (pa n : Nat) : Bool := s.wordsBad pa n || s.stackGone (paStack pa)

/-! ### Page tables and translation -/

/-- Fields of a page-table entry (R323). -/
def pteV (e : Word) : Bool := e.getLsbD 0
def pteL (e : Word) : Bool := e.getLsbD 1
def pteR (e : Word) : Bool := e.getLsbD 2
def pteW (e : Word) : Bool := e.getLsbD 3
def pteX (e : Word) : Bool := e.getLsbD 4
def pteFib (e : Word) : Bool := e.getLsbD 5
def pteState (e : Word) : Nat := e.toNat / 256 % 8
def pteFrame (e : Word) : Nat := e.toNat / 65536 % 2 ^ 36 * 65536
def pteTable (e : Word) : Nat := e.toNat / 256 % 2 ^ 44 * 256
def pteKey (e : Word) : BitVec 12 := BitVec.ofNat 12 (e.toNat / 2 ^ 52)
def pteSetA (e : Word) : Word := e ||| 0x800
def pteSetD (e : Word) : Word := e ||| 0x40
def pteSetState (e : Word) (st : Nat) : Word := BitVec.ofNat 64 (e.toNat - pteState e * 256 + st % 8 * 256)
def pteSetKey (e : Word) (k : BitVec 12) : Word := BitVec.ofNat 64 (e.toNat % 2 ^ 52 + k.toNat * 2 ^ 52)
def pteSetFrame (e : Word) (pa : Nat) : Word :=
  BitVec.ofNat 64 (e.toNat - pteFrame e + pa / 65536 % 2 ^ 36 * 65536)

/-- Bytes that a leaf at a level maps (R322). -/
def leafSize (level : Nat) : Nat := if level = 0 then 65536 else if level = 1 then 2 ^ 21 else 2 ^ 30

/-- Whether a leaf entry is well formed at its level (R323). -/
def leafOk (e : Word) (level : Nat) : Bool :=
  decide (level ≤ 2) && decide (e.toNat / 4096 % 16 = 0) && !e.getLsbD 7 && decide (pteState e ≤ 4) &&
  decide (pteFrame e % leafSize level = 0) && paPresent (pteFrame e)

/-- Whether a non-leaf entry is well formed at its level (R323). -/
def tableOk (e : Word) (level : Nat) : Bool :=
  decide (level ≠ 0) && decide (e.toNat / 2 ^ 52 = 0) && decide (e.toNat % 256 = 1) && paPresent (pteTable e)

/-- The entry index of an address at a level (R322). -/
def tableIndex (va level : Nat) : Nat := if level = 0 then va / 65536 % 32 else va / 2 ^ (12 + 9 * level) % 512

/-- The table entries in memory, by physical address. -/
def State.pteAt (s : State) (pa : Nat) : Word := Map.get 0 s.ptes (pa / 8)

/-- Walk from a table at a level down to a well-formed leaf with V = 1 (R322, R323). -/
def walkFrom (ptes : Map Word) (proc va : Nat) : Nat → Nat → Option TlbEntry
  | level, table =>
    let pa := table + 8 * tableIndex va level
    let e := Map.get 0 ptes (pa / 8)
    if pteV e = false then none
    else if pteL e then
      if leafOk e level then
        some { proc := proc, va := va / leafSize level * leafSize level, size := leafSize level, pte := e, ptePa := pa }
      else none
    else if tableOk e level then
      match level with
      | 0 => none
      | l + 1 => walkFrom ptes proc va l (pteTable e)
    else none

/-- The leaf the page table gives an address of a process (R322). -/
def State.walk (s : State) (proc va : Nat) : Option TlbEntry :=
  match Map.find s.procs proc with
  | some p => walkFrom s.ptes proc va 4 p.root
  | none => none

/-- The entries that a walk reads, from a table at a level down (R322, R325). -/
def walkPath (ptes : Map Word) (va : Nat) : Nat → Nat → List Nat
  | 0, table => [table + 8 * tableIndex va 0]
  | l + 1, table =>
    let pa := table + 8 * tableIndex va (l + 1)
    let e := Map.get 0 ptes (pa / 8)
    pa :: (if pteV e && !pteL e && tableOk e (l + 1) then walkPath ptes va l (pteTable e) else [])

/-- A TLB's entry for an address (R325). -/
def tlbFind (t : List TlbEntry) (proc va : Nat) : Option TlbEntry :=
  t.find? (fun e => e.proc == proc && decide (e.va ≤ va) && decide (va < e.va + e.size))

/-- The entries that a walk for an address of a process reads (R322), and whether one of them cannot be read: a lasting memory error, or a
stack out of reach of the core (R320, R393, R402). -/
def State.walkReads (s : State) (proc va : Nat) : List Nat := walkPath s.ptes va 4 (s.procAt proc).root
def State.walkBad (s : State) (proc va : Nat) : Bool := (s.walkReads proc va).any (fun pa => s.memBad pa 8)

/-- The leaf that translates an address for a core: its micro-TLB, its stack's last-level TLB, or a walk (R325) that can read its tables. -/
def State.leafFor (s : State) (proc va : Nat) : Option TlbEntry :=
  match tlbFind s.core.utlb proc va with
  | some e => some e
  | none =>
    match tlbFind s.die.tlb proc va with
    | some e => some e
    | none => if s.walkBad proc va then none else s.walk proc va

/-- What a translation answers (R324). `fault` carries the reason of R219, 0 where the pager serves the state. -/
inductive Xlat where
  | frame (pa : Nat) (e : TlbEntry)
  | zeros (e : TlbEntry)
  | fault (reason : Nat)
  | right
  deriving DecidableEq, Repr

/-- The physical address that an entry gives an address. -/
def TlbEntry.paOf (e : TlbEntry) (va : Nat) : Nat := pteFrame e.pte + (va - e.va)

/-- Check an entry's rights, then act by its STATE (R324); `access` is 0 read, 1 write, 2 fetch. `fibre` asks for a fibre page. -/
def actOn (e : TlbEntry) (access : Nat) (fibre : Bool) (va : Nat) : Xlat :=
  let p := e.pte
  let ok := if access = 0 then pteR p else if access = 1 then pteW p else pteX p
  if ok = false ∨ pteFib p ≠ fibre then .right
  else match pteState p with
    | 0 => .frame (e.paOf va) e
    | 4 => if access = 1 then .fault 0 else .zeros e
    | _ => .fault 0

/-- Translate an address of a process for an access (R324); a walk that cannot read its tables fails as a memory error (R320, R393). -/
def State.translate (s : State) (proc access : Nat) (fibre : Bool) (va : Nat) : Xlat :=
  match s.leafFor proc va with
  | none => .fault (if s.walkBad proc va then 4 else 1)
  | some e => actOn e access fibre va

/-- A use of an entry: A is set, D on a write (R323). -/
def State.markUse (e : TlbEntry) (write : Bool) (s : State) : State :=
  let p := pteSetA (s.pteAt e.ptePa)
  { s with ptes := Map.put 0 s.ptes (e.ptePa / 8) (if write then pteSetD p else p) }

/-- A use of a translation: A is set, D on a write, and the TLBs hold the entry (R323, R325); a miss in both reads the tables' rows. -/
def State.touch (e : TlbEntry) (write : Bool) (s : State) : State :=
  let t := s.markUse e write
  let u := match tlbFind t.core.utlb e.proc e.va with
    | some _ => t
    | none => t.modCore (fun c => { c with utlb := (e :: c.utlb).take 64 })
  match tlbFind u.die.tlb e.proc e.va with
  | some _ => u
  | none =>
    ({ u with dies := (s.walkReads e.proc e.va).foldl useRowAt u.dies }).modDie (fun d => { d with tlb := (e :: d.tlb).take 131072 })

/-- A walk ahead of any access: its reads open the tables' rows (R321), it sets the leaf's A and brings the leaf into the last-level TLB of the
core's stack (R323, R325). -/
def State.walkRows (proc va : Nat) (s : State) : State := { s with dies := (s.walkReads proc va).foldl useRowAt s.dies }
def State.walkIn (e : TlbEntry) (s : State) : State :=
  let f := { e with pte := pteSetA e.pte }
  ({ s.walkRows e.proc e.va with ptes := Map.put 0 s.ptes (e.ptePa / 8) f.pte }).modDie (fun d => { d with tlb := (f :: d.tlb).take 131072 })

/-- A use of a leaf by an agent outside the cores: A and D as for any access, through the last-level TLB of the core's stack, which only PRESENT
and DISCARDED leaves enter (R323, R325). -/
def State.agentUse (e : TlbEntry) (write : Bool) (s : State) : State :=
  let t := s.markUse e write
  if (tlbFind t.die.tlb e.proc e.va).isSome then t
  else if pteState e.pte = 0 ∨ pteState e.pte = 4 then t.walkIn { e with pte := t.pteAt e.ptePa }
  else t.walkRows e.proc e.va

/-- The use of the leaf of an address, where there is one. -/
def State.agentTouch (proc va : Nat) (write : Bool) (s : State) : State :=
  match s.walk proc va with
  | some e => s.agentUse e write
  | none => s

/-- A 57-bit address as a canonical 64-bit one (R95). -/
def wideVa (va : Nat) : Nat := if va < 2 ^ 56 then va else va + (2 ^ 64 - 2 ^ 57)

/-- Whether two ranges meet. -/
def rangesMeet (a m b n : Nat) : Bool := decide (a < b + n) && decide (b < a + m)

/-- The region of a stack that Hythen keeps for the shim records of its die's arrays (R276): 16 × 8,192 records of 576 bytes; whether a range of
DRAM meets it, which no tenant may map. -/
def State.shimBase (s : State) (stack : Nat) : Nat := stack * 2 ^ 37 + (s.dieAt stack).shim
def shimSize : Nat := 16 * 8192 * 576
def State.shimMeets (s : State) (pa size : Nat) : Bool := rangesMeet pa size (s.shimBase (paStack pa)) shimSize

/-- Whether a range of DRAM meets a segment row of a pool on its stack, which lies in no virtual space (R342), or what else no tenant may map. -/
def State.rowsMeet (s : State) (pa size : Nat) : Bool :=
  (s.dieAt (paStack pa)).granted.any (fun g => g.2 == 1024 && rangesMeet pa size g.1 g.2)
def State.keptBack (s : State) (pa size : Nat) : Bool := s.shimMeets pa size || s.rowsMeet pa size

/-- Frames that a memory error takes out of every free list (R320). -/
def Die.dropFrame (pa : Nat) (d : Die) : Die :=
  { d with
    outOfUse := if d.outOfUse.contains (pa / 65536 * 65536) then d.outOfUse else d.outOfUse ++ [pa / 65536 * 65536]
    free := d.free.map (fun e => (e.1, e.2.filter (fun f => decide (pa < f ∨ f + (if e.1 % 2 = 0 then 65536 else 2 ^ 21) ≤ pa)))) }

/-- A row that an error takes out of every pool (R343): the stack has one slack row less to share, so that the rows of the quotas stay theirs
(R342). -/
def Die.loseRow (d : Die) : Die := { d with slack := d.slack - 1 }
def Die.dropRow (u : Nat) (d : Die) : Die :=
  if d.rowsFree.contains u then ({ d with rowsFree := d.rowsFree.filter (fun x => x != u) } : Die).loseRow else d

/-- What the check bits of a DRAM word do (R320): a corrected or transient error counts, a lasting one stays, and its frame or row leaves every
free list and pool (R343). -/
def Die.eccAt (pa : Nat) (ecc : EccOutcome) (d : Die) : Die :=
  match ecc with
  | .clean => d
  | .corrected => { d with corrected := d.corrected + 1 }
  | .transient => { d with corrected := d.corrected + 1 }
  | .lasting => if d.badWords.contains (pa / 8) then d else { ((d.dropFrame pa).dropRow (paRow pa)) with badWords := d.badWords ++ [pa / 8] }

/-! ### The data cache -/

/-- Replace bytes of a list from an offset. -/
def splice (l : List Byte) (off : Nat) (bs : List Byte) : List Byte := l.take off ++ bs ++ l.drop (off + bs.length)

/-- The cached line with a number (PA / 64). -/
def Core.dline (c : Core) (n : Nat) : Option DLine := c.dcache.find? (fun l => l.line == n)

/-- A byte as the control thread sees it: from its cache, else from DRAM. -/
def State.peek (s : State) (pa : Nat) : Byte :=
  match s.core.dline (pa / 64) with
  | some l => l.bytes.getD (pa % 64) 0
  | none => s.memByte pa

/-- `n` bytes as the control thread sees them. -/
def State.peekBytes (s : State) (pa : Nat) : Nat → List Byte
  | 0 => []
  | n + 1 => s.peek pa :: s.peekBytes (pa + 1) n

/-- The bytes of a line from an offset, as a mask. -/
def byteMask (off n : Nat) : BitVec 64 := BitVec.ofNat 64 ((2 ^ n - 1) * 2 ^ off)

/-- Put bytes into a cached line and mark them dirty. -/
def Core.dwrite (n off : Nat) (bs : List Byte) (c : Core) : Core :=
  { c with dcache := c.dcache.map (fun l => if l.line = n then { l with dirty := l.dirty ||| byteMask off bs.length, bytes := splice l.bytes off bs } else l) }

/-- Write the marked ones of some bytes to DRAM: a write-back performs the thread's stores and no other write (R404, R405). -/
def flushBytes (m : Map Byte) (pa mask : Nat) : List Byte → Map Byte
  | [] => m
  | b :: t => flushBytes (if mask % 2 = 1 then Map.put 0 m pa b else m) (pa + 1) (mask / 2) t

/-- Write the dirty bytes of some lines to DRAM. -/
def flushLines (m : Map Byte) : List DLine → Map Byte
  | [] => m
  | l :: t => flushLines (flushBytes m (64 * l.line) l.dirty.toNat l.bytes) t

/-- The rows that the write-backs of some lines open (R321). -/
def openLines (dies : Map Die) (ls : List DLine) : Map Die :=
  (ls.filter (fun l => l.dirty != 0)).foldl (fun d l => useRowAt d (64 * l.line)) dies

/-- Whether a line's stack is out of reach of the core: no write-back reaches it (R393, R402). -/
def State.lineGone (s : State) (l : DLine) : Bool := s.stackGone (paStack (64 * l.line))

/-- Write back the dirty lines that `sel` selects; they stay, clean (R408). A line whose stack is out of reach stays dirty: its write fails
and changes no memory, and no access is there to report it (DESIGN CHOICE, log 92). -/
def State.writeBack (sel : DLine → Bool) (s : State) : State :=
  let ok := fun (l : DLine) => sel l && !s.lineGone l
  let ls := s.core.dcache.filter ok
  { s with mem := flushLines s.mem ls,
           dies := openLines s.dies ls,
           core := { s.core with dcache := s.core.dcache.map (fun l => if ok l then { l with dirty := 0 } else l) } }

/-- Put bytes that a unit of the core wrote to DRAM into the core's own cached line: its clean bytes follow memory, its dirty bytes stay
the thread's (R410; DESIGN CHOICE, log 93). -/
def freshBytes (dirty : BitVec 64) : Nat → List Byte → List Byte → List Byte
  | k, old :: t, new :: u => (if dirty.getLsbD k then old else new) :: freshBytes dirty (k + 1) t u
  | _, old, _ => old
def State.refreshLine (n : Nat) (s : State) : State :=
  s.modCore (fun c => { c with dcache := c.dcache.map (fun l =>
    if l.line = n then { l with bytes := freshBytes l.dirty 0 l.bytes (s.memBytes (64 * n) 64) } else l) })

/-- A write of a generator to DRAM, which its core's thread sees once it has observed the completion (R201, R206, R410). -/
def State.unitWrite (pa : Nat) (bs : List Byte) (s : State) : State := (s.setMem pa bs).refreshLine (pa / 64)

/-- Drop the lines that `sel` selects, without write-back. -/
def State.dropLines (sel : DLine → Bool) (s : State) : State :=
  s.modCore (fun c => { c with dcache := c.dcache.filter (fun l => !sel l) })

/-- Write back every dirty line (R175, R174, R173, R368). -/
def State.writeBackAll (s : State) : State := s.writeBack (fun _ => true)

/-- Write back a line and drop it: an eviction, which R408 allows at any time. -/
def State.evictLine (n : Nat) (s : State) : State := (s.writeBack (fun l => l.line == n)).dropLines (fun l => l.line == n)

/-- Whether the data cache holds a line under a key id. -/
def Core.cachedAs (n : Nat) (key : BitVec 12) (c : Core) : Bool := (c.dline n).any (fun l => l.key == key)

/-- A line fetched into the data cache, tagged with its page's key id (R95). -/
def State.fetchData (n : Nat) (key : BitVec 12) (s : State) : State :=
  (s.openRow (64 * n)).modCore (fun c =>
    { c with dcache := { line := n, key := key, dirty := 0, bytes := s.memBytes (64 * n) 64 } :: c.dcache })

/-- Bring a line into the data cache under its page's key id (R95). A line that is there under another id, from before a KEY, is evicted first:
its bytes are written back under the old id, and what an acquire of the new one must not find is gone (R254, R255, R287; DESIGN CHOICE,
log 105). -/
def State.fillLine (n : Nat) (key : BitVec 12) (s : State) : State :=
  if s.core.cachedAs n key then s
  else match s.core.dline n with
    | some _ => (s.evictLine n).fetchData n key
    | none => s.fetchData n key

/-- A store of the control thread through its write-back cache (R158). The bytes lie within one line. -/
def State.cacheStore (pa : Nat) (key : BitVec 12) (bs : List Byte) (s : State) : State :=
  (s.fillLine (pa / 64) key).modCore (Core.dwrite (pa / 64) (pa % 64) bs)

/-! ### Buffers -/

/-- A line's F and E bits (R97), and changing them; full and exact are the values that are not listed. -/
def Buffer.full (b : Buffer) (line : Nat) : Bool := !Map.get false b.empty line
def Buffer.isEst (b : Buffer) (line : Nat) : Bool := Map.get false b.est line
def Buffer.setFull (line : Nat) (f : Bool) (b : Buffer) : Buffer := { b with empty := Map.put false b.empty line (!f) }
def Buffer.setEst (line : Nat) (e : Bool) (b : Buffer) : Buffer := { b with est := Map.put false b.est line e }

/-- Bytes of a buffer. -/
def Buffer.byte (b : Buffer) (a : Nat) : Byte := Map.get 0 b.bytes a
def Buffer.read (b : Buffer) (a : Nat) : Nat → List Byte
  | 0 => []
  | n + 1 => b.byte a :: b.read (a + 1) n
def Buffer.write (a : Nat) (bs : List Byte) (b : Buffer) : Buffer := { b with bytes := putBytes b.bytes a bs }

/-- Size of a buffer space by its code (R95). -/
def bufSize (sp : BitVec 3) : Nat := if sp = 1 then 196608 else 65536

/-- The buffer of a space code, and changing it. -/
def Core.buf (c : Core) (sp : BitVec 3) : Buffer := if sp = 1 then c.act else if sp = 2 then c.wgt else c.acc
def State.modBuf (sp : BitVec 3) (f : Buffer → Buffer) (s : State) : State :=
  s.modCore (fun c =>
    if sp = 1 then { c with act := f c.act } else if sp = 2 then { c with wgt := f c.wgt } else { c with acc := f c.acc })

/-- Whether every line that `n` bytes from `a` touch is full, and whether one is an estimate. -/
def Buffer.allFull (b : Buffer) (a n : Nat) : Bool :=
  (List.range ((a + n - 1) / 128 - a / 128 + 1)).all (fun k => b.full (a / 128 + k))
def Buffer.anyEst (b : Buffer) (a n : Nat) : Bool :=
  (List.range ((a + n - 1) / 128 - a / 128 + 1)).any (fun k => b.isEst (a / 128 + k))

/-! ### The cluster store -/

/-- A byte of the cluster store at an offset of the task's partition (R246). -/
def State.clsByte (s : State) (o : Nat) : Byte := Map.get 0 s.cluster.store (s.core.clsb.toNat + o)
def State.clsRead (s : State) (o : Nat) : Nat → List Byte
  | 0 => []
  | n + 1 => s.clsByte o :: s.clsRead (o + 1) n

/-- A write at its bank, where every agent's next access sees it (R248, R407). -/
def State.clsWrite (o : Nat) (bs : List Byte) (s : State) : State :=
  s.modCluster (fun c => { c with store := putBytes c.store (s.core.clsb.toNat + o) bs })

/-- Whether the bytes touch a word of the store with a lasting fault (R249). -/
def State.clsBad (s : State) (o n : Nat) : Bool :=
  s.cluster.badWords.any (fun w => decide ((s.core.clsb.toNat + o) / 8 ≤ w) && decide (w ≤ (s.core.clsb.toNat + o + n - 1) / 8))

/-! ### Accesses of the control thread -/

/-- The 57-bit address as a number. -/
def va57 (va : Word) : Nat := va.toNat % 2 ^ 57

/-- The number by which a fault names an address: its 57 bits, or, of an address that breaks the sign rule and so has no translation, its 64
bits above 2^64. -/
def faultVa (va : Word) : Nat := if canonical va then va57 va else 2 ^ 64 + va.toNat

/-- A unit holds a fault that the walk engines, the pager or Hythen may resolve (R96, R156, R327); `fibre`: the access is to a fibre page. -/
def State.threadFault (unit : FaultUnit) (va : Word) (access reason : Nat) (s : State) (fibre : Bool := false) : State :=
  s.modCore (fun c =>
    if c.faults.any (fun f => f.unit == unit && f.va == faultVa va) then c
    else { c with faults := c.faults ++
      [{ proc := c.proc, va := faultVa va, access := access, reason := reason, core := c.id, unit := unit, fibre := fibre }] })

/-- A fault with that address is already with a pager. -/
def State.faultSent (unit : FaultUnit) (va : Word) (s : State) : Bool :=
  s.dies.any (fun d => d.2.pager.any (fun f => f.core == s.core.id && f.unit == unit && f.va == faultVa va))

/-- An access of the thread that its translation or memory fails (R96, R156, R320, R327, R328): the thread stalls until the pager or
Hythen has resolved the fault, and traps PROT once it is fatal. -/
def threadFails (unit : FaultUnit) (va : Word) (access reason : Nat) (s : State) : Out :=
  if s.core.fatal = some (faultVa va) then trap causeProt va s
  else if s.faultSent unit va then pause s
  else pause (s.threadFault unit va access reason)

/-- A mem: access of the control thread: the sign rule, the translation and its rights, the fibre mark (R156). -/
def threadAccess (access : Nat) (va : Word) (s : State) (k : Xlat → State → Out) : Out :=
  if canonical va = false then trap causeProt va s
  else match s.translate s.core.proc access false (va57 va) with
    | .right => threadFails .thread va access 2 s
    | .fault r => threadFails .thread va access r s
    | x => k x s

/-- A mem: access of the control thread that reads and writes: a leaf without R fails before its STATE acts (R324). -/
def updateAccess (va : Word) (s : State) (k : Xlat → State → Out) : Out :=
  if canonical va ∧ (s.leafFor s.core.proc (va57 va)).any (fun e => !pteR e.pte) then threadFails .thread va 0 2 s
  else threadAccess 1 va s k

/-- Whether the process maps its launch page or its send page at an address (R364, R418). -/
def Proc.unitPage (p : Proc) (va : Nat) : Bool := p.launchVa == some (va / 65536 * 65536) || p.sendVa == some (va / 65536 * 65536)
def State.isUnitPage (s : State) (va : Nat) : Bool := (s.procAt s.core.proc).unitPage va

end Sys2Proof.Machine
end

