-- ==== Sys2Proof/Machine/Banks.lean ====
section
/-! DEFINITION. The banks of act:, wgt: and acc: (spec/04_core.md R99, R100): the requests that stand at a bank, which of them goes first,
and the grants. An agent's step asks and, where no request with precedence stands, is performed at once; one that is refused stands. -/

namespace Sys2Proof.Machine

/-- The buffer space code of an operator's space (R78). -/
def fabSpace (sp : Nat) : BitVec 3 := if sp = 0 then 1 else 3

/-- Whether an access waits for a line's F bit (R81, R83): not yet issued (R98). One that was issued before its plane was fenced waits for
nothing more. -/
def Core.fabWaits (c : Core) (a : FabAccess) : Bool :=
  a.pass.isNone && !a.off && !a.lost && a.space != 2 && a.kind != 1 && !(c.buf (fabSpace a.space)).allFull a.addr (fmtSize a.fmt)

/-- The priority of an agent's requests (R99): result writes of the matrix array and the crossbar; their reads; streams, copies and the
plane loader (R228); the fabric; the control thread. -/
def BankAgent.rank : BankAgent → Nat
  | .matrix _ result => if result then 1 else 2
  | .fire _ result => if result then 1 else 2
  | .stream _ _ => 3
  | .copy _ => 3
  | .loader => 3
  | .fabric _ => 4
  | .thread => 5

/-- The place of an agent in the round of its class (R99). -/
def BankAgent.place : BankAgent → Nat
  | .matrix key _ => key % 64
  | .fire arr _ => 64 + arr % 512
  | .stream e slot => e % 4 * 4 + slot % 4
  | .copy ch => 16 + ch % 4
  | .loader => 20
  | .fabric t => t % 192
  | .thread => 0

/-- The banks of a buffer, 8 bytes each by turns (R99), and those that a request takes: of whole lines, all of those lines. -/
def bankCount (buf : BitVec 3) : Nat := if buf = 2 then 32 else 16
def BankReq.banks (r : BankReq) : List Nat :=
  (List.range (min (bankCount r.buf) ((r.addr + r.len - 1) / 8 - r.addr / 8 + 1))).map (fun k => (r.addr / 8 + k) % bankCount r.buf)

/-- The first bank that two requests share, if any. -/
def BankReq.shared (a b : BankReq) : Option Nat := if a.buf = b.buf then a.banks.find? (fun k => b.banks.contains k) else none

/-- The agent of a class that a bank granted last. -/
def turnKey (rank : Nat) (buf : BitVec 3) (bank : Nat) : Nat := (rank * 4 + buf.toNat % 4) * 32 + bank % 32
def Core.bankTurnOf (c : Core) (rank : Nat) (buf : BitVec 3) (bank : Nat) : Nat := Map.get 1023 c.fab.bankTurn (turnKey rank buf bank)

/-- How far behind the agent granted last a request stands in the round. -/
def roundFrom (turn place : Nat) : Nat := (place + 1023 - turn) % 1024

/-- Whether a request goes before another at a bank by class, or in the round of its class (R99). Two units of one of the first two classes go in
the order in which their commands were accepted (DESIGN CHOICE, log 91). -/
def Core.bankBefore (c : Core) (bank : Nat) (a b : BankReq) : Bool :=
  let ra := a.agent.rank
  if ra ≠ b.agent.rank then decide (ra < b.agent.rank)
  else if ra ≤ 2 then decide (a.order < b.order)
  else
    let turn := c.bankTurnOf ra a.buf bank
    decide (roundFrom turn a.agent.place < roundFrom turn b.agent.place)

/-- Whether a request has precedence over another at a bank (R99): one that the bank has granted, then one that has waited 16 cycles, the oldest
first, then by class. -/
def Core.bankFirst (c : Core) (cyc bank : Nat) (a b : BankReq) : Bool :=
  let aged := fun (r : BankReq) => decide (r.born + 16 ≤ cyc)
  if a.granted ≠ b.granted then a.granted
  else if aged a ≠ aged b then aged a
  else if aged a ∧ a.born ≠ b.born then decide (a.born < b.born)
  else c.bankBefore bank a b

/-- The fabric's requests: the head access of every target in act: or acc: that no line's F bit holds (R79, R81), its age
counted from its firing (DESIGN CHOICE, log 91). -/
def Core.fabricReqs (c : Core) : List BankReq :=
  c.fab.ops.filterMap (fun e => match e.2.out with
    | a :: _ =>
      if a.pass.isNone && !a.off && a.space != 2 && !c.fabWaits a then
        some { agent := .fabric e.1, buf := fabSpace a.space, addr := a.addr, len := fmtSize a.fmt, born := a.born }
      else none
    | [] => none)

/-- Whether a refused request still stands: its agent has not gone on to anything else. -/
def Core.reqStands (k : Cluster) (c : Core) (r : BankReq) : Bool :=
  match r.agent with
  | .thread => c.run == .running && c.stalled && c.qreq.isNone && r.order == c.pc.toNat
  | .stream e slot => match Map.find (Map.get {} c.engines e).slots slot with
    | some t => t.cmd.hasp.order == r.order && t.acquired && t.fault.isNone && t.failed.isNone && (decide (16 ≤ t.cmd.port) || c.qreq.isNone)
    | none => false
  | .copy ch => match (Map.get {} c.chans ch).queue with
    | x :: _ => x.hasp.order == r.order && x.acquired && x.fault.isNone
    | [] => false
  | .matrix key _ => match Map.get [] k.mstreams key with
    | m :: _ => m.hasp.order == r.order && !m.relSent
    | [] => false
  | .fire arr _ => match (Map.get {} k.arrays arr).queue with
    | x :: _ => x.core == c.id && x.hasp.order == r.order && !x.relSent
    | [] => false
  | .loader => match c.fab.loads with
    | l :: _ => l.image.isNone && c.qreq.isNone
    | [] => false
  | .fabric _ => false

/-- The requests that stand at the banks of a core. -/
def Core.standing (k : Cluster) (c : Core) : List BankReq := c.bankReqs.filter (Core.reqStands k c) ++ c.fabricReqs

/-- Whether nothing with precedence stands in a request's way at any of its banks. -/
def Core.bankFree (k : Cluster) (cyc : Nat) (r : BankReq) (c : Core) : Bool :=
  !(c.standing k).any (fun x => x.agent != r.agent && match x.shared r with
    | some bank => c.bankFirst cyc bank x r
    | none => false)

/-- The request of an agent: the one that stands already, or a new one. -/
def Core.bankAsk (agent : BankAgent) (order : Nat) (buf : BitVec 3) (addr len cyc : Nat) (c : Core) : BankReq :=
  match c.bankReqs.find? (fun x => x.agent == agent && x.order == order && x.buf == buf && x.addr == addr) with
  | some x => { x with len := len }
  | none => { agent := agent, order := order, buf := buf, addr := addr, len := len, born := cyc }

/-- Whether a request goes on standing as one of its agent is served: that of another agent, or of the same command at another place (a copy that
reads at one bank and writes at another). -/
def BankReq.stays (r x : BankReq) : Bool :=
  x.agent != r.agent || (decide (r.agent.rank ≤ 3) && x.order == r.order && (x.buf != r.buf || x.addr != r.addr))

/-- A request is served: it stands no more, and its class's round goes on from its agent at its banks. -/
def Core.bankServed (r : BankReq) (c : Core) : Core :=
  let n := r.agent.rank
  { c with
    bankReqs := c.bankReqs.filter r.stays
    fab := if n = 3 ∨ n = 4 then
        { c.fab with bankTurn := r.banks.foldl (fun m b => Map.set m (turnKey n r.buf b) r.agent.place) c.fab.bankTurn }
      else c.fab }

/-- A request is refused, and stands. -/
def Core.bankRefused (r : BankReq) (c : Core) : Core := { c with bankReqs := r :: c.bankReqs.filter (fun x => x.agent != r.agent) }

/-- An access at the banks of the core (R99): `k` performs it where its request is granted; else the request stands and `wait` answers. A space
that is no buffer has no such banks. -/
def State.atBank {α : Type} (agent : BankAgent) (order : Nat) (buf : BitVec 3) (addr len : Nat) (s : State) (wait k : State → α) : α :=
  if buf = 0 ∨ buf = 4 then k s
  else
    let r := s.core.bankAsk agent order buf addr len s.cyc
    if s.core.bankFree s.cluster s.cyc r then k (s.modCore (Core.bankServed r)) else wait (s.modCore (Core.bankRefused r))

/-- The same of a unit of the cluster at the banks of a core of it. -/
def State.atBankOf {α : Type} (n : Nat) (agent : BankAgent) (order : Nat) (buf : BitVec 3) (addr len : Nat) (s : State) (wait k : State → α) : α :=
  let c := s.coreAt n
  let r := c.bankAsk agent order buf addr len s.cyc
  if c.bankFree s.cluster s.cyc r then k (s.modCoreAt n (Core.bankServed r)) else wait (s.modCoreAt n (Core.bankRefused r))

/-- An access of the control thread at a buffer's bank: it is held up while it is refused. -/
def threadBank (buf : BitVec 3) (addr len : Nat) (s : State) (k : State → Out) : Out :=
  s.atBank .thread s.core.pc.toNat buf addr len pause k

end Sys2Proof.Machine
end

