-- ==== Sys2Proof/Machine/Flags.lean ====
section
/-! DEFINITION. The bits that travel beside values: the E bit of a register (R46, R90, R148) and the F and E bits of a buffer line
(R97, R98, R157, R158). The KH16 has no arithmetic flags. -/

namespace Sys2Proof.Machine

/-- TYPE on a line or space (R180): the address in TVAL bits 63:32, bit 5 clear, the register in bits 4:0. -/
def lineValue (addr : Nat) (r : Reg) : Word := BitVec.ofNat 64 (addr % 2 ^ 32 * 2 ^ 32 + r.toNat)
def lineTrap (addr : Nat) (r : Reg) (s : State) : Out := trap causeType (lineValue addr r) s

/-- Wait until the lines that `n` bytes touch have F = 1 (R98), then go on. -/
def guardFull (sp : BitVec 3) (a n : Nat) (s : State) (k : State → Out) : Out :=
  if (s.core.buf sp).allFull a n then k s else stall s

/-- The E bit that a load leaves in its register (R157). -/
def loadTag (estimate : Bool) : Bool := estimate

/-- Whether an access stays within a buffer (R95). -/
def inBuffer (sp : BitVec 3) (addr : Word) (n : Nat) : Bool := decide (addr.toNat + n ≤ bufSize sp)

/-- Whether an access stays within the task's partition of the cluster store (R95). -/
def State.inPartition (s : State) (addr : Word) (n : Nat) : Bool := decide (addr.toNat + n ≤ s.core.clsz.toNat)

end Sys2Proof.Machine
end

