-- ==== Sys2Proof/Machine/Hasp.lean ====
section
/-! DEFINITION. Hasps (spec/11_cluster.md R250 to R259, spec/13_cluster_instructions.md R281 to R294): the object, its home's
operations, registrations and wakes, phase notes, groups, watchpoints, and the hasp instructions. A hasp is known by one number:
its physical address in DRAM, or 2^45 + cluster × 2^23 + its offset in a cluster store. -/

namespace Sys2Proof.Machine

/-- A hasp's 64 bytes (R250); `zeros` says that every field that must be zero, whatever the mode, is zero. -/
structure Hasp where
  mode : Nat := 0
  phase : Bool := false
  ovr : Bool := false
  lost : Bool := false
  init : Bool := false
  key : BitVec 12 := 0
  tenant : Nat := 0
  wkind : Nat := 0
  p : Nat := 0
  q : Nat := 0
  n : Word := 0
  relseq : Nat := 0
  wtask : Nat := 0
  waiters : Nat := 0
  zeros : Bool := true
  deriving DecidableEq, Repr

/-- The number of a hasp in a cluster store. -/
def clsHid (cluster off : Nat) : Nat := 2 ^ 45 + cluster * 2 ^ 23 + off

/-- The die whose scheduler holds a hasp's registrations: its home's (R256). -/
def hidStack (h : Nat) : Nat := if h < 2 ^ 45 then paStack h else (h - 2 ^ 45) / 2 ^ 23 / 16

/-- A byte of a hasp at its home, and writing its 64 bytes as one access (R251). -/
def State.hidByte (s : State) (h : Nat) : Byte :=
  if h < 2 ^ 45 then s.memByte h else Map.get 0 (Map.get {} s.clusters ((h - 2 ^ 45) / 2 ^ 23)).store ((h - 2 ^ 45) % 2 ^ 23)
def State.hidBytes (s : State) (h : Nat) : Nat → List Byte
  | 0 => []
  | n + 1 => s.hidByte h :: s.hidBytes (h + 1) n
def State.hidWrite (h : Nat) (bs : List Byte) (s : State) : State :=
  if h < 2 ^ 45 then s.setMem h bs
  else s.modClusterAt ((h - 2 ^ 45) / 2 ^ 23) (fun c => { c with store := putBytes c.store ((h - 2 ^ 45) % 2 ^ 23) bs })

/-- A lasting memory error in the hasp, or a hasp out of reach of a stack (R249, R320, R393, R402); and of the core's stack. -/
def State.hidBadFrom (s : State) (stack h : Nat) : Bool :=
  s.stackCut stack (hidStack h) ||
  if h < 2 ^ 45 then s.wordsBad h 64
  else (Map.get {} s.clusters ((h - 2 ^ 45) / 2 ^ 23)).badWords.any (fun w => w / 8 == (h - 2 ^ 45) % 2 ^ 23 / 64)

def State.hidBad (s : State) (h : Nat) : Bool := s.hidBadFrom s.core.stack h

/-- Read a hasp's fields (R250). -/
def haspOf (bs : List Byte) : Hasp :=
  let f := fun o n => leValue ((bs.drop o).take n)
  let hdr := f 0 4
  { mode := hdr % 8, phase := hdr / 16 % 2 == 1, ovr := hdr / 32 % 2 == 1, lost := hdr / 64 % 2 == 1, init := hdr / 128 % 2 == 1,
    key := BitVec.ofNat 12 (hdr / 256), tenant := hdr / 2 ^ 20 % 64, wkind := f 4 4 % 4, p := f 8 4, q := f 12 4,
    n := BitVec.ofNat 64 (f 16 8), relseq := f 0x18 4, wtask := f 0x1C 4, waiters := f 0x20 4,
    zeros := hdr / 8 % 2 == 0 && hdr / 2 ^ 26 == 0 && f 4 4 / 4 == 0 && f 0x24 28 == 0 }

/-- A hasp's 64 bytes (R250). -/
def Hasp.bytes (h : Hasp) : List Byte :=
  leBytes 4 (h.mode + 16 * h.phase.toNat + 32 * h.ovr.toNat + 64 * h.lost.toNat + 128 * h.init.toNat + 256 * h.key.toNat
    + 2 ^ 20 * h.tenant) ++
  leBytes 4 h.wkind ++ leBytes 4 h.p ++ leBytes 4 h.q ++ leBytes 8 h.n.toNat ++ leBytes 4 h.relseq ++ leBytes 4 h.wtask ++
  leBytes 4 h.waiters ++ List.replicate 28 0

def State.hasp (s : State) (h : Nat) : Hasp := haspOf (s.hidBytes h 64)
def State.setHasp (h : Nat) (v : Hasp) (s : State) : State := s.hidWrite h v.bytes

/-- The invariants of R251 in the order of its list: the reason that is broken, if any. -/
def Hasp.broken (h : Hasp) (tenant : Nat) : Option Nat :=
  if h.init = false ∨ 4 < h.mode ∨ h.zeros = false then some 1
  else if (h.mode = 2 ∨ h.mode = 3) ∧ h.p ≠ 0 then some 1
  else if (h.mode = 0 ∨ h.mode = 2 ∨ h.mode = 3) ∧ h.q ≠ 0 then some 1
  else if (h.mode = 0 ∨ h.mode = 1 ∨ h.mode = 4) ∧ h.n ≠ 0 then some 1
  else if h.tenant ≠ tenant then some 2
  else if h.mode = 1 ∧ h.p ≤ h.q then some 1
  else if h.mode = 4 ∧ h.p ≤ h.q ∧ ¬(h.p = 0 ∧ h.q = 0) then some 1
  else none

/-- P of a free MUTEX (R250). -/
def freeLock : Nat := 0xFFFFFFFF

/-! ### Tasks on cores -/

/-- The core a task is on, if any: one that only reserves itself for it does not count. -/
def Core.holds (c : Core) (n : Nat) : Bool := c.task == some n && c.run != .idle
def State.coreOfTask (s : State) (n : Nat) : Option Nat :=
  if s.core.holds n then some s.core.id
  else (s.others.find? (fun e => e.2.holds n)).map (fun e => e.1)

/-- The record of a task; of a task that does not exist, a blank one. -/
def State.taskAt (s : State) (n : Nat) : Task := Map.get {} s.tasks n

/-! ### Queue slots (R376, R377) -/

/-- A registration's entry among a die's queue slots: its task's number + 2^32; a queued or parked task's is the task's number. -/
def regEntry (task : Nat) : Nat := task + 2 ^ 32
def State.entryTenant (s : State) (n : Nat) : Nat := (s.taskAt (n % 2 ^ 32)).tenant

/-- On-chip entries of a tenant on a die. -/
def State.slotsUsed (s : State) (die tenant : Nat) : Nat := ((s.dieAt die).onChip.filter (fun n => s.entryTenant n == tenant)).length

/-- Guaranteed slots of a tenant on a die. -/
def State.slotsOf (s : State) (die tenant : Nat) : Nat := Map.get 0 (Map.get {} s.tenants tenant).slots die

/-- Shared slots taken on a die: what each tenant holds above its guarantee. -/
def State.sharedUsed (s : State) (die : Nat) : Nat :=
  (s.tenants.map (fun e => s.slotsUsed die e.1 - s.slotsOf die e.1)).sum

/-- Whether a tenant's entry finds a guaranteed or a shared slot free. -/
def State.slotFree (s : State) (die tenant : Nat) : Bool :=
  decide (s.slotsUsed die tenant < s.slotsOf die tenant) ||
  decide (s.sharedUsed die + (s.tenants.map (fun e => s.slotsOf die e.1)).sum < 4096)

/-- TenantHeld (R377). -/
def State.tenantHeld (s : State) (die tenant : Nat) : Bool := (s.dieAt die).heldTenants.contains tenant

/-- SlotAvailable (R367): a slot on chip, or the spill region of a tenant that is not held (R376); none on a fenced die (R402). -/
def State.slotAvailable (s : State) (die tenant : Nat) : Bool := !(s.dieAt die).fenced && (s.slotFree die tenant || !s.tenantHeld die tenant)

/-- Give an entry its place: a slot, or the way to the spill region behind the entries there. -/
def State.placeEntry (die n : Nat) (s : State) : State :=
  if s.slotFree die (s.entryTenant n) then s.modDieAt die (fun d => { d with onChip := d.onChip ++ [n] })
  else s.modDieAt die (fun d => { d with spilling := d.spilling ++ [n] })

/-- An entry gives up its place. -/
def Die.freeEntry (n : Nat) (d : Die) : Die :=
  { d with onChip := d.onChip.filter (fun x => x != n), spilling := d.spilling.filter (fun x => x != n),
           spilled := d.spilled.filter (fun x => x != n) }
def State.freeEntry (die n : Nat) (s : State) : State := s.modDieAt die (Die.freeEntry n)

/-- Raise an asynchronous trap on a task: on its core, in its saved context, or, of a task that has not run yet, held until it does (R182,
R259). -/
def State.raiseOnTask (n cause : Nat) (value : Word) (s : State) : State :=
  match s.coreOfTask n with
  | some c => s.modCoreAt c (fun k => { k with asyncs := k.asyncs ++ [{ cause := cause, value := value }] })
  | none => s.modTask n (fun t =>
      match t.saved with
      | some v => { t with saved := some { v with core := { v.core with asyncs := v.core.asyncs ++ [{ cause := cause, value := value }] } } }
      | none => { t with asyncs := t.asyncs ++ [{ cause := cause, value := value }] })

/-! ### Phase notes (R284) -/

/-- A task's note for a hasp; without one, phase 0. -/
def Task.note (t : Task) (h : Nat) : Bool :=
  match t.notes.find? (fun e => e.1 == h) with
  | some e => e.2
  | none => false

/-- Whether setting a note would make a 17th (reason 9). -/
def Task.noteFull (t : Task) (h : Nat) : Bool := !(t.notes.any (fun e => e.1 == h)) && decide (16 ≤ t.notes.length)
def Task.setNote (h : Nat) (ph : Bool) (t : Task) : Task := { t with notes := (h, ph) :: t.notes.filter (fun e => e.1 != h) }
def Task.dropNote (h : Nat) (t : Task) : Task := { t with notes := t.notes.filter (fun e => e.1 != h) }

/-! ### The home -/

/-- What happened in an operation, for watchpoints (R259): an arrival event, a flip made by an arrival, a flip or a freeing. -/
structure Events where
  arrival : Bool := false
  last : Bool := false
  flip : Bool := false
  deriving DecidableEq, Repr

/-- Fire the hasp's watchpoint if the operation made its transition: WKIND ← 0 and WATCH on WTASK (R259, R180). Where a store set WKIND and WTASK, so
that no request named a reference, TVAL has the hasp's number in the model (DESIGN CHOICE, log 136). -/
def watchFires (h : Hasp) (e : Events) : Bool :=
  (h.wkind == 1 && e.arrival) || (h.wkind == 2 && e.last && h.mode != 0) || (h.wkind == 3 && e.flip)
def State.watched (hid : Nat) (h : Hasp) (e : Events) (s : State) : State :=
  if watchFires h e then
    let ref := match (s.taskAt h.wtask).watches.find? (fun w => w.1 == hid) with
      | some w => w.2
      | none => BitVec.ofNat 64 hid
    (s.setHasp hid { h with wkind := 0 }).raiseOnTask h.wtask causeWatch (BitVec.ofNat 64 (ref.toNat / 64 * 64 + h.wkind))
  else s.setHasp hid h

/-- The waits on a hasp's flip, oldest first; those of them that registered with a phase. -/
def State.flipWaiters (s : State) (hid : Nat) : List Nat :=
  ((s.dieAt (hidStack hid)).regs.filter (fun r => r.hid == hid && !r.lock)).map (fun r => r.task)
def Registration.flips (hid : Nat) (ph : Bool) (r : Registration) : Bool := r.hid == hid && !r.lock && r.phase == ph
def State.phaseWaiters (s : State) (hid : Nat) (ph : Bool) : List Nat :=
  ((s.dieAt (hidStack hid)).regs.filter (Registration.flips hid ph)).map (fun r => r.task)

/-- Wake every registration of the old phase (R256, R291): WAITERS falls by each, each task's note takes the phase, each slot is free. -/
def State.wakeAll (hid : Nat) (h : Hasp) (s : State) : Hasp × State :=
  let ws := s.phaseWaiters hid (!h.phase)
  let t := s.modDieAt (hidStack hid) (fun d =>
    ws.foldl (fun e n => e.freeEntry (regEntry n)) { d with regs := d.regs.filter (fun r => !r.flips hid (!h.phase)) })
  ({ h with waiters := h.waiters - ws.length },
   ws.foldl (fun u n => u.modTask n (fun k => { k.setNote hid h.phase with wake := some hid, granted := none })) t)

/-- The oldest acquirer registered for a lock. -/
def State.lockWaiter (s : State) (hid : Nat) : Option Nat :=
  ((s.dieAt (hidStack hid)).regs.find? (fun r => r.hid == hid && r.lock)).map (fun r => r.task)

/-- Drop a task's registration with a hasp; its slot is free. -/
def State.unregister (hid task : Nat) (s : State) : State :=
  s.modDieAt (hidStack hid) (fun d => { (d.freeEntry (regEntry task)) with regs := d.regs.filter (fun r => !(r.hid == hid && r.task == task)) })

/-- Free a lock and hand it to the oldest registered acquirer (R252, R289): the freeing, and the taking where there is one. -/
def State.handLock (hid : Nat) (h : Hasp) (s : State) : Hasp × Events × State :=
  match s.lockWaiter hid with
  | none => ({ h with p := freeLock }, { flip := true }, s)
  | some n =>
    ({ h with p := n, waiters := h.waiters - 1 }, { flip := true, arrival := true },
     (s.unregister hid n).modTask n (fun t => { t with wake := some hid, granted := some h.key, locks := hid :: t.locks }))

/-- Whether a registration finds a place, a queue slot or the spill region: a held tenant's does not (R256, R377). -/
def State.slotForWait (s : State) (hid tenant : Nat) : Bool := !s.tenantHeld (hidStack hid) tenant

/-- Register a task with a hasp, with the phase it read (R256); the registration takes a queue slot or spills (R376). -/
def State.register (hid task : Nat) (phase lock : Bool) (s : State) : State :=
  (s.modDieAt (hidStack hid) (fun d => { d with regs := d.regs ++ [{ task := task, hid := hid, phase := phase, lock := lock }] })).placeEntry
    (hidStack hid) (regEntry task)

/-- What a home answers (R282): done; registered, the task waits; refused with a reason of R283; no queue slot for the wait. -/
inductive Reply where
  | done (s : State)
  | waits (s : State)
  | fail (reason : Nat)
  | full

/-- Clear the arrived marks of a hasp (R290). -/
def State.clearArrived (hid : Nat) (s : State) : State :=
  { s with tasks := s.tasks.map (fun e => (e.1, { e.2 with arrived := e.2.arrived.filter (fun x => x != hid) })) }

/-- A phase flip (R252): PHASE inverts, the waiters wake, the operation's events reach the watchpoint. -/
def State.flip (hid : Nat) (h : Hasp) (e : Events) (s : State) : State :=
  let r := s.wakeAll hid { h with phase := !h.phase }
  r.2.watched hid r.1 { e with flip := true }

/-- The home's checks before an operation (R251, R283) that comes from a stack: reason 10, 1 or 2; and of one from the core's. -/
def State.homeCheckFrom (s : State) (stack hid tenant : Nat) : Option Nat :=
  if s.hidBadFrom stack hid then some 10 else (s.hasp hid).broken tenant
def State.homeCheck (s : State) (hid tenant : Nat) : Option Nat := s.homeCheckFrom s.core.stack hid tenant

/-- HINIT at the home (R286). -/
def State.homeInit (hid task tenant mode count : Nat) (key : BitVec 12) (s : State) : Reply :=
  let h := s.hasp hid
  if s.hidBad hid then .fail 10
  else if h.init ∧ h.tenant ≠ tenant then .fail 2
  else if key = 0 then .fail 7
  else if h.init ∧ (h.waiters ≠ 0 ∨ (h.mode = 4 ∧ h.p ≠ 0)) then .fail 8
  else if ((mode = 0 ∨ mode = 4) ∧ count ≠ 0) ∨ (mode = 1 ∧ (count = 0 ∨ 2 ^ 32 ≤ count)) then .fail 7
  else
    let v : Hasp :=
      { mode := mode, init := true, key := key, tenant := tenant,
        p := if mode = 0 then freeLock else if mode = 1 then count else 0,
        n := if mode = 2 ∨ mode = 3 then BitVec.ofNat 64 count else 0 }
    .done ((s.setHasp hid v).modTask task (Task.dropNote hid))

/-- HACQ at the home (R288). -/
def State.homeAcquire (hid task tenant : Nat) (s : State) : Reply :=
  match s.homeCheck hid tenant with
  | some r => .fail r
  | none =>
    let h := s.hasp hid
    if h.mode ≠ 0 then .done s
    else if h.p = task then .fail 4
    else if h.p ≠ freeLock then
      if s.slotForWait hid tenant then .waits ((s.register hid task h.phase true).setHasp hid { h with waiters := h.waiters + 1 }) else .full
    else .done ((s.watched hid { h with p := task } { arrival := true }).modTask task (fun t => { t with locks := hid :: t.locks }))

/-- HREL at the home (R289). -/
def State.homeRelease (hid task tenant : Nat) (s : State) : Reply :=
  match s.homeCheck hid tenant with
  | some r => .fail r
  | none =>
    let h := s.hasp hid
    let seq := (h.relseq + 1) % 2 ^ 32
    if h.mode = 0 then
      if h.p ≠ task then .fail 4
      else
        let r := s.handLock hid { h with relseq := seq }
        .done ((r.2.2.watched hid r.1 r.2.1).modTask task (fun t => { t with locks := t.locks.erase hid }))
    else if h.mode = 3 then
      .done (s.flip hid { h with relseq := seq, n := h.n + 1 } { arrival := true, last := true })
    else .done (s.setHasp hid { h with relseq := seq })

/-- HARR at the home (R290); `task` is none for an engine, which keeps no note (R294). -/
def State.homeArrive (hid : Nat) (task : Option Nat) (tenant : Nat) (s : State) : Reply :=
  match s.homeCheck hid tenant with
  | some r => .fail r
  | none =>
    let h := s.hasp hid
    let t := s.taskAt (task.getD 0)
    if h.mode ≠ 1 ∧ h.mode ≠ 4 then .fail 3
    else if h.mode = 4 ∧ (task = none ∨ !t.groups.contains hid ∨ t.arrived.contains hid) then .fail 6
    else if task ≠ none ∧ t.noteFull hid then .fail 9
    else
      let u := match task with
        | some n => s.modTask n (fun k =>
            let k' := k.setNote hid h.phase
            if h.mode = 4 then { k' with arrived := hid :: k'.arrived } else k')
        | none => s
      let h' := { h with relseq := (h.relseq + 1) % 2 ^ 32, q := h.q + 1 }
      if h'.q = h.p then .done ((u.clearArrived hid).flip hid { h' with q := 0 } { arrival := true, last := true })
      else .done (u.watched hid h' { arrival := true })

/-- HSIG at the home (R290). -/
def State.homeSignal (hid tenant : Nat) (n : Word) (s : State) : Reply :=
  match s.homeCheck hid tenant with
  | some r => .fail r
  | none =>
    let h := s.hasp hid
    if h.mode ≠ 3 then .fail 3
    else .done (s.flip hid { h with relseq := (h.relseq + 1) % 2 ^ 32, n := h.n + n } { arrival := true, last := true })

/-- HWAIT at the home (R291). -/
def State.homeWait (hid task tenant : Nat) (s : State) : Reply :=
  match s.homeCheck hid tenant with
  | some r => .fail r
  | none =>
    let h := s.hasp hid
    let t := s.taskAt task
    if h.mode = 0 then .fail 3
    else if t.noteFull hid then .fail 9
    else if h.phase ≠ t.note hid then .done (s.modTask task (Task.setNote hid h.phase))
    else if s.slotForWait hid tenant then .waits ((s.register hid task h.phase false).setHasp hid { h with waiters := h.waiters + 1 })
    else .full

/-- JOIN at the home (R257, R292). -/
def State.homeJoin (hid task tenant : Nat) (s : State) : Reply :=
  match s.homeCheck hid tenant with
  | some r => .fail r
  | none =>
    let h := s.hasp hid
    let t := s.taskAt task
    if h.mode ≠ 4 then .fail 3
    else if t.groups.contains hid ∨ 16 ≤ t.groups.length then .fail 5
    else .done ((s.setHasp hid { h with p := h.p + 1 }).modTask task (fun k => { k with groups := k.groups ++ [hid] }))

/-- A task's own records of a group go. -/
def Task.dropGroup (hid : Nat) (k : Task) : Task :=
  { k.dropNote hid with
    groups := k.groups.filter (fun x => x != hid), arrived := k.arrived.filter (fun x => x != hid), refs := k.refs.filter (fun x => x.1 != hid) }

/-- A home's read of a hasp opens the hasp's row of DRAM (R319, R321), unless the home is out of reach. -/
def State.homeRow (hid : Nat) (s : State) : State := if hid < 2 ^ 45 ∧ s.stackGone (paStack hid) = false then s.openRow hid else s

/-- The effects of a member's leaving, from its stack (R257, R258, R292): MEMBERS and its own arrival fall, the phase may flip, LOST on a kill. Of
a hasp that fails the home's checks nothing changes there (R251). -/
def State.leaveGroup (stack hid task : Nat) (lost : Bool) (s : State) : State :=
  let h := s.hasp hid
  let k := s.taskAt task
  let u := s.modTask task (Task.dropGroup hid)
  if (s.homeCheckFrom stack hid k.tenant).isSome then u.homeRow hid
  else
    let h' := { h with p := h.p - 1, q := if k.arrived.contains hid then h.q - 1 else h.q, lost := h.lost || lost }
    if h'.p ≠ 0 ∧ h'.q = h'.p then (u.clearArrived hid).flip hid { h' with q := 0 } {} else u.setHasp hid h'

/-- LEAVE at the home (R257, R292). -/
def State.homeLeave (hid task tenant : Nat) (s : State) : Reply :=
  match s.homeCheck hid tenant with
  | some r => .fail r
  | none =>
    if (s.hasp hid).mode ≠ 4 then .fail 3
    else if !(s.taskAt task).groups.contains hid then .fail 6
    else .done (s.leaveGroup s.core.stack hid task false)

/-- A byte count of a command that releases a BYTES hasp (R252, R294). A count of 0 increments RELSEQ, as every release does (R254), though R294
has it change nothing (DESIGN CHOICE, log 137). -/
def State.homeBytes (hid : Nat) (count : Nat) (s : State) : State :=
  let h := s.hasp hid
  let h' := { h with relseq := (h.relseq + 1) % 2 ^ 32 }
  if count = 0 then s.setHasp hid h'
  else if h.n.toNat < count then s.flip hid { h' with n := 0, ovr := true } { arrival := true, last := true }
  else if h.n.toNat = count then s.flip hid { h' with n := 0 } { arrival := true, last := true }
  else s.watched hid { h' with n := h.n - BitVec.ofNat 64 count } { arrival := true }

/-- A command's acquire or release at the home, by the hasp's mode (R294). -/
def State.homeEngine (hid tenant : Nat) (rel : Bool) (bytes : Nat) (s : State) : Reply :=
  match s.homeCheck hid tenant with
  | some r => .fail r
  | none =>
    let m := (s.hasp hid).mode
    if m = 0 ∨ m = 4 then .fail 3
    else if rel = false then .done s
    else if m = 1 then s.homeArrive hid none tenant
    else if m = 2 then .done (s.homeBytes hid bytes)
    else s.homeSignal hid tenant 1

/-- Withdraw a task's registration, from its stack: WAITERS falls (R250, R293); of a hasp that fails the home's checks nothing changes (R251). -/
def State.withdraw (stack hid task : Nat) (s : State) : State :=
  if (s.dieAt (hidStack hid)).regs.any (fun r => r.hid == hid && r.task == task) then
    let h := s.hasp hid
    let u := s.unregister hid task
    if (s.homeCheckFrom stack hid (s.taskAt task).tenant).isSome then u.homeRow hid else u.setHasp hid { h with waiters := h.waiters - 1 }
  else s

/-! ### References (R281) -/

/-- TVAL of HASP (R283). -/
def haspValue (ref : Word) (reason : Nat) : Word := BitVec.ofNat 64 (ref.toNat / 64 * 64 + reason)

/-- A reference that is not a multiple of 64 traps ALIGN (R281). -/
def guardHaspAlign (ref : Word) (s : State) (k : State → Out) : Out :=
  if ref.toNat % 64 ≠ 0 then trap causeAlign ref s else k s

/-- Whether a translation of a hasp's page still stands in the page table: PRESENT, on the same frame. Where a TLB has it and the table no longer,
a change of the page is on its way, and a new operation is held at issue (R281). -/
def State.haspPage (s : State) (va : Nat) (e : TlbEntry) : Bool :=
  (s.walk s.core.proc va).any (fun w => pteState w.pte == 0 && pteFrame w.pte == pteFrame e.pte)

/-- The hasp a reference names (R281): PROT outside the partition, on a launch or send page, which take no such access (R364, R418); without
read and write translation, in a fibre page, the access fails as the thread's own do; it waits while its page leaves PRESENT. -/
def guardHaspRef (ref : Word) (s : State) (k : Nat → State → Out) : Out :=
  if ref.toNat / 2 ^ 61 = 4 then
    if ref.toNat / 2 ^ 23 % 2 ^ 38 ≠ 0 ∨ s.core.clsz.toNat < ref.toNat % 2 ^ 23 + 64 then trap causeProt ref s
    else k (clsHid s.core.clusterKey (s.core.clsb.toNat + ref.toNat % 2 ^ 23)) s
  else updateAccess ref s (fun x t =>
    match x with
    | .frame pa e =>
      if s.isUnitPage (va57 ref) then trap causeProt ref s
      else if t.haspPage (va57 ref) e then k pa (t.touch e true)
      else pause t
    | _ => trap causeProt ref s)

/-- Both checks of a reference, for an instruction with no other address. -/
def guardHasp (r : Reg) (s : State) (k : Nat → State → Out) : Out :=
  guardHaspAlign (s.reg r) s (fun s => guardHaspRef (s.reg r) s k)

/-- A home's refusal as a synchronous trap (R282, R283), a wait without a slot as QFULL (R180). -/
def haspTrap (ref : Word) (reason : Nat) (s : State) : Out := trap causeHasp (haspValue ref reason) s
def waitFull (ref : Word) (s : State) : Out := trap causeQfull (haspValue ref 1) s

/-- The task on the core, 0 where there is none. -/
def State.taskNum (s : State) : Nat := s.core.task.getD 0

/-- Complete a hasp instruction by its home's reply (R282), whose home read the hasp's row (R321); a registered task waits in it. -/
def haspReply (ref : Word) (hid : Nat) (before : State) (after : State → State) (r : Reply) : Out :=
  match r with
  | .done s => .next (((after s).homeRow hid).finish 4)
  | .waits s => stall (s.modCore (fun c => { c with wait := .hasp hid }))
  | .fail n => haspTrap ref n (before.homeRow hid)
  | .full => waitFull ref (before.homeRow hid)

/-- Write back the dirty lines with a key (R254, R408). -/
def State.releaseLines (key : BitVec 12) (s : State) : State := s.writeBack (fun l => l.key == key)

/-- Write back, then drop, the lines with a key (R255, R288). -/
def State.acquireLines (key : BitVec 12) (s : State) : State := (s.releaseLines key).dropLines (fun l => l.key == key)

/-- The acquire of a lock that a wake brings (R288): the hasp may have changed since the grant, its key then is what counts. -/
def State.acquireGranted (key : Option (BitVec 12)) (s : State) : State :=
  match key with
  | some k => s.acquireLines k
  | none => s

/-! ### The instructions -/

/-- HINIT (R286): g[b] carries COUNT in bits 63:12 and KEYID in bits 11:0. -/
def execHinit (h : Reg) (mode : BitVec 3) (b : Reg) (s : State) : Out :=
  guardWf (.hinit h mode b) s (fun s => guardExact [h, b] s (fun s => guardHasp h s (fun hid s =>
    haspReply (s.reg h) hid s id
      (s.homeInit hid s.taskNum s.core.tenant mode.toNat ((s.reg b).toNat / 4096) (BitVec.ofNat 12 (s.reg b).toNat)))))

/-- A translation change of a page: its entry is written, every TLB entry of it goes, and the change waits for the broadcast's
acknowledgement (R325). -/
def State.setPte (proc : Nat) (e : TlbEntry) (pte : Word) (s : State) : State :=
  { s with ptes := Map.put 0 s.ptes (e.ptePa / 8) pte,
           pkg := { s.pkg with unacked := s.pkg.unacked ++ [(proc, e.va, e.size)] } }

/-- Whether a change of the page is not yet acknowledged. -/
def State.pageUnacked (s : State) (proc va : Nat) : Bool :=
  s.pkg.unacked.any (fun u => u.1 == proc && decide (u.2.1 ≤ va) && decide (va < u.2.1 + u.2.2))

/-- A line of a frame of `size` bytes. -/
def inFrame (frame size : Nat) (l : DLine) : Bool := decide (frame / 64 ≤ l.line) && decide (l.line < (frame + size) / 64)

/-- KEY (R287): at its first issue the page takes the hasp's key id, whichever it had, and its lines in this core are written back and
invalidated; it completes when every TLB has acknowledged. -/
def execKey (a h : Reg) (s : State) : Out :=
  guardExact [a, h] s (fun s =>
    if s.core.wait = .key then
      if s.pageUnacked s.core.proc (va57 (s.reg a)) then pause s else .next (s.finish 4)
    else guardHaspAlign (s.reg h) s (fun s =>
      threadAccess 1 (s.reg a) s (fun x t =>
        match x with
        | .frame _ e =>
          guardHaspRef (s.reg h) (t.touch e true) (fun hid u =>
            match u.homeCheck hid u.core.tenant with
            | some r => haspTrap (u.reg h) r (u.homeRow hid)
            | none =>
              let sel := inFrame (pteFrame e.pte) e.size
              pause (((((u.homeRow hid).writeBack sel).dropLines sel).setPte u.core.proc e (pteSetKey (u.pteAt e.ptePa) (u.hasp hid).key)).modCore
                (fun c => { c with wait := .key })))
        | _ => trap causeProt (s.reg a) s)))

/-- Releases of a hasp carried by unfinished commands of the core accepted before number `before` (R411). -/
def releases (h : CmdHasp) (hid before : Nat) : Bool := h.rel && h.hid == hid && decide (h.order < before)
def State.relPending (s : State) (hid before : Nat) : Bool :=
  s.core.engines.any (fun e => e.2.queue.any (fun c => releases c.hasp hid before) ||
    e.2.slots.any (fun t => releases t.2.cmd.hasp hid before) || e.2.ending.any (fun t => releases t.cmd.hasp hid before)) ||
  s.core.chans.any (fun e => e.2.queue.any (fun c => releases c.hasp hid before || c.mcmd.any (fun m => releases m.hasp hid before))) ||
  (List.range 4).any (fun k => (Map.get [] s.cluster.mstreams (s.core.id % 16 * 4 + k)).any (fun c => releases c.hasp hid before)) ||
  s.cluster.arrays.any (fun e => e.2.queue.any (fun x => x.core == s.core.id && releases x.hasp hid before))

/-- HACQ (R288): the acquire at the home, then the lines with the hasp's key go, written back first. -/
def execHacq (h : Reg) (s : State) : Out :=
  guardExact [h] s (fun s => guardHasp h s (fun hid s =>
    if s.core.wait = .hasp hid then stall s
    else if s.relPending hid s.core.accepted then pause s
    else haspReply (s.reg h) hid s (fun t => t.acquireLines (t.hasp hid).key) (s.homeAcquire hid s.taskNum s.core.tenant)))

/-- Whether merges that the thread posted to fibres with a key are still to be applied: a release waits for them (R339). -/
def State.mergesPending (s : State) (key : BitVec 12) : Bool :=
  s.dies.any (fun d => d.2.fibq.any (fun q => q.2.any (fun o =>
    o.task == s.taskNum && o.stream == none && o.flow == none && BitVec.ofNat 12 (s.memNat o.hdr 4 / 256) == key && (o.kind == 0 || o.kind == 1))))

/-- The start of a release (R254, R289): the lines with the key are written back; merges posted before go first. Writes to cls:
are visible since they were performed. -/
def releaseThen (hid : Nat) (s : State) (k : State → Out) : Out :=
  let key := (s.hasp hid).key
  if s.mergesPending key then pause s else k (s.releaseLines key)

/-- HREL (R289). -/
def execHrel (h : Reg) (s : State) : Out :=
  guardExact [h] s (fun s => guardHasp h s (fun hid s => releaseThen hid s (fun s =>
    haspReply (s.reg h) hid s id (s.homeRelease hid s.taskNum s.core.tenant))))

/-- HARR (R290). -/
def execHarr (h : Reg) (s : State) : Out :=
  guardExact [h] s (fun s => guardHasp h s (fun hid s => releaseThen hid s (fun s =>
    haspReply (s.reg h) hid s id (s.homeArrive hid s.core.task s.core.tenant))))

/-- HWAIT (R291). -/
def execHwait (h : Reg) (s : State) : Out :=
  guardExact [h] s (fun s => guardHasp h s (fun hid s =>
    if s.core.wait = .hasp hid then stall s
    else haspReply (s.reg h) hid s id (s.homeWait hid s.taskNum s.core.tenant)))

/-- HSIG (R290). -/
def execHsig (h b : Reg) (s : State) : Out :=
  guardExact [h, b] s (fun s => guardHasp h s (fun hid s => releaseThen hid s (fun s =>
    haspReply (s.reg h) hid s id (s.homeSignal hid s.core.tenant (s.reg b)))))

/-- JOIN (R292). -/
def execJoin (h : Reg) (s : State) : Out :=
  guardExact [h] s (fun s => guardHasp h s (fun hid s =>
    haspReply (s.reg h) hid s (State.modOwnTask (fun k => { k with refs := (hid, s.reg h) :: k.refs })) (s.homeJoin hid s.taskNum s.core.tenant)))

/-- LEAVE (R292). -/
def execLeave (h : Reg) (s : State) : Out :=
  guardExact [h] s (fun s => guardHasp h s (fun hid s =>
    haspReply (s.reg h) hid s id (s.homeLeave hid s.taskNum s.core.tenant)))

end Sys2Proof.Machine
end

