-- ==== Sys2Proof/Machine/Planes.lean ====
section
/-! DEFINITION. Reading a plane's configuration: element and slot fields (R50 to R55, R60), router selectors and the paths they make
(R16, R224 to R226), core-level fields (R227). Targets 0 to 127 are elements, 128 to 191 router slots. -/

namespace Sys2Proof.Machine

/-- A field of a target; one that nothing wrote is zero (R49). -/
def Plane.field (p : Plane) (t f : Nat) : Nat := Map.get 0 p.fields (t * 32 + f)

/-- OPER (R51). -/
def Plane.op (p : Plane) (t : Nat) : Nat := p.field t 0 % 256
def Plane.ot (p : Plane) (t : Nat) : Bool := p.field t 0 / 256 % 2 == 1
def Plane.rm (p : Plane) (t : Nat) : BitVec 3 := BitVec.ofNat 3 (p.field t 0 / 512)
def Plane.sat (p : Plane) (t : Nat) : Bool := p.field t 0 / 4096 % 2 == 1
def Plane.fmt (p : Plane) (t : Nat) : BitVec 4 := BitVec.ofNat 4 (p.field t 0 / 8192)

/-- PORTS (R52): ports 0 to 3 are a, b, c, g. -/
def Plane.used (p : Plane) (t q : Nat) : Bool := p.field t 1 / 2 ^ q % 2 == 1
def Plane.est (p : Plane) (t q : Nat) : Bool := q < 3 && p.field t 1 / 2 ^ (4 + q) % 2 == 1

/-- The used ports of a target in the order a, b, c, g. -/
def Plane.usedPorts (p : Plane) (t : Nat) : List Nat := [0, 1, 2, 3].filter (p.used t)

/-- Sticky count of a port (R53). -/
def Plane.sticky (p : Plane) (t q : Nat) : Nat := p.field t (2 + q) % 65536

/-- Route entry n of a target: its lane, if it is valid (R54). -/
def Plane.route (p : Plane) (t n : Nat) : Option Nat :=
  let v := p.field t (6 + n)
  if v % 2 = 1 then some (v / 2 % 4) else none

/-- The valid route entries as (entry, lane). -/
def Plane.routes (p : Plane) (t : Nat) : List (Nat × Nat) :=
  [0, 1, 2, 3].filterMap (fun n => (p.route t n).map (fun l => (n, l)))

/-- OPF0, OPF1 and the constant K (R55). -/
def Plane.opf0 (p : Plane) (t : Nat) : Nat := p.field t 10
def Plane.opf1 (p : Plane) (t : Nat) : Nat := p.field t 11
def Plane.k (p : Plane) (t : Nat) : W32 := BitVec.ofNat 32 (p.field t 12 % 2 ^ 19 + p.field t 13 % 2 ^ 13 * 2 ^ 19)

/-- The selector of output `o` of router `r`: outputs in the order of R225, N0 to N3, E, S, W, UA UB UC UG, LA LB LC LG, SA SB SC,
X, Y, Z. -/
def Plane.sel (p : Plane) (r o : Nat) : Nat := p.field (128 + r) (12 + o / 3) / 2 ^ (5 * (o % 3)) % 32

/-- The outputs of a router that select an input code. -/
def Plane.outputsOf (p : Plane) (r code : Nat) : List Nat := (List.range 30).filter (fun o => p.sel r o == code)

/-- The router of an element, and the code of its lane 0 (R16, R224). -/
def routerOf (t : Nat) : Nat := if t < 128 then t / 32 * 16 + t % 16 else t - 128
def laneCode (t : Nat) : Nat := if t < 128 then (if t / 16 % 2 = 0 then 17 else 21) else 25

/-- The router and edge code of an input port (R16, R224). -/
def inRouter (k : Nat) : Nat := if k < 8 then k / 2 * 16 else k - 8
def inCode (k : Nat) : Nat := if k < 8 then 29 + k % 2 else 31

/-- Where the stage of an output leads: into a neighbour's input, into a slot (target, port), to an output port, off the grid. -/
inductive Hop where
  | router (r code : Nat)
  | slot (t q : Nat)
  | out (k : Nat)
  | nowhere
  deriving DecidableEq, Repr

/-- The other end of output `o` of router `r` (R16, R224, R225). -/
def hopOf (r o : Nat) : Hop :=
  let q := r / 16
  let c := r % 16
  if o < 4 then (if 0 < q then .router (r - 16) (9 + o) else .nowhere)
  else if o < 8 then (if c < 15 then .router (r + 1) (13 + (o - 4)) else .nowhere)
  else if o < 12 then (if q < 3 then .router (r + 16) (1 + (o - 8)) else .nowhere)
  else if o < 16 then (if 0 < c then .router (r - 1) (5 + (o - 12)) else .nowhere)
  else if o < 20 then .slot (2 * q * 16 + c) (o - 16)
  else if o < 24 then .slot ((2 * q + 1) * 16 + c) (o - 20)
  else if o < 27 then .slot (128 + r) (o - 24)
  else if o = 27 then (if c = 15 then .out (2 * q) else .nowhere)
  else if o = 28 then (if c = 15 then .out (2 * q + 1) else .nowhere)
  else (if q = 3 ∧ 8 ≤ c then .out c else .nowhere)

/-- The source that an input code of a router names (R224): a stage of a neighbour, a target's lane, an input port. -/
inductive Source where
  | stage (r o : Nat)
  | lane (t l : Nat)
  | port (k : Nat)
  | none
  deriving DecidableEq, Repr

def sourceOf (r code : Nat) : Source :=
  let q := r / 16
  let c := r % 16
  if code = 0 then .none
  else if code < 5 then (if 0 < q then .stage (r - 16) (8 + (code - 1)) else .none)
  else if code < 9 then (if c < 15 then .stage (r + 1) (12 + (code - 5)) else .none)
  else if code < 13 then (if q < 3 then .stage (r + 16) (code - 9) else .none)
  else if code < 17 then (if 0 < c then .stage (r - 1) (4 + (code - 13)) else .none)
  else if code < 21 then .lane (2 * q * 16 + c) (code - 17)
  else if code < 25 then .lane ((2 * q + 1) * 16 + c) (code - 21)
  else if code < 29 then .lane (128 + r) (code - 25)
  else if code = 29 then (if c = 0 then .port (2 * q) else .none)
  else if code = 30 then (if c = 0 then .port (2 * q + 1) else .none)
  else (if q = 0 ∧ c < 8 then .port (8 + c) else .none)

/-- The first stages of a target's valid routes: (entry, router output) (R18, R54). -/
def Plane.firstStages (p : Plane) (t : Nat) : List (Nat × Nat) :=
  (p.routes t).flatMap (fun nl => (p.outputsOf (routerOf t) (laneCode t + nl.2)).map (fun o => (nl.1, routerOf t * 30 + o)))

/-- The first stages of an input port's channels. -/
def Plane.inStages (p : Plane) (k : Nat) : List Nat :=
  (p.outputsOf (inRouter k) (inCode k)).map (fun o => inRouter k * 30 + o)

/-- Core-level fields (R227). -/
def Plane.inUsed (p : Plane) (k : Nat) : Bool := p.field 0xC0 0 / 2 ^ k % 2 == 1
def Plane.outUsed (p : Plane) (k : Nat) : Bool := p.field 0xC0 1 / 2 ^ k % 2 == 1
def Plane.inEst (p : Plane) (k : Nat) : Bool := p.field 0xC0 2 / 2 ^ k % 2 == 1
def Plane.outEst (p : Plane) (k : Nat) : Bool := p.field 0xC0 3 / 2 ^ k % 2 == 1
def Plane.traceOn (p : Plane) : Bool := p.field 0xC0 4 / 2 ^ 18 % 2 == 1
def Plane.traceTarget (p : Plane) : Nat := p.field 0xC0 4 % 256
def Plane.samplePeriod (p : Plane) : Nat := p.field 0xC0 5 % 65536
def Plane.breakpoint (p : Plane) (e : Nat) : Bool := p.field 0xC0 (6 + e / 16) / 2 ^ (e % 16) % 2 == 1

/-- Whether a plane uses a port by its code, 0 to 15 in, 16 to 31 out, and the port's type. -/
def Plane.portUsed (p : Plane) (code : Nat) : Bool := if code < 16 then p.inUsed code else p.outUsed (code - 16)
def Plane.portEst (p : Plane) (code : Nat) : Bool := if code < 16 then p.inEst code else p.outEst (code - 16)

/-- The targets with an operator. -/
def Plane.targets (p : Plane) : List Nat := (List.range 192).filter (fun t => p.op t != 0)

/-- Operator codes (R57) that the model asks for by name. -/
def opCtr : Nat := 0x34
def opSteer : Nat := 0x38
def opMerge : Nat := 0x39
def opCarry : Nat := 0x3A
def opRank : Nat := 0x3C
def opAccept : Nat := 0x3E
def opConst : Nat := 0x40
def opSink : Nat := 0x41
def opLd : Nat := 0x44
def opSt : Nat := 0x45
def opAtadd : Nat := 0x46

/-- A sink element (R77): SINK, or ST or ATADD without a valid route. -/
def Plane.isSink (p : Plane) (t : Nat) : Bool :=
  p.op t == opSink || ((p.op t == opSt || p.op t == opAtadd) && (p.routes t).isEmpty)

/-- A source element (R211): CTR or CONST whose port a is unused. -/
def Plane.isSource (p : Plane) (t : Nat) : Bool := (p.op t == opCtr || p.op t == opConst) && !p.used t 0

/-- Whether a plane touches a fenced element (R27): an operator on it, or its router's selectors taking from one of its lanes or
driving one of its ports. -/
def Plane.touches (p : Plane) (e : Nat) : Bool :=
  let r := routerOf e
  let upper := e / 16 % 2 == 0
  p.op e != 0 ||
  (List.range 30).any (fun o =>
    let c := p.sel r o
    (c != 0 && ((upper && decide (16 ≤ o) && decide (o < 20)) || (!upper && decide (20 ≤ o) && decide (o < 24)))) ||
    (decide (laneCode e ≤ c) && decide (c < laneCode e + 4)))

/-- Whether a plane configures a router's slot or routes through the router (R28). -/
def Plane.routesThrough (p : Plane) (r : Nat) : Bool := p.op (128 + r) != 0 || (List.range 30).any (fun o => p.sel r o != 0)

/-- Whether the fences refuse a plane: it touches a fenced element (R27), or uses a router fenced as one (R28). -/
def Plane.hitsFence (p : Plane) (mask : BitVec 128) (routers : BitVec 64) : Bool :=
  (List.range 128).any (fun e => mask.getLsbD e && p.touches e) ||
  (List.range 64).any (fun r => routers.getLsbD r && p.routesThrough r)

/-- Plane n of a core. -/
def Fabric.plane (f : Fabric) (n : Nat) : Plane := Map.get {} f.planes n
def Fabric.setPlane (n : Nat) (p : Plane) (f : Fabric) : Fabric := { f with planes := Map.set f.planes n p }

/-- The ACTIVE plane's number, if there is one (R104). -/
def Fabric.active (f : Fabric) : Option Nat :=
  if (f.plane f.act).state = .active then some f.act
  else none

/-- The plane state code (R104). -/
def PlaneState.code : PlaneState → Nat
  | .empty => 0
  | .loading => 1
  | .ready => 2
  | .active => 3
  | .invalid => 4
  | .switching => 5

/-- The core register PLANE (R93). -/
def Fabric.planeWord (f : Fabric) : Word :=
  BitVec.ofNat 64 (f.act % 4 + (f.plane 0).state.code * 2 ^ 12 + (f.plane 1).state.code * 2 ^ 16 + (f.plane 2).state.code * 2 ^ 20
    + (f.plane 3).state.code * 2 ^ 24 + f.epoch.toNat * 2 ^ 32)

/-! ### The trigger -/

/-- PTRG's fields (R92). -/
def ptrgOf (count : W32) (src target : Nat) (arm : Bool) : Word :=
  BitVec.ofNat 64 (count.toNat * 2 ^ 32 + src % 32 * 8 + target % 4 * 2 + arm.toNat)
def ptrgArm (x : Word) : Bool := x.getLsbD 0
def ptrgTarget (x : Word) : Nat := x.toNat / 2 % 4
def ptrgSrc (x : Word) : Nat := x.toNat / 8 % 32
def ptrgCount (x : Word) : Nat := x.toNat / 2 ^ 32

/-- Whether the armed trigger has reached its count, so that it fires now (R214). -/
def Core.triggerDue (c : Core) : Bool := ptrgArm c.ptrg && c.fab.switch.isNone && decide (ptrgCount c.ptrg ≤ c.fab.trigCount)

/-! ### Ports -/

/-- The record of a port in an epoch. -/
def portKey (epoch : BitVec 32) (code : Nat) : Nat := epoch.toNat % 2 * 32 + code
def Fabric.port (f : Fabric) (epoch : BitVec 32) (code : Nat) : Port := Map.get {} f.ports (portKey epoch code)
def Fabric.modPort (epoch : BitVec 32) (code : Nat) (g : Port → Port) (f : Fabric) : Fabric :=
  { f with ports := Map.set f.ports (portKey epoch code) (g (f.port epoch code)) }

/-- Whether a started stream holds its port (R188). -/
def Stream.holds (t : Stream) : Bool := if t.cmd.port < 16 then !t.eos else !t.ended
def Core.portHeld (c : Core) (port : Nat) : Bool := c.engines.any (fun e => e.2.slots.any (fun t => t.2.cmd.port == port && t.2.holds))

/-- Whether an input port is open (R105): a stream holds it, or tokens that a stream has delivered stand in its queue still (DESIGN CHOICE,
log 132). -/
def Core.portOpen (c : Core) (k : Nat) : Bool := c.portHeld k || (Map.get [] c.fab.inq k).any (fun x => x.epoch == c.fab.epoch)

/-- The row ends after which quiescence closes the input ports (R105 rule 1): one more than the most that an open one delivered. -/
def Core.rowLimit (c : Core) : Nat :=
  ((List.range 16).filter (fun k => (c.fab.plane c.fab.act).inUsed k && c.portOpen k)).foldl
    (fun m k => max m ((c.fab.port c.fab.epoch k).rowEnds + 1)) 1

/-- Change the record of every input port that the active plane uses. -/
def Fabric.modInputs (g : Port → Port) (f : Fabric) : Fabric :=
  (List.range 16).foldl (fun f k => if (f.plane f.act).inUsed k then f.modPort f.epoch k g else f) f

/-- Whether a generator of the active plane is stopped on a fault (R92, R105). -/
def Core.generatorStopped (c : Core) : Bool :=
  c.engines.any (fun e => e.2.slots.any (fun t => t.2.fault.isSome && t.2.cmd.epoch == c.fab.epoch &&
    (c.fab.plane c.fab.act).portUsed t.2.cmd.port))

/-- With a generator stopped while a request stands, every input port of the active plane is closed at once and stays so (R105 rule 2);
during a switch the request waits for its end. -/
def Core.shutPorts (c : Core) : Core :=
  if c.qreq.isSome && c.fab.switch.isNone && c.generatorStopped then
    { c with fab := c.fab.modInputs (fun p => { p with shut := true }) }
  else c

/-- Close the input ports of the active plane: each gets its limit (R105 rules 1 and 2). -/
def Core.closePorts (c : Core) : Core :=
  let t := c.rowLimit
  ({ c with fab := c.fab.modInputs (fun p => { p with limit := some t }) } : Core).shutPorts

/-- A quiescence request (R105): QREQ is set, a waiting instruction is abandoned (R164, R186), one that a bank refuses among them, and the ports
close; a request during a switch waits for its end (R106). -/
def Core.request (why : QuiesceCause) (cyc : Nat) (c : Core) : Core :=
  let d : Core := { c with qreq := some why, qcyc := cyc, stalled := false }
  if c.fab.switch.isSome then d else d.closePorts

/-- Clear what a request closed (R105). -/
def Core.unrequest (c : Core) : Core :=
  { c with qreq := none, qpt := false, held := false
           fab := { c.fab with ports := c.fab.ports.map (fun e => (e.1, { e.2 with limit := none, shut := false })) } }

end Sys2Proof.Machine
end

