-- ==== Sys2Proof/Machine/Launch.lean ====
section
/-! DEFINITION. Launch pages, task numbers, the scheduler's queues and its choice (spec/18_scheduling.md R364 to R377). -/

namespace Sys2Proof.Machine

/-! ### Queues -/

/-- The queue of a tenant and a priority (R371). -/
def queueKey (tenant prio : Nat) : Nat := tenant * 4 + prio % 4
def Die.queue (d : Die) (tenant prio : Nat) : List Nat := Map.get [] d.queues (queueKey tenant prio)
def Die.setQueue (tenant prio : Nat) (l : List Nat) (d : Die) : Die := { d with queues := Map.set d.queues (queueKey tenant prio) l }

/-- Put a task at the tail or the head of its queue. -/
def State.enqueue (n : Nat) (head : Bool) (s : State) : State :=
  let t := s.taskAt n
  (s.modDieAt t.die (fun d =>
    d.setQueue t.tenant t.prio (if head then n :: d.queue t.tenant t.prio else d.queue t.tenant t.prio ++ [n]))).modTask n
    (fun k => { k with status := .queued })

/-- Numbers still in use (R371). -/
def State.numberUsed (s : State) (n : Nat) : Bool :=
  match Map.find s.tasks n with
  | some t => t.status != .retired && t.status != .killed
  | none => false

/-- The next free task number from a counter on: stack in bits 31:28, never 0xFFFFFFFF (R371). -/
def State.freeNumber (s : State) (die : Nat) : Nat → Nat → Nat
  | 0, c => c % 2 ^ 28
  | fuel + 1, c =>
    let n := die % 16 * 2 ^ 28 + c % 2 ^ 28
    if s.numberUsed n ∨ n = 0xFFFFFFFF then s.freeNumber die fuel (c + 1) else c % 2 ^ 28

/-- Create and queue a task of a binding (R367, R371); the answer is its number. -/
def State.newTask (proc tenant : Nat) (b : Binding) (arg : Word) (s : State) : Nat × State :=
  let c := s.freeNumber b.die (s.tasks.length + 2) (s.dieAt b.die).counter
  let n := b.die % 16 * 2 ^ 28 + c
  let t : Task := { num := n, tenant := tenant, proc := proc, prio := b.prio, die := b.die, entry := b.entry, images := b.images, arg := arg }
  let u := { s with tasks := Map.set s.tasks n t }
  let v := u.modDieAt b.die (fun d => { d with counter := (c + 1) % 2 ^ 28 })
  (n, (v.enqueue n false).placeEntry b.die n)

/-! ### Launch pages (R364 to R367) -/

/-- A kernel handle (R366). -/
def handleOf (proc gen slot : Nat) : Word := BitVec.ofNat 64 (proc % 2 ^ 32 * 2 ^ 32 + gen % 2 ^ 16 * 2 ^ 16 + slot % 64)

def Proc.slot (p : Proc) (i : Nat) : LaunchSlot := Map.get {} p.slots i
def Proc.setSlot (i : Nat) (v : LaunchSlot) (p : Proc) : Proc := { p with slots := Map.set p.slots i v }

/-- STATUS and BIND of a slot (R365). -/
def LaunchSlot.status (v : LaunchSlot) : Word := BitVec.ofNat 64 (v.last * 2 ^ 32 + v.launches % 2 ^ 16 * 2 ^ 16 + v.code)
def LaunchSlot.bind (v : LaunchSlot) : Word :=
  match v.binding with
  | some b => BitVec.ofNat 64 (b.gen % 2 ^ 16 * 2 ^ 32 + b.prio * 2 ^ 8 + 1)
  | none => 0

/-- A launch: a write to ARG that the mailbox unit performs (R367). -/
def State.mailboxLaunch (p i : Nat) (arg : Word) (s : State) : State :=
  let pr := s.procAt p
  let v := { pr.slot i with arg := arg, launches := ((pr.slot i).launches + 1) % 2 ^ 16 }
  match v.binding with
  | none => s.modProc p (fun q => q.setSlot i { v with code := 3 })
  | some b =>
    if v.handle ≠ handleOf p b.gen i then s.modProc p (fun q => q.setSlot i { v with code := 4 })
    else if s.tenantHeld b.die pr.tenant ∨ !s.slotAvailable b.die pr.tenant then
      s.modProc p (fun q => q.setSlot i { v with code := 2 })
    else
      let r := s.newTask p pr.tenant b arg
      r.2.modProc p (fun q => q.setSlot i { v with code := 1, last := r.1 })

/-- An 8-byte read of a launch page by the mailbox unit, by offset in the translation (R364, R365). -/
def Proc.launchRead (p : Proc) (off : Nat) : Word :=
  if 4096 ≤ off then 0
  else match off % 64 / 8 with
    | 0 => (p.slot (off / 64)).handle
    | 1 => (p.slot (off / 64)).arg
    | 2 => (p.slot (off / 64)).status
    | 3 => (p.slot (off / 64)).bind
    | _ => 0

/-- An 8-byte write of a launch page (R364, R365, R367). -/
def State.launchWrite (p off : Nat) (x : Word) (s : State) : State :=
  if 4096 ≤ off then s
  else match off % 64 / 8 with
    | 0 => s.modProc p (fun q => q.setSlot (off / 64) { q.slot (off / 64) with handle := x })
    | 1 => s.mailboxLaunch p (off / 64) x
    | _ => s

/-! ### Send pages (R418, R419) -/

def Proc.flow (p : Proc) (f : Nat) : FlowSlot := Map.get {} p.flows f
def Proc.setFlow (f : Nat) (v : FlowSlot) (p : Proc) : Proc := { p with flows := Map.set p.flows f v }

/-- STATUS of a flow slot (R418). -/
def FlowSlot.status (v : FlowSlot) : Word := BitVec.ofNat 64 (v.acked % 2 ^ 24 * 2 ^ 40 + v.sent % 2 ^ 24 * 2 ^ 16 + v.code)

/-- An 8-byte read of a send page, by offset in the translation (R418). -/
def Proc.sendRead (p : Proc) (off : Nat) : Word :=
  if 1024 ≤ off then 0
  else
    let v := p.flow (off / 64)
    match off % 64 / 8 with
    | 0 => v.ctrl
    | 1 => v.src
    | 2 => v.dst
    | 3 => v.href
    | 4 => v.val
    | 6 => v.status
    | _ => 0

/-- A write to a word of a flow slot other than GO (R418): CTRL's zero field is kept zero. -/
def State.sendWord (p off : Nat) (x : Word) (s : State) : State :=
  s.modProc p (fun q =>
    let v := q.flow (off / 64)
    q.setFlow (off / 64) (match off % 64 / 8 with
      | 0 => { v with ctrl := x &&& 0xFFFFFFFF000000FF }
      | 1 => { v with src := x }
      | 2 => { v with dst := x }
      | 3 => { v with href := x }
      | 4 => { v with val := x }
      | _ => v))

/-- The checks of a store of 1 to GO, in order (R419): the CODE of the first that fails. A copy may not read a launch or send page (R364). -/
def State.goCheck (s : State) (p : Nat) (v : FlowSlot) : Option Nat :=
  let kind := v.ctrl.toNat % 8
  let rel := v.ctrl.getLsbD 3
  let len := v.ctrl.toNat / 2 ^ 32
  if kind = 0 ∨ 3 < kind then some 7
  else if rel ∧ kind = 1 then some 7
  else if kind = 2 ∧ (len % 8 ≠ 0 ∨ v.src.toNat % 8 ≠ 0 ∨ v.dst.toNat % 8 ≠ 0 ∨ 2 ^ 24 < len) then some 7
  else if kind = 3 ∧ mergeCode (BitVec.ofNat 4 (v.ctrl.toNat / 16)) = false then some 7
  else if kind = 2 ∧ len ≠ 0 ∧ !(memRange v.src len && (List.range ((v.src.toNat % 65536 + len + 65535) / 65536)).all (fun i =>
      let va := va57 v.src / 65536 * 65536 + i * 65536
      !(s.procAt p).unitPage va &&
      match s.translate p 0 false va with
      | .right => false
      | .fault r => r == 0
      | _ => true)) then some 2
  else none

/-- The leaves of a copy's source, used by the check of its GO (R323, R419). -/
def State.useSource (p : Nat) (va : Word) (len : Nat) (s : State) : State :=
  if len = 0 then s
  else (List.range ((va.toNat % 65536 + len + 65535) / 65536)).foldl (fun t i => t.agentTouch p (va57 va / 65536 * 65536 + i * 65536) false) s

/-- Send a flow slot as it stands (R419): a failed check sets CODE, a sent operation counts in SENT and joins the flow. A copy's source is read
later, before its acknowledgement (R413). -/
def State.goSend (p f : Nat) (s : State) : State :=
  let v := (s.procAt p).flow f
  let setCode := fun (c : Nat) (w : FlowSlot) => if w.code = 0 then { w with code := c } else w
  match s.goCheck p v with
  | some c => s.modProc p (fun q => q.setFlow f (setCode c v))
  | none =>
    let op : FlowOp := { kind := v.ctrl.toNat % 8, src := v.src, dst := v.dst, href := v.href, val := v.val, ctrl := v.ctrl }
    (if op.kind = 2 then s.useSource p v.src (v.ctrl.toNat / 2 ^ 32) else s).modProc p (fun q => q.setFlow f { v with sent := (v.sent + 1) % 2 ^ 24, inFlight := v.inFlight ++ [op] })

/-- Clear CODE (R420). -/
def State.goClear (p f : Nat) (s : State) : State := s.modProc p (fun q => q.setFlow f { q.flow f with code := 0 })

/-- Whether a store of 1 to GO would exceed 256 unacknowledged operations (R419). -/
def State.goFull (s : State) (p f : Nat) : Bool := decide (256 ≤ (((s.procAt p).flow f).inFlight.filter (fun o => !o.done)).length)

/-- A word written to a send page (R418, R419); none where it is a GO that waits for a place in its flow. -/
def isGo (off : Nat) : Bool := decide (off < 1024) && off % 64 / 8 == 5
def State.sendStore (p off : Nat) (x : Word) (s : State) : Option State :=
  if 1024 ≤ off then some s
  else if isGo off then
    if x = 1 then (if s.goFull p (off / 64) then none else some (s.goSend p (off / 64)))
    else if x = 2 then some (s.goClear p (off / 64))
    else some s
  else some (s.sendWord p off x)

/-! ### The choice (R371, R372) -/

/-- A core admits every task but a saved context that needs a plane the fence masks refuse (R235, R372). -/
def State.admits (s : State) (c : Core) (n : Nat) : Bool :=
  match (s.taskAt n).saved with
  | none => true
  | some v => !(v.core.fab.planes.any (fun e => e.2.state != .empty && e.2.hitsFence c.efnc c.rfence))

/-- The first task of a queue that the core admits. -/
def State.firstAdmitted (s : State) (c : Core) (die tenant prio : Nat) : Option Nat :=
  ((s.dieAt die).queue tenant prio).find? (s.admits c)

/-- The tenants a core may serve (R370, R372): its owner, or those of the die. -/
def State.candidates (s : State) (c : Core) : List Nat :=
  match c.owner with
  | some t => [t]
  | none => (s.dieAt c.stack).weights.map (fun e => e.1)

/-- The highest priority at which a candidate has a task the core admits (R372), searching down from `p`. -/
def State.bestPrio (s : State) (c : Core) : Nat → Option Nat
  | 0 => none
  | p + 1 =>
    if (s.candidates c).any (fun t => (s.firstAdmitted c c.stack t p).isSome) then some p else s.bestPrio c p

/-- The first candidate after TURN in ascending tenant number, cyclically (R372). -/
def nextTurn (cand : List Nat) (turn : Nat) : Nat :=
  match cand.find? (fun t => decide (turn < t)) with
  | some t => t
  | none => cand.headD 0

/-- Choose (R372): the task for a free core and the die's TURN and USED after it. -/
def State.choose (s : State) (c : Core) : Option (Nat × Nat × Nat) :=
  let d := s.dieAt c.stack
  match s.bestPrio c 4 with
  | none => none
  | some p =>
    match c.owner with
    | some t => (s.firstAdmitted c c.stack t p).map (fun n => (n, d.turn, d.used))
    | none =>
      let cand := (s.candidates c).filter (fun t => (s.firstAdmitted c c.stack t p).isSome)
      let keep := cand.contains d.turn && decide (d.used < Map.get 0 d.weights d.turn)
      let turn := if keep then d.turn else nextTurn cand d.turn
      let used := if keep then d.used else 0
      (s.firstAdmitted c c.stack turn p).map (fun n => (n, turn, used + 1))

end Sys2Proof.Machine
end

