-- ==== Sys2Proof/Machine/LoadStore.lean ====
section
/-! DEFINITION. Loads and stores (R156 to R159), atomics (R160, R161), line marks and line waits (R162, R163), the control thread's
accesses to launch and send pages (R364, R368, R418, R419). -/

namespace Sys2Proof.Machine

/-- An address that is not a multiple of the access size traps ALIGN (R95, R156). -/
def guardAlign (addr : Word) (n : Nat) (s : State) (k : State → Out) : Out :=
  if addr.toNat % n ≠ 0 then trap causeAlign addr s else k s

/-- A read of `n` bytes of a frame through the data cache (R95); a lasting memory error is a fault (R320, R328). -/
def cacheRead (va : Word) (pa n : Nat) (e : TlbEntry) (s : State) (k : Word → State → Out) : Out :=
  if s.core.cachedAs (pa / 64) (pteKey e.pte) = false ∧ s.memBad (pa / 64 * 64) 64 then threadFails .thread va 0 4 s
  else
    let t := (s.touch e false).fillLine (pa / 64) (pteKey e.pte)
    k (BitVec.ofNat 64 (leValue (t.peekBytes pa n))) t

/-- An aligned 8-byte read of a launch or send page by its unit (R364, R418). -/
def State.unitRead (s : State) (va : Nat) : Word :=
  let p := s.procAt s.core.proc
  if p.launchVa = some (va / 65536 * 65536) then p.launchRead (va % 65536) else p.sendRead (va % 65536)

/-- An access of the thread to a launch or send page through its unit, which is of the stack that the page names: it uses the translation (R323),
and a stack out of reach or a failing word is a lasting memory error (R320, R393, R402). -/
def unitAccess (access : Nat) (addr : Word) (x : Xlat) (s : State) (k : State → Out) : Out :=
  match x with
  | .frame pa e => if s.memBad pa 8 then threadFails .thread addr access 4 s else k (s.touch e (access == 1))
  | _ => k s

/-- A load from mem: (R156, R364): `k` takes the bytes read as a number. -/
def loadMem (addr : Word) (n : Nat) (s : State) (k : Word → State → Out) : Out :=
  threadAccess 0 addr s (fun x t =>
    if s.isUnitPage (va57 addr) then
      (if n = 8 then unitAccess 0 addr x t (fun u => k (u.unitRead (va57 addr)) u) else trap causeProt addr s)
    else match x with
      | .frame pa e => cacheRead addr pa n e t k
      | .zeros e => k 0 (t.touch e false)
      | _ => trap causeProt addr s)

/-- The read of a load in any space (R95, R156, R157): range, F bit, E bit against the load form, the bank (R99). -/
def loadFrom (sp : BitVec 3) (addr : Word) (n : Nat) (est : Bool) (d : Reg) (s : State) (k : Word → State → Out) : Out :=
  if sp = 0 then loadMem addr n s k
  else if sp = 4 then
    if s.inPartition addr n = false ∨ s.clsBad addr.toNat n then trap causeProt addr s
    else k (BitVec.ofNat 64 (leValue (s.clsRead addr.toNat n))) s
  else if inBuffer sp addr n = false then trap causeProt addr s
  else guardFull sp addr.toNat n s (fun s =>
    if est = false ∧ (s.core.buf sp).anyEst addr.toNat n then lineTrap addr.toNat d s
    else threadBank sp addr.toNat n s (fun s => k (BitVec.ofNat 64 (leValue ((s.core.buf sp).read addr.toNat n))) s))

/-- A load (R156, R157): `n` bytes, sign-extended or zero-extended; E as the load form says. -/
def loadOp (n : Nat) (signed est : Bool) (d a : Reg) (sp : BitVec 3) (off : BitVec 13) (s : State) : Out :=
  guardExact [a] s (fun s =>
    let addr := s.effAddr a off
    guardAlign addr n s (fun s => loadFrom sp addr n est d s (fun v t =>
      .next ((t.setReg d (widen signed n v.toNat) (loadTag est)).finish 4))))

/-- LD.B (R126, R157). -/
def execLdB (d a : Reg) (space : BitVec 3) (off : BitVec 13) (s : State) : Out :=
  guardWf (.ldB d a space off) s (loadOp 1 true false d a space off)

/-- LD.BN (R126, R157). -/
def execLdBn (d a : Reg) (space : BitVec 3) (off : BitVec 13) (s : State) : Out :=
  guardWf (.ldBn d a space off) s (loadOp 1 false false d a space off)

/-- LD.H (R126, R157). -/
def execLdH (d a : Reg) (space : BitVec 3) (off : BitVec 13) (s : State) : Out :=
  guardWf (.ldH d a space off) s (loadOp 2 true false d a space off)

/-- LD.HN (R126, R157). -/
def execLdHn (d a : Reg) (space : BitVec 3) (off : BitVec 13) (s : State) : Out :=
  guardWf (.ldHn d a space off) s (loadOp 2 false false d a space off)

/-- LD.W (R126, R157). -/
def execLdW (d a : Reg) (space : BitVec 3) (off : BitVec 13) (s : State) : Out :=
  guardWf (.ldW d a space off) s (loadOp 4 true false d a space off)

/-- LD.WN (R126, R157). -/
def execLdWn (d a : Reg) (space : BitVec 3) (off : BitVec 13) (s : State) : Out :=
  guardWf (.ldWn d a space off) s (loadOp 4 false false d a space off)

/-- LD.D (R126, R157). -/
def execLdD (d a : Reg) (space : BitVec 3) (off : BitVec 13) (s : State) : Out :=
  guardWf (.ldD d a space off) s (loadOp 8 false false d a space off)

/-- LD.EH (R126, R157). -/
def execLdEh (d a : Reg) (space : BitVec 3) (off : BitVec 13) (s : State) : Out :=
  guardWf (.ldEh d a space off) s (loadOp 2 false true d a space off)

/-- LD.EW (R126, R157). -/
def execLdEw (d a : Reg) (space : BitVec 3) (off : BitVec 13) (s : State) : Out :=
  guardWf (.ldEw d a space off) s (loadOp 4 false true d a space off)

/-- A write to a launch or send page by its unit (R364, R368, R418, R419): every dirty line is written back before the write to a
launch page and before a store to GO; a store of 1 to GO with 256 operations unacknowledged waits. -/
def unitStore (va : Nat) (x : Word) (s : State) : Out :=
  let p := s.procAt s.core.proc
  let off := va % 65536
  if p.launchVa = some (va / 65536 * 65536) then .next ((s.writeBackAll.launchWrite s.core.proc off x).finish 4)
  else match (if isGo off then s.writeBackAll else s).sendStore s.core.proc off x with
    | some t => .next (t.finish 4)
    | none => pause s

/-- The write of a store in any space (R156, R158): range, then an estimate into an exact line traps TYPE. -/
def storeTo (sp : BitVec 3) (addr : Word) (n : Nat) (src : Reg) (s : State) : Out :=
  let bs := leBytes n (s.reg src).toNat
  if sp = 0 then
    threadAccess 1 addr s (fun x t =>
      if s.isUnitPage (va57 addr) then
        (if n = 8 then unitAccess 1 addr x t (unitStore (va57 addr) (s.reg src)) else trap causeProt addr s)
      else match x with
        | .frame pa e =>
          if t.core.cachedAs (pa / 64) (pteKey e.pte) = false ∧ t.memBad (pa / 64 * 64) 64 then threadFails .thread addr 1 4 s
          else .next (((t.touch e true).cacheStore pa (pteKey e.pte) bs).finish 4)
        | _ => trap causeProt addr s)
  else if sp = 4 then
    if s.inPartition addr n = false then trap causeProt addr s else .next ((s.clsWrite addr.toNat bs).finish 4)
  else if inBuffer sp addr n = false then trap causeProt addr s
  else if s.tag src ∧ (s.core.buf sp).anyEst addr.toNat n = false then lineTrap addr.toNat src s
  else threadBank sp addr.toNat n s (fun s => .next ((s.modBuf sp (Buffer.write addr.toNat bs)).finish 4))

/-- A store (R156, R158): the value register is exact-only in mem: and cls:. -/
def storeOp (n : Nat) (src a : Reg) (sp : BitVec 3) (off : BitVec 13) (s : State) : Out :=
  guardExact (if bufferSpace sp then [a] else [a, src]) s (fun s =>
    let addr := s.effAddr a off
    guardAlign addr n s (storeTo sp addr n src))

/-- SB (R158). -/
def execSb (src a : Reg) (space : BitVec 3) (off : BitVec 13) (s : State) : Out :=
  guardWf (.sb src a space off) s (storeOp 1 src a space off)

/-- SH (R158). -/
def execSh (src a : Reg) (space : BitVec 3) (off : BitVec 13) (s : State) : Out :=
  guardWf (.sh src a space off) s (storeOp 2 src a space off)

/-- SW (R158). -/
def execSw (src a : Reg) (space : BitVec 3) (off : BitVec 13) (s : State) : Out :=
  guardWf (.sw src a space off) s (storeOp 4 src a space off)

/-- SD (R158). -/
def execSd (src a : Reg) (space : BitVec 3) (off : BitVec 13) (s : State) : Out :=
  guardWf (.sd src a space off) s (storeOp 8 src a space off)

/-- The atomic access of an ATOM in any space (R160, R161): mem: at the home controller, the thread's own line written back and
dropped first; the others at their bank. `f` takes the old value and gives the new one. -/
def atomAccess (sp : BitVec 3) (addr : Word) (n : Nat) (d a : Reg) (f : Nat → Nat) (s : State) : Out :=
  let done := fun (old : Nat) (t : State) => Host.Outcome.next ((t.setReg d (BitVec.ofNat 64 old) false).finish 4)
  if sp = 0 then
    updateAccess addr s (fun x t =>
      match x with
      | .frame pa e =>
        if s.isUnitPage (va57 addr) then trap causeProt addr s
        else if s.memBad pa n then threadFails .thread addr 1 4 s
        else
          let sel := fun (l : DLine) => l.line == pa / 64
          let u := ((t.touch e true).writeBack sel).dropLines sel
          let old := u.memNat pa n
          done old (u.setMem pa (leBytes n (f old)))
      | _ => trap causeProt addr s)
  else if sp = 4 then
    if s.inPartition addr n = false ∨ s.clsBad addr.toNat n then trap causeProt addr s
    else
      let old := leValue (s.clsRead addr.toNat n)
      done old (s.clsWrite addr.toNat (leBytes n (f old)))
  else if inBuffer sp addr n = false then trap causeProt addr s
  else guardFull sp addr.toNat n s (fun s =>
    if (s.core.buf sp).anyEst addr.toNat n then lineTrap addr.toNat a s
    else threadBank sp addr.toNat n s (fun s =>
      let old := leValue ((s.core.buf sp).read addr.toNat n)
      done old (s.modBuf sp (Buffer.write addr.toNat (leBytes n (f old))))))

/-- The width of an ATOM in bytes (R127). -/
def atomSize (dbl : Bool) : Nat := if dbl then 8 else 4

/-- The signed value of an `n`-byte number. -/
def signedOf (n x : Nat) : Int := if 2 * (x % 2 ^ (8 * n)) < 2 ^ (8 * n) then x % 2 ^ (8 * n) else (x % 2 ^ (8 * n) : Nat) - (2 ^ (8 * n) : Nat)

/-- An ATOM (R160): exact-only registers, alignment to n, then the access; `f n old y` is the new value. -/
def atomOp (f : Nat → Nat → Nat → Nat) (exact : List Reg) (d a b : Reg) (sp : BitVec 3) (dbl : Bool) (s : State) : Out :=
  guardExact exact s (fun s =>
    let n := atomSize dbl
    guardAlign (s.reg a) n s (fun s => atomAccess sp (s.reg a) n d a (fun old => f n old ((s.reg b).toNat % 2 ^ (8 * n))) s))

/-- ATOM.ADD (R160). -/
def execAtomAdd (d a b : Reg) (space : BitVec 3) (dbl : Bool) (s : State) : Out :=
  guardWf (.atomAdd d a b space dbl) s (atomOp (fun _ old y => old + y) [a, b] d a b space dbl)

/-- ATOM.AND (R160). -/
def execAtomAnd (d a b : Reg) (space : BitVec 3) (dbl : Bool) (s : State) : Out :=
  guardWf (.atomAnd d a b space dbl) s (atomOp (fun _ old y => old &&& y) [a, b] d a b space dbl)

/-- ATOM.OR (R160). -/
def execAtomOr (d a b : Reg) (space : BitVec 3) (dbl : Bool) (s : State) : Out :=
  guardWf (.atomOr d a b space dbl) s (atomOp (fun _ old y => old ||| y) [a, b] d a b space dbl)

/-- ATOM.XOR (R160). -/
def execAtomXor (d a b : Reg) (space : BitVec 3) (dbl : Bool) (s : State) : Out :=
  guardWf (.atomXor d a b space dbl) s (atomOp (fun _ old y => old ^^^ y) [a, b] d a b space dbl)

/-- ATOM.MIN (R160). -/
def execAtomMin (d a b : Reg) (space : BitVec 3) (dbl : Bool) (s : State) : Out :=
  guardWf (.atomMin d a b space dbl) s (atomOp (fun n old y => if signedOf n y < signedOf n old then y else old) [a, b] d a b space dbl)

/-- ATOM.MAX (R160). -/
def execAtomMax (d a b : Reg) (space : BitVec 3) (dbl : Bool) (s : State) : Out :=
  guardWf (.atomMax d a b space dbl) s (atomOp (fun n old y => if signedOf n old < signedOf n y then y else old) [a, b] d a b space dbl)

/-- ATOM.MINN (R160). -/
def execAtomMinn (d a b : Reg) (space : BitVec 3) (dbl : Bool) (s : State) : Out :=
  guardWf (.atomMinn d a b space dbl) s (atomOp (fun _ old y => min old y) [a, b] d a b space dbl)

/-- ATOM.MAXN (R160). -/
def execAtomMaxn (d a b : Reg) (space : BitVec 3) (dbl : Bool) (s : State) : Out :=
  guardWf (.atomMaxn d a b space dbl) s (atomOp (fun _ old y => max old y) [a, b] d a b space dbl)

/-- ATOM.SWAP (R160). -/
def execAtomSwap (d a b : Reg) (space : BitVec 3) (dbl : Bool) (s : State) : Out :=
  guardWf (.atomSwap d a b space dbl) s (atomOp (fun _ _ y => y) [a, b] d a b space dbl)

/-- ATOM.CAS (R160): g[d] supplies the expected value and is exact-only too. -/
def execAtomCas (d a b : Reg) (space : BitVec 3) (dbl : Bool) (s : State) : Out :=
  guardWf (.atomCas d a b space dbl) s (fun s =>
    atomOp (fun n old y => if old = (s.reg d).toNat % 2 ^ (8 * n) then y else old) [a, b, d] d a b space dbl s)

/-- Mark lines in ascending order (R162), waiting for F = 1 where the mark does: the buffer, and how many lines were marked. -/
def markLines (waits : Bool) (f : Nat → Buffer → Buffer) (b : Buffer) (line : Nat) : Nat → Buffer × Nat
  | 0 => (b, 0)
  | n + 1 =>
    if waits && !b.full line then (b, 0)
    else
      let r := markLines waits f (f line b) (line + 1) n
      (r.1, r.2 + 1)

/-- The lines that the LMARK which waits at PC has marked already (R162); one that was abandoned marks them again (R164). -/
def Wait.marked : Wait → Nat
  | .marks n => n
  | _ => 0

/-- LMARK.EXACT on a line (R162): an estimate line is cleared and becomes exact. -/
def Buffer.makeExact (line : Nat) (b : Buffer) : Buffer :=
  if b.isEst line then (b.write (128 * line) (List.replicate 128 0)).setEst line false else b

/-- An LMARK (R162): g[b] whole lines from the line at g[a]; the marks are accesses of the lines' banks (R99, R100). -/
def lmarkOp (waits : Bool) (f : Nat → Buffer → Buffer) (a b : Reg) (sp : BitVec 3) (s : State) : Out :=
  guardExact [a, b] s (fun s =>
    guardAlign (s.reg a) 128 s (fun s =>
      let count := (s.reg b).toNat
      if count = 0 then .next (s.finish 4)
      else if bufSize sp < (s.reg a).toNat + 128 * count then trap causeProt (s.reg a) s
      else
        let done := s.core.wait.marked
        threadBank sp ((s.reg a).toNat + 128 * done) (128 * (count - done)) s (fun s =>
          let r := markLines waits f (s.core.buf sp) ((s.reg a).toNat / 128 + done) (count - done)
          let t := s.modBuf sp (fun _ => r.1)
          if r.2 = count - done then .next (t.finish 4) else stall (t.modCore (fun c => { c with wait := .marks (done + r.2) })))))

/-- LMARK.EMPTY (R162): F ← 0. -/
def execLmarkEmpty (a b : Reg) (space : BitVec 3) (s : State) : Out :=
  guardWf (.lmarkEmpty a b space) s (lmarkOp false (fun l => Buffer.setFull l false) a b space)

/-- LMARK.FULL (R162): F ← 1. -/
def execLmarkFull (a b : Reg) (space : BitVec 3) (s : State) : Out :=
  guardWf (.lmarkFull a b space) s (lmarkOp false (fun l => Buffer.setFull l true) a b space)

/-- LMARK.EST (R162): E ← 1, after waiting for F = 1. -/
def execLmarkEst (a b : Reg) (space : BitVec 3) (s : State) : Out :=
  guardWf (.lmarkEst a b space) s (lmarkOp true (fun l => Buffer.setEst l true) a b space)

/-- LMARK.EXACT (R162). -/
def execLmarkExact (a b : Reg) (space : BitVec 3) (s : State) : Out :=
  guardWf (.lmarkExact a b space) s (lmarkOp true Buffer.makeExact a b space)

/-- LWAIT (R163): waits until the line that holds g[a] is full. -/
def execLwait (a : Reg) (space : BitVec 3) (s : State) : Out :=
  guardWf (.lwait a space) s (fun s => guardExact [a] s (fun s =>
    if inBuffer space (s.reg a) 1 = false then trap causeProt (s.reg a) s
    else guardFull space (s.reg a).toNat 1 s (fun s => .next (s.finish 4))))

end Sys2Proof.Machine
end

