-- ==== Sys2Proof/Machine/System.lean ====
section
/-! DEFINITION. The system instructions (R169 to R176): core registers, service requests, breakpoints, YIELD, RETIRE, SPAWN,
FENCE.I, ERET; and the traps that no instruction raises itself: an illegal word (R137) and a held asynchronous trap (R182). -/

namespace Sys2Proof.Machine

/-! ### Core registers -/

/-- Where a core register stands (R91, R92). -/
inductive Access where
  | readOnly
  | system
  | readWrite
  | absent
  deriving DecidableEq, Repr

/-- The access of a core register by its number (R92). -/
def accessOf (n : Nat) : Access :=
  if n = 0x000 ∨ n = 0x002 ∨ n = 0x003 ∨ n = 0x030 ∨ (0x038 ≤ n ∧ n ≤ 0x03B) ∨ n = 0x040 ∨ n = 0x041 ∨ n = 0x048 then .readOnly
  else if n = 0x001 ∨ n = 0x060 ∨ n = 0x061 then .system
  else if (0x010 ≤ n ∧ n ≤ 0x014) ∨ (0x020 ≤ n ∧ n ≤ 0x022) ∨ n = 0x031 ∨ n = 0x050 then .readWrite
  else .absent

/-- QST (R92). -/
def Core.qst (c : Core) : Word := BitVec.ofNat 64 (c.qreq.isSome.toNat + 2 * c.qpt.toNat + 4 * (c.held || c.generatorStopped).toNat)

/-- WPn (R103). -/
def Core.wp (c : Core) (n : Nat) : Word := (Map.get {} c.chans n).wp

/-- Read a core register (R92). -/
def State.readCore (s : State) (n : Nat) : Word :=
  let c := s.core
  match n with
  | 0x000 => c.cid
  | 0x001 => c.tid
  | 0x002 => BitVec.ofNat 64 s.cyc
  | 0x003 => c.icnt
  | 0x010 => c.tvec
  | 0x011 => c.tcause
  | 0x012 => c.tpc
  | 0x013 => c.tval
  | 0x014 => c.tstat
  | 0x020 => c.lcnt
  | 0x021 => c.lstart
  | 0x022 => c.lend
  | 0x030 => c.fab.planeWord
  | 0x031 => c.ptrg
  | 0x038 => c.wp 0
  | 0x039 => c.wp 1
  | 0x03A => c.wp 2
  | 0x03B => c.wp 3
  | 0x040 => (c.efnc.extractLsb' 0 64)
  | 0x041 => (c.efnc.extractLsb' 64 64)
  | 0x048 => c.qst
  | 0x050 => c.inj
  | 0x060 => c.clsb
  | 0x061 => c.clsz
  | _ => 0

/-- CRRD (R169): the register, exact. -/
def execCrrd (d : Reg) (n : BitVec 10) (s : State) : Out :=
  if accessOf n.toNat = .absent then illegal (.crrd d n) s
  else .next ((s.setReg d (s.readCore n.toNat) false).finish 4)

/-- An address register's bits 1:0 read as zero (R169, R92). -/
def wordAligned (x : Word) : Word := x &&& ~~~3#64

/-- Write a core register that CRWR may write, reserved bits discarded (R3, R92, R169, R177, R178). -/
def Core.writeCore (n : Nat) (x : Word) (c : Core) : Core :=
  match n with
  | 0x010 => { c with tvec := wordAligned x }
  | 0x011 => { c with tcause := x &&& 0x1FF }
  | 0x012 => { c with tpc := wordAligned x }
  | 0x013 => { c with tval := x }
  | 0x014 => { c with tstat := x &&& 3 }
  | 0x020 => { c with lcnt := x &&& 0xFFFFFFFF }
  | 0x021 => { c with lstart := wordAligned x }
  | 0x022 => { c with lend := wordAligned x }
  | _ => c

/-- CRWR (R169, R91): a number absent from R92 is ILLEGAL, an estimate TYPE, a register that a task may not write PRIV. -/
def execCrwr (a : Reg) (n : BitVec 10) (s : State) : Out :=
  guardWf (.crwr a n) s (fun s =>
    if accessOf n.toNat = .absent then illegal (.crwr a n) s
    else guardExact [a] s (fun s =>
      if accessOf n.toNat ≠ .readWrite then trap causePriv (BitVec.ofNat 64 n.toNat) s
      else
        let x := s.reg a
        .next ((s.modCore (Core.writeCore n.toNat x)).finish 4)))

/-- INJ as a write leaves it (R94): KIND 1 with COUNT above 0, else KIND 0. -/
def injOf (x : Word) : Word :=
  let count := x.toNat / 65536 % 65536
  BitVec.ofNat 64 (count * 65536 + (if x.toNat % 16 = 1 ∧ count ≠ 0 then 1 else 0))

/-- CRWR to INJ (R94). -/
def execCrwrInj (a : Reg) (s : State) : Out :=
  guardExact [a] s (fun s =>
    let x := s.reg a
    .next ((s.modCore (fun c => { c with inj := injOf x })).finish 4))

/-- TVAL of CFG raised at issue for a plane (R217): SRC 2 and the plane number. -/
def cfgPlane (p : Nat) : Word := BitVec.ofNat 64 (p % 4 * 2 ^ 16 + 2 * 2 ^ 12)

/-- Write PTRG and start its count (R214). -/
def Core.setTrigger (x : Word) (c : Core) : Core := { c with ptrg := x, fab := { c.fab with trigCount := 0 } }

/-- CRWR to PTRG (R214): with ARM = 1 it waits for a switch in progress and makes PTRIG's checks. -/
def execCrwrPtrg (a : Reg) (s : State) : Out :=
  guardExact [a] s (fun s =>
    let x := s.reg a &&& 0xFFFFFFFF000000FF
    if ptrgArm x = false then .next ((s.modCore (Core.setTrigger x)).finish 4)
    else if s.core.fab.switch.isSome then pause s
    else if (s.core.fab.plane (ptrgTarget x)).state ≠ .ready then trap causeCfg (cfgPlane (ptrgTarget x)) s
    else .next ((s.modCore (Core.setTrigger x)).finish 4))

/-! ### Services, breakpoints, scheduling -/

/-- The codes that Hythen serves (R395). -/
def servedCodes : List Nat := [1, 2, 3, 4, 5, 6, 7, 8, 9, 10]

/-- TRAP (R170): a request with g1 to g6 goes to Hythen and the thread waits for the reply in g1; an unserved code answers all ones. What an
abandoned wait leaves of its request the spec does not say: it stands, its reply goes to a TRAP that issues the same request again, and a
different request replaces it (DESIGN CHOICE, log 89). -/
def execTrap (code : BitVec 16) (s : State) : Out :=
  guardExact [1, 2, 3, 4, 5, 6] s (fun s =>
    let t := s.taskAt s.taskNum
    if servedCodes.contains code.toNat = false then .next ((s.setReg 1 (BitVec.allOnes 64) false).finish 4)
    else
      let req := (code.toNat, [s.reg 1, s.reg 2, s.reg 3, s.reg 4, s.reg 5, s.reg 6])
      match t.request, t.reply with
      | none, _ => stall ((s.modCore (fun c => { c with wait := .service })).modOwnTask (fun k => { k with request := some req, reply := none }))
      | some _, none => stall s
      | some q, some r =>
        if q = req then .next (((s.setReg 1 r false).finish 4).modOwnTask (fun k => { k with reply := none, request := none }))
        else stall (s.modOwnTask (fun k => { k with request := some req, reply := none })))

/-- BRK (R171): it completes, then raises BRK with the next PC; with a debugger attached it asks for a precise stop instead. -/
def execBrk (code : BitVec 16) (s : State) : Out :=
  let t := s.finish 4
  if (s.taskAt s.taskNum).debug then
    .next (t.modCore (fun c => { c.request .stop s.cyc with stop := some (1, 0xFF, 0xFFFFFF, []) }))
  else .next (t.takeTrap causeBrk false (BitVec.ofNat 64 code.toNat) t.core.pc)

/-- Whether some task is queued for the core (R172): Choose would find one. -/
def State.taskQueued (s : State) : Bool := (s.choose s.core).isSome

/-- YIELD (R172, R377): with no task queued, or a held tenant, it completes; otherwise the core is brought to a quiescent point. -/
def execYield (s : State) : Out :=
  let t := s.finish 4
  if s.taskQueued && !s.tenantHeld s.core.stack s.core.tenant then
    .next (t.modCore (fun c => { c.request .preempt s.cyc with wait := .yielded }))
  else .next t

/-- Whether a stream, copy, matrix or crossbar command of the core is unfinished (R173). -/
def Core.streamsPending (c : Core) : Bool :=
  c.engines.any (fun e => !e.2.queue.isEmpty || !e.2.slots.isEmpty || !e.2.ending.isEmpty) || c.chans.any (fun e => !e.2.queue.isEmpty)
def State.matrixPending (s : State) : Bool :=
  (List.range 4).any (fun k => !(Map.get [] s.cluster.mstreams (s.core.id % 16 * 4 + k)).isEmpty)
def State.xbarPending (s : State) : Bool := s.cluster.arrays.any (fun e => e.2.queue.any (fun x => x.core == s.core.id))
/-- Posted fibre operations of the task not yet applied, or whose failure is not yet raised (R349). -/
def State.fibresPending (s : State) : Bool :=
  s.core.posted != 0 || !s.core.postFails.isEmpty || s.dies.any (fun d => d.2.fibq.any (fun q => q.2.any (fun o => o.task == s.taskNum && o.flow == none)))
def State.commandsPending (s : State) : Bool := s.core.streamsPending || !s.core.fab.loads.isEmpty || s.matrixPending || s.xbarPending || s.fibresPending

/-- LEAVE on every group of a task, from its stack (R173, R258). -/
def State.leaveAll (stack n : Nat) (lost : Bool) (s : State) : State :=
  (s.taskAt n).groups.foldl (fun t h => t.leaveGroup stack h n lost) s

/-- The faults of hints that the core's pagers have not taken yet: they wait for no unit and belong to no task's context (R327, R363). -/
def Core.hintFaults (c : Core) : List FaultTok := c.faults.filter (fun f => f.unit == .hint)

/-- The core is free of its task (R378): idle engines and thread; buffers and planes stay as they are. -/
def Core.freed (c : Core) : Core :=
  { c with run := .idle, task := none, stalled := false, wait := .none, last := some c.tenant, qreq := none, qpt := false,
           held := false, asyncs := [], faults := c.hintFaults, fatal := none, stop := none,
           tstat := 0 }

/-- Whether a stream of the current epoch, or of a switch's incoming one, has been accepted (R216). -/
def Fabric.streamed (f : Fabric) : Bool := f.usedEpoch == some f.epoch || f.usedEpoch == some (f.epoch + 1)

/-- The first group of a task whose hasp refuses a LEAVE, with the reference it was joined by (R251, R283). -/
def State.brokenGroup (s : State) (n : Nat) : Option (Word × Nat) :=
  let k := s.taskAt n
  k.groups.findSome? (fun h => (s.homeCheck h k.tenant).map (fun r =>
    (match k.refs.find? (fun x => x.1 == h) with
     | some x => x.2
     | none => BitVec.ofNat 64 h, r)))

/-- RETIRE (R173): it waits for every command and the active launch, writes the cache back (the fabric's cls: writes
are visible since they were performed), leaves every group and frees the core. A group whose hasp refuses the LEAVE raises HASP, before any group is left (R251;
DESIGN CHOICE, log 99). -/
def execRetire (s : State) : Out :=
  if s.commandsPending ∨ (s.core.fab.streamed ∧ s.core.fab.launch = 1) then stall s
  else match s.brokenGroup s.taskNum with
  | some x => haspTrap x.1 x.2 s.writeBackAll
  | none =>
    let n := s.taskNum
    let t := (s.finish 4).writeBackAll.leaveAll s.core.stack n false
    .next ((t.modTask n (fun k => { k with status := .retired })).modCore Core.freed)

/-- FENCE.I (R175): the data cache is written back, the instruction cache invalidated. -/
def execFenceI (s : State) : Out := .next ((s.writeBackAll.modCore (fun c => { c with icache := [] })).finish 4)

/-- ERET (R176): PC ← TPC, TA ← 0; with TA = 0 it is ILLEGAL. -/
def execEret (s : State) : Out :=
  if s.core.ta then .next (s.modCore (fun c => { c.trapReturn with icnt := c.icnt + 1 }))
  else illegal .eret s

/-- The binding that a kernel handle names for a tenant (R174, R366, R367). -/
def State.bindingOf (s : State) (h : Word) (tenant : Nat) : Option (Nat × Binding) :=
  let p := h.toNat / 2 ^ 32
  match Map.find s.procs p with
  | none => none
  | some pr =>
    match (pr.slot (h.toNat % 64)).binding with
    | none => none
    | some b => if pr.tenant = tenant ∧ h = handleOf p b.gen (h.toNat % 64) then some (p, b) else none

/-- SPAWN (R174): every dirty line is written back, then the task is queued; g[d] takes its number. -/
def execSpawn (d a b : Reg) (s : State) : Out :=
  guardExact [a, b] s (fun s =>
    match s.bindingOf (s.reg a) s.core.tenant with
    | none => trap causeProt (s.reg a) s
    | some (p, bd) =>
      if s.tenantHeld bd.die s.core.tenant ∨ !s.slotAvailable bd.die s.core.tenant then trap causeQfull (s.reg a) s.writeBackAll
      else
        let r := (s.writeBackAll).newTask p s.core.tenant bd (s.reg b)
        .next ((r.2.setReg d (BitVec.ofNat 64 r.1) false).finish 4))

/-! ### Traps without an instruction of their own -/

/-- ILLEGAL_INSTRUCTION (R137): a word that no mnemonic claims, with the literal where it was fetched. -/
def execIllegalInstruction (word lit : W32) (s : State) : Out :=
  trap causeIllegal (BitVec.ofNat 64 (word.toNat + 2 ^ 32 * lit.toNat)) s

/-- A wait abandoned by an asynchronous trap (R164, R293): a registration is withdrawn; a wake that already came completes the
instruction first. -/
def State.abandonWait (s : State) : State :=
  match s.core.wait with
  | .hasp hid =>
    if (s.taskAt s.taskNum).wake = some hid then
      (s.acquireGranted (s.taskAt s.taskNum).granted).finish 4 |>.modOwnTask (fun t => { t with wake := none, granted := none })
    else (s.withdraw s.core.stack hid s.taskNum).modCore (fun c => { c with wait := .none, stalled := false })
  | .pages _ | .marks _ => s.modCore (fun c => { c with wait := .none, stalled := false })
  | _ => s.modCore (fun c => { c with stalled := false })

/-- Whether something under way keeps the thread from its boundary (R26, R287, R356): accesses of a fenced plane that are still to be performed;
a KEY; an XSTAT; a wait for a fibre home's reply; of a PDISCARD the invalidation of a page that it changed. -/
def State.boundaryWaits (s : State) : Bool :=
  s.core.fab.fencing || s.core.fab.ops.any (fun e => e.2.out.any (fun a => a.lost)) ||
  match s.core.wait with
  | .key => true
  | .reply => true
  | .status => true
  | .pages done => s.pkg.unacked.any (fun u => u.1 == s.core.proc && decide (wideVa u.2.1 < done))
  | _ => false

/-- ASYNC_TRAP (R182): at a boundary with TA = 0, the first trap held is taken; the thread resumes at the instruction that would have issued. -/
def execAsyncTrap (s : State) : Out :=
  match s.core.asyncs with
  | [] => .next s
  | t :: rest =>
    if s.core.ta ∨ s.boundaryWaits then .next s
    else
      let u := (s.modCore (fun c => { c with asyncs := rest })).abandonWait
      .next (u.takeTrap t.cause true t.value u.core.pc)

end Sys2Proof.Machine
end

