-- ==== Sys2Proof/Machine/Fibre.lean ====
section
/-! DEFINITION. Fibres (spec/16_die.md R331 to R343, spec/17_fibre_instructions.md R345 to R356): headers and segments in DRAM, the
home's merges, probes and scan steps, segment pools, and the fibre instructions. -/

namespace Sys2Proof.Machine

/-! ### Headers and segments -/

/-- A fibre header (R332). -/
structure FHdr where
  attr : Nat := 0
  pool : Nat := 0
  nent : Nat := 0
  nseg : Nat := 0
  first : Nat := 0xFFFFFFFF
  nsplit : Nat := 0
  ncomb : Nat := 0
  nins : Nat := 0
  nnew : Nat := 0
  ndrop : Nat := 0
  deriving DecidableEq, Repr

/-- No row: the end of a chain (R332, R334). -/
def noRow : Nat := 0xFFFFFFFF

/-- Fields of ATTR (R332). -/
def FHdr.live (h : FHdr) : Bool := h.attr / 2 ^ 31 % 2 == 1
def FHdr.tenant (h : FHdr) : Nat := h.attr / 2 ^ 20 % 64
def FHdr.key (h : FHdr) : BitVec 12 := BitVec.ofNat 12 (h.attr / 256)
def FHdr.bad (h : FHdr) : Bool := h.attr / 128 % 2 == 1
def FHdr.dz (h : FHdr) : Bool := h.attr / 32 % 2 == 1
def FHdr.comb (h : FHdr) : Nat := h.attr / 4 % 8
def FHdr.vfmt (h : FHdr) : Nat := h.attr % 4

/-- Read and write a header at its physical address (R332). -/
def State.fhdr (s : State) (pa : Nat) : FHdr :=
  { attr := s.memNat pa 4, pool := s.memNat (pa + 4) 4, nent := s.memNat (pa + 8) 8, nseg := s.memNat (pa + 0x10) 4,
    first := s.memNat (pa + 0x14) 4, nsplit := s.memNat (pa + 0x18) 4, ncomb := s.memNat (pa + 0x1C) 4,
    nins := s.memNat (pa + 0x20) 4, nnew := s.memNat (pa + 0x24) 4, ndrop := s.memNat (pa + 0x28) 4 }
def FHdr.bytes (h : FHdr) : List Byte :=
  leBytes 4 h.attr ++ leBytes 4 h.pool ++ leBytes 8 h.nent ++ leBytes 4 h.nseg ++ leBytes 4 h.first ++ leBytes 4 h.nsplit ++
  leBytes 4 h.ncomb ++ leBytes 4 h.nins ++ leBytes 4 h.nnew ++ leBytes 4 h.ndrop ++ List.replicate 20 0
def State.setFhdr (pa : Nat) (h : FHdr) (s : State) : State := s.setMem pa h.bytes

/-- A segment (R334): the next row, and the entries (key, value) in ascending key order. -/
structure Seg where
  row : Nat := 0
  next : Nat := 0xFFFFFFFF
  ents : List (W32 × W32) := []
  deriving DecidableEq, Repr

/-- The physical address of a row of a stack (R318). -/
def rowPa (stack u : Nat) : Nat := stack * 2 ^ 37 + u * 1024

/-- The entries of a segment in DRAM from entry `i` on. -/
def State.segEnts (s : State) (pa i : Nat) : Nat → List (W32 × W32)
  | 0 => []
  | n + 1 =>
    (BitVec.ofNat 32 (s.memNat (pa + 0x10 + 8 * i) 4), BitVec.ofNat 32 (s.memNat (pa + 0x14 + 8 * i) 4)) :: s.segEnts pa (i + 1) n
def State.seg (s : State) (stack u : Nat) : Seg :=
  let pa := rowPa stack u
  { row := u, next := s.memNat (pa + 0xC) 4, ents := s.segEnts pa 0 (s.memNat (pa + 8) 2) }

/-- LO and HI (R334, R335). -/
def Seg.lo (g : Seg) : Nat := ((g.ents.head?).map (fun e => e.1.toNat)).getD 0
def Seg.hi (g : Seg) : Nat := ((g.ents.getLast?).map (fun e => e.1.toNat)).getD 0

def entryBytes : List (W32 × W32) → List Byte
  | [] => []
  | e :: t => leBytes 4 e.1.toNat ++ leBytes 4 e.2.toNat ++ entryBytes t
def Seg.bytes (g : Seg) : List Byte :=
  leBytes 4 g.lo ++ leBytes 4 g.hi ++ leBytes 2 g.ents.length ++ leBytes 2 0 ++ leBytes 4 g.next ++ entryBytes g.ents
def State.setSeg (stack : Nat) (g : Seg) (s : State) : State := s.setMem (rowPa stack g.row) g.bytes

/-- The chain of segments from a row, at most `n` of them (R334). -/
def State.chain (s : State) (stack u : Nat) : Nat → List Seg
  | 0 => []
  | n + 1 => if u = noRow then [] else let g := s.seg stack u; g :: s.chain stack g.next n
def State.fibChain (s : State) (pa : Nat) : List Seg := s.chain (paStack pa) (s.fhdr pa).first (s.fhdr pa).nseg

/-! ### Values (R333, R336) -/

/-- Whether VFMT, COMB and DZ are an admitted combination (R333). -/
def fibAdmitted (vfmt comb : Nat) (dz : Bool) : Bool :=
  if vfmt = 0 then comb == 0 || comb == 1 || comb == 2 || comb == 4 || comb == 5
  else if vfmt = 3 then comb == 5 && !dz
  else decide (comb ≤ 5)

/-- Whether a merge input format is admitted (R333, R352). -/
def fibInputOk (vfmt : Nat) (fmt : BitVec 4) : Bool :=
  if vfmt = 0 then fmt == 0 || fmt == 1 || fmt == 2 else if vfmt = 3 then true else fmt == 8 || fmt == 0xC

/-- Convert a merge's input (R336, R352): exactly to fp32 with subnormals of its own format flushed and NaN canonical, or 32 bits. -/
def fibConvert (vfmt : Nat) (fmt : BitVec 4) (x : W32) : W32 :=
  if vfmt = 0 then
    match fmtOf fmt with
    | some (.flt f) => toF32 (roundF fp32Fmt 0 false false (flushSub (.flt f) (decodeF f (x.toNat % 2 ^ f.bits))))
    | _ => x
  else x

/-- Store a value (R336, R337): an fp32 subnormal becomes zero and every zero +0; a key-only fibre stores zero. -/
def fibStore (vfmt : Nat) (x : W32) : W32 :=
  if vfmt = 3 then 0
  else if vfmt = 0 then (if x.toNat / 2 ^ 23 % 256 = 0 then 0 else x)
  else x

/-- Zero for drop-zero (R336), after the store's flush of an fp32 subnormal. -/
def fibIsZero (vfmt : Nat) (x : W32) : Bool := if vfmt = 0 then x.toNat / 2 ^ 23 % 256 == 0 else x == 0

/-- Combine an old value with a new one (R336). -/
def fibCombine (vfmt comb : Nat) (w v : W32) : W32 :=
  if comb = 4 then v
  else if comb = 5 then w
  else if comb = 3 then w ||| v
  else if vfmt = 0 then
    (if comb = 0 then fadd32 0 false w v else if comb = 1 then fmax32 w v else fmin32 w v)
  else if comb = 0 then w + v
  else if vfmt = 1 then
    (if comb = 1 then (if w.slt v then v else w) else (if v.slt w then v else w))
  else (if comb = 1 then (if w.ult v then v else w) else (if v.ult w then v else w))

/-! ### Pools (R342) -/

/-- Take a row for a pool: a guaranteed one while USED is below QUOTA, else a slack one; which free row is the home's choice. -/
def State.poolTake (stack pool : Nat) (s : State) : Option (Nat × State) :=
  let d := s.dieAt stack
  match Map.find d.pools pool with
  | none => none
  | some p =>
    let slack := !decide (p.used < p.quota)
    if slack ∧ d.slack ≤ d.slackUsed then none
    else match d.rowsFree[Config.rowChoice s.free % d.rowsFree.length]? with
      | none => none
      | some u =>
        some (u, { (s.modDieAt stack (fun d =>
          { d with rowsFree := d.rowsFree.erase u, slackUsed := if slack then d.slackUsed + 1 else d.slackUsed,
                   pools := Map.set d.pools pool { p with used := p.used + 1 } })) with free := s.free + 1 })

/-- Return a row to its pool's guaranteed rows or to SLACK, cleared there (R342); a row with a lasting error stays out of use. -/
def State.poolFree (stack pool u : Nat) (s : State) : State :=
  let d := s.dieAt stack
  match Map.find d.pools pool with
  | none => s
  | some p =>
    let slack := decide (p.quota < p.used)
    let bad := s.wordsBad (rowPa stack u) 1024
    let t := if slack then s.setMem (rowPa stack u) (List.replicate 1024 0) else s
    t.modDieAt stack (fun d =>
      { (if bad then d.loseRow else d) with
               rowsFree := if bad then d.rowsFree else d.rowsFree ++ [u], slackUsed := if slack then d.slackUsed - 1 else d.slackUsed,
               pools := Map.set d.pools pool { p with used := p.used - 1 } })

/-! ### MergeEntry (R337) -/

/-- What an operation at a home reports: done, or a reason of R347. -/
inductive FibReply where
  | done (s : State)
  | fail (reason : Nat)

/-- Insert an entry in ascending key order. -/
def insertEntry (k v : W32) : List (W32 × W32) → List (W32 × W32)
  | [] => [(k, v)]
  | e :: t => if k.toNat < e.1.toNat then (k, v) :: e :: t else e :: insertEntry k v t

/-- Replace a key's value. -/
def replaceEntry (k v : W32) (l : List (W32 × W32)) : List (W32 × W32) := l.map (fun e => if e.1 = k then (k, v) else e)

/-- The last segment with LO ≤ k, or the first (R337). -/
def segFor (k : Nat) (l : List Seg) : Option Seg :=
  match (l.filter (fun g => decide (g.lo ≤ k))).getLast? with
  | some g => some g
  | none => l.head?

/-- The segment before a row on the chain. -/
def segBefore (u : Nat) (l : List Seg) : Option Seg := l.find? (fun g => g.next == u)

/-- Unlink a segment whose entries are gone and return its row (R337). -/
def State.dropSeg (pa : Nat) (h : FHdr) (g : Seg) (l : List Seg) (s : State) : FHdr × State :=
  let st := paStack pa
  let t := match segBefore g.row l with
    | some p => s.setSeg st { p with next := g.next }
    | none => s
  ({ h with nseg := h.nseg - 1, first := if h.first = g.row then g.next else h.first }, t.poolFree st h.pool g.row)

/-- MergeEntry (R337): one atomic step at the home; POOL applies nothing. -/
def State.mergeEntry (pa : Nat) (k v : W32) (s : State) : FibReply :=
  let h := s.fhdr pa
  let st := paStack pa
  let l := s.fibChain pa
  let wrap := fun (n : Nat) => (n + 1) % 2 ^ 32
  let dropped := fun (_ : Unit) => FibReply.done (s.setFhdr pa { h with ncomb := wrap h.ncomb, ndrop := wrap h.ndrop })
  match segFor k.toNat l with
  | none =>
    if h.dz ∧ fibIsZero h.vfmt v then dropped ()
    else match s.poolTake st h.pool with
      | none => .fail 1
      | some (u, t) =>
        .done ((t.setSeg st { row := u, ents := [(k, fibStore h.vfmt v)] }).setFhdr pa
          { h with first := u, nnew := wrap h.nnew, nent := h.nent + 1, nseg := h.nseg + 1 })
  | some g =>
    match g.ents.find? (fun e => e.1 == k) with
    | some e =>
      let r := fibCombine h.vfmt h.comb e.2 v
      if h.dz ∧ fibIsZero h.vfmt r then
        let g' := { g with ents := g.ents.filter (fun x => x.1 != k) }
        let h' := { h with ncomb := wrap h.ncomb, ndrop := wrap h.ndrop, nent := h.nent - 1 }
        if g'.ents.isEmpty then
          let d := s.dropSeg pa h' g l
          .done (d.2.setFhdr pa d.1)
        else .done ((s.setSeg st g').setFhdr pa h')
      else
        .done ((s.setSeg st { g with ents := replaceEntry k (fibStore h.vfmt r) g.ents }).setFhdr pa { h with ncomb := wrap h.ncomb })
    | none =>
      if h.dz ∧ fibIsZero h.vfmt v then dropped ()
      else if g.ents.length < 126 then
        .done ((s.setSeg st { g with ents := insertEntry k (fibStore h.vfmt v) g.ents }).setFhdr pa
          { h with nins := wrap h.nins, nent := h.nent + 1 })
      else match s.poolTake st h.pool with
        | none => .fail 1
        | some (u, t) =>
          if k.toNat < g.lo then
            .done ((t.setSeg st { row := u, next := g.row, ents := [(k, fibStore h.vfmt v)] }).setFhdr pa
              { h with first := u, nnew := wrap h.nnew, nent := h.nent + 1, nseg := h.nseg + 1 })
          else if g.hi < k.toNat ∧ g.next = noRow then
            .done (((t.setSeg st { row := u, ents := [(k, fibStore h.vfmt v)] }).setSeg st { g with next := u }).setFhdr pa
              { h with nnew := wrap h.nnew, nent := h.nent + 1, nseg := h.nseg + 1 })
          else
            let low := g.ents.take 63
            let high := g.ents.drop 63
            let toLow := decide (k.toNat < ((high.head?).map (fun e => e.1.toNat)).getD 0)
            let low' := if toLow then insertEntry k (fibStore h.vfmt v) low else low
            let high' := if toLow then high else insertEntry k (fibStore h.vfmt v) high
            .done (((t.setSeg st { row := u, next := g.next, ents := high' }).setSeg st { g with next := u, ents := low' }).setFhdr pa
              { h with nsplit := wrap h.nsplit, nent := h.nent + 1, nseg := h.nseg + 1 })

/-! ### The home's checks (R343, R346) -/

/-- What an operation meets of a fibre besides its header (R337, R340, R341): nothing, the chain up to a key's segment, up to the segment of the
least key above a scan's cursor, all of it. -/
inductive FibReach where
  | header
  | key (k : Nat)
  | scan (cursor : Option Nat)
  | chain
  deriving DecidableEq, Repr

/-- Whether an entry lies above a scan's cursor (R341). -/
def aboveCursor (cursor : Option Nat) (e : W32 × W32) : Bool :=
  match cursor with
  | some c => decide (c < e.1.toNat)
  | none => true

/-- The segments that an operation meets. -/
def State.fibMeets (s : State) (pa : Nat) (r : FibReach) : List Seg :=
  let l := s.fibChain pa
  match r with
  | .header => []
  | .key k => l.take 1 ++ (l.drop 1).takeWhile (fun g => decide (g.lo ≤ k))
  | .scan c => l.take ((l.takeWhile (fun g => !g.ents.any (aboveCursor c))).length + 1)
  | .chain => l

/-- Whether a header's attributes are admitted (R333); an attribute word with a bit set that R332 holds at zero is not (log 70). -/
def FHdr.admitted (h : FHdr) : Bool := h.attr / 2 ^ 26 % 32 == 0 && h.attr / 64 % 2 == 0 && fibAdmitted h.vfmt h.comb h.dz

/-- A lasting memory error in the header's row or in a segment that the operation meets (R343). -/
def State.fibDamaged (s : State) (pa : Nat) (r : FibReach) : Bool :=
  s.wordsBad (pa / 1024 * 1024) 1024 || (s.fibMeets pa r).any (fun g => s.wordsBad (rowPa (paStack pa) g.row) 1024)

/-- The checks of a header in order (R346), after `fibMark`; `fmt` is a merge's input format, `badOk` admits a BAD fibre. -/
def State.fibCheck (s : State) (pa tenant : Nat) (fmt : Option (BitVec 4)) (badOk : Bool) : Option Nat :=
  let h := s.fhdr pa
  if s.stackGone (paStack pa) then some 5
  else if h.live = false then some 2
  else if h.tenant ≠ tenant then some 3
  else if h.admitted = false then some 4
  else if (match fmt with | some f => !fibInputOk h.vfmt f | none => false) then some 4
  else if badOk = false ∧ h.bad then some 5
  else none

/-- An operation reads the rows of the header and of the segments that it meets (R321). -/
def State.fibOpen (pa : Nat) (r : FibReach) (s : State) : State :=
  (s.fibMeets pa r).foldl (fun t g => t.openRow (rowPa (paStack pa) g.row)) (s.openRow pa)

/-- An operation meets a fibre at its home: the rows that it reads open; a damaged fibre is marked BAD by the operation that meets the error, live
or not (R343). -/
def State.fibMark (pa : Nat) (r : FibReach) (s : State) : State :=
  let h := s.fhdr pa
  if s.stackGone (paStack pa) then s
  else if !h.bad ∧ s.fibDamaged pa r then (s.fibOpen pa r).setFhdr pa { h with attr := h.attr + 128 }
  else s.fibOpen pa r

/-- One scan step (R341): the entries above the cursor of the segment with the least key above it; none at the end. -/
def State.scanStep (s : State) (pa : Nat) (cursor : Option Nat) : List (W32 × W32) :=
  match (s.fibChain pa).find? (fun g => g.ents.any (aboveCursor cursor)) with
  | some g => g.ents.filter (aboveCursor cursor)
  | none => []

/-- A probe (R340). -/
def State.fibProbe (s : State) (pa : Nat) (k : W32) : Option W32 :=
  (((s.fibChain pa).flatMap (fun g => g.ents)).find? (fun e => e.1 == k)).map (fun e => e.2)

/-- Return every segment row and clear the counters (R351). -/
def State.fibClear (pa : Nat) (s : State) : State :=
  let h := s.fhdr pa
  let t := (s.fibChain pa).foldl (fun u g => u.poolFree (paStack pa) h.pool g.row) s
  t.setFhdr pa { attr := if h.bad then h.attr - 128 else h.attr, pool := h.pool }

/-! ### Posted operations (R348, R349, R353) -/

/-- The queue of an issuer at a home. -/
def Die.fibQueue (d : Die) (issuer : Nat) : List FibOp := Map.get [] d.fibq issuer
def Die.setFibQueue (issuer : Nat) (l : List FibOp) (d : Die) : Die := { d with fibq := Map.put [] d.fibq issuer l }

/-- Post an operation to the home of a header. -/
def State.postFib (issuer : Nat) (o : FibOp) (s : State) : State :=
  s.modDieAt (paStack o.hdr) (fun d => d.setFibQueue issuer (d.fibQueue issuer ++ [o]))

/-- Change a task's core, on the core or in its saved context. -/
def State.modTaskCore (n : Nat) (f : Core → Core) (s : State) : State :=
  match s.coreOfTask n with
  | some c => s.modCoreAt c f
  | none => s.modTask n (fun t =>
      match t.saved with
      | some v => { t with saved := some { v with core := f v.core } }
      | none => t)

/-- TVAL of a fibre trap (R347). -/
def fibValue (va : Word) (reason : Nat) : Word := BitVec.ofNat 64 (va.toNat / 64 * 64 + reason)

/-- Its cause (R347). -/
def fibCause (reason : Nat) : Nat := if reason = 1 then causePool else causeProt

/-- Change a started stream. -/
def Core.modStream (e k : Nat) (f : Stream → Stream) (c : Core) : Core :=
  let g := Map.get {} c.engines e
  match Map.find g.slots k with
  | some t => { c with engines := Map.set c.engines e { g with slots := Map.set g.slots k (f t) } }
  | none => c

/-- An operation at a receive agent is performed, or has failed with a CODE (R412, R420). -/
def State.arrivalDone (id code : Nat) (s : State) : State :=
  { s with pkg := { s.pkg with arriving := s.pkg.arriving.map (fun a => if a.id = id then { a with done := some code } else a) } }

/-- Whether a merge is of a stream: both carry its acceptance number. A stream that took a cancelled one's slot has another. -/
def FibOp.ofStream (o : FibOp) (t : Stream) : Bool := o.seq == t.cmd.hasp.order

/-- A merge of a stream has been applied: the stream counts it (R294, R359). -/
def State.countMerge (o : FibOp) (s : State) : State :=
  match o.stream with
  | some (e, k) => s.modTaskCore o.task (Core.modStream e k (fun t => if o.ofStream t then { t with merges := t.merges + 1 } else t))
  | none => s

/-- A failing stream's later merges are discarded (R361). -/
def Die.dropIssuer (issuer : Nat) (o : FibOp) (d : Die) : Die :=
  if o.stream.isSome then d.setFibQueue issuer ((d.fibQueue issuer).filter (fun q => q.seq != o.seq)) else d

/-- A failing operation of a task is reported to its core, or raised in its saved context, which takes the trap at its first boundary (R348,
R349). -/
def State.failPosted (task reason : Nat) (va : Word) (s : State) : State :=
  match s.coreOfTask task with
  | some c => s.modCoreAt c (fun c => { c with postFails := c.postFails ++ [(fibCause reason, fibValue va reason)] })
  | none => s.modTaskCore task (fun c => { c with asyncs := c.asyncs ++ [{ cause := fibCause reason, value := fibValue va reason, fibre := true }] })

/-- What a failing operation does: a task's own is reported to it (R349), a remote one to its flow (R420), a stream's cancels the stream
(R361). -/
def State.fibFail (o : FibOp) (va : Word) (reason : Nat) (s : State) : State :=
  match o.flow, o.stream with
  | some id, _ => s.arrivalDone id (if reason = 1 then 3 else 4)
  | none, none => s.failPosted o.task reason va
  | none, some (e, k) => s.modTaskCore o.task (Core.modStream e k (fun t => if o.ofStream t then { t with failed := some reason } else t))

/-- Whether operations of a task to a fibre, posted before sequence number `before`, are still queued (R339). -/
def State.fibPending (s : State) (task hdr before : Nat) : Bool :=
  s.dies.any (fun d => d.2.fibq.any (fun q => q.2.any (fun o =>
    o.task == task && o.stream == none && o.flow == none && o.hdr == hdr && decide (o.seq < before))))

/-- Whether such operations use a fibre, as their destination or as a source still to be scanned (R353, R360). -/
def State.fibUsed (s : State) (task hdr before : Nat) : Bool :=
  s.fibPending task hdr before || s.dies.any (fun d => d.2.fibq.any (fun q => q.2.any (fun o =>
    o.task == task && o.stream == none && o.flow == none && o.kind == 1 && !o.scanned && o.src == hdr && decide (o.seq < before))))

/-- The checks of a posted operation at a header (R346): an issuer's core that no link joins to the home any more fails as a lasting memory error
does (R393; DEDUCED, log 117). A flow's operation comes from its receive agent. -/
def State.postedCheck (s : State) (o : FibOp) (pa : Nat) (fmt : Option (BitVec 4)) : Option Nat :=
  if o.flow.isNone ∧ s.reaches (o.core / 256) (paStack pa) = false then some 5 else s.fibCheck pa o.tenant fmt false

/-- The source formats that a destination takes in FMRGF (R353). -/
def fmrgfOk (src dst : Nat) : Bool :=
  if dst = 3 then true else if dst = 0 then src == 0 else src == 1 || src == 2

/-- The input format under which FMRGF hands a source's value to MergeEntry (R353). -/
def fmrgfFmt (dst : Nat) : BitVec 4 := if dst = 0 then 0 else 0xC

/-- The scan step of an FMRGF at the head of an issuer's queue (R341, R353): after the issuer's earlier merges to the source, and its earlier
operations on the destination, those that read it among them. -/
def fmrgfScan (issuer : Nat) (s : State) : Out :=
  match s.die.fibQueue issuer with
  | [] => .next s
  | o :: rest =>
    if o.kind ≠ 1 ∨ o.scanned ∨ o.buffer ≠ [] ∨ s.fibPending o.task o.src o.seq ∨ s.fibUsed o.task o.hdr o.seq then .next s
    else
      let pop := fun (t : State) => t.modDie (fun d => d.setFibQueue issuer rest)
      let u := (s.fibMark o.hdr .header).fibMark o.src (.scan o.cursor)
      match u.postedCheck o o.hdr none, u.postedCheck o o.src none with
      | some r, _ => .next ((pop u).fibFail o o.va r)
      | none, some r => .next ((pop u).fibFail o o.srcVa r)
      | none, none =>
        if fmrgfOk (u.fhdr o.src).vfmt (u.fhdr o.hdr).vfmt = false then .next ((pop u).fibFail o o.va 4)
        else
          match u.scanStep o.src o.cursor with
          | [] => .next (u.modDie (fun d => d.setFibQueue issuer ({ o with scanned := true } :: rest)))
          | es =>
            let last := ((es.getLast?).map (fun e => e.1.toNat))
            .next (u.modDie (fun d => d.setFibQueue issuer ({ o with buffer := es, cursor := last, srcFmt := (u.fhdr o.src).vfmt } :: rest)))

/-- ACCEPTANCE_NOTICE (R348): a posted operation has entered its home's queue. -/
def execAcceptanceNotice (s : State) : Out :=
  if s.core.posted = 0 then .next s else .next (s.modCore (fun c => { c with posted := c.posted - 1 }))

/-- POSTED_FAILURE (R349): the core raises a reported failure as its own asynchronous trap. -/
def execPostedFailure (s : State) : Out :=
  match s.core.postFails with
  | [] => .next s
  | f :: rest =>
    .next (s.modCore (fun c => { c with postFails := rest, asyncs := c.asyncs ++ [{ cause := f.1, value := f.2, fibre := true }] }))

/-! ### Checks at issue (R346) -/

/-- The page checks of a header at issue (R346): PROT with reason 0 without translation, right or FIB; reason 5 for a home out of reach
(R393, R402). -/
def guardFibRef (va : Word) (write : Bool) (s : State) (k : Nat → State → Out) : Out :=
  if canonical va = false then trap causeProt (fibValue va 0) s
  else match s.translate s.core.proc (if write then 1 else 0) true (va57 va) with
    | .frame pa e => if s.stackGone (paStack pa) then trap causeProt (fibValue va 5) s else k pa (s.touch e write)
    | _ => trap causeProt (fibValue va 0) s

/-- A header address that is not a multiple of 64 traps ALIGN (R346). -/
def guardHdrAlign (va : Word) (s : State) (k : State → Out) : Out := if va.toNat % 64 ≠ 0 then trap causeAlign va s else k s

/-- A key register with bits above 31 or the reserved key traps PROT with reason 6 (R346). -/
def guardKey (va key : Word) (s : State) (k : State → Out) : Out :=
  if 0xFFFFFFFF ≤ key.toNat then trap causeProt (fibValue va 6) s else k s

/-- A fibre instruction waits at issue while a failure of a posted operation waits to be raised and taken (R349); one that waits for its
home's reply has issued (R356). -/
def guardPosted (s : State) (k : State → Out) : Out :=
  if s.core.wait = .reply then k (s.modCore (fun c => { c with wait := .none }))
  else if s.core.postFails ≠ [] ∨ s.core.asyncs.any (fun a => a.fibre) then pause s else k s

/-- A home's refusal as a synchronous trap (R347). -/
def fibTrap (va : Word) (reason : Nat) (s : State) : Out := trap (fibCause reason) (fibValue va reason) s

/-- An operation that waits for its home's reply, which comes after the thread's earlier operations on the fibre (R339); nothing abandons the
wait (R356). -/
def fibWait (hdr : Nat) (r : FibReach) (s : State) (k : State → Out) : Out :=
  if s.fibPending s.taskNum hdr s.core.accepted then pause (s.modCore (fun c => { c with wait := .reply })) else k (s.fibMark hdr r)

/-! ### The instructions -/

/-- FNEW (R350): a live, empty fibre with the attribute word's fields; BAD of the header, or damage in its row, fails it (R343, R346). -/
def execFnew (a b : Reg) (s : State) : Out :=
  guardExact [a, b] s (fun s => guardPosted s (fun s => guardHdrAlign (s.reg a) s (fun s =>
    guardFibRef (s.reg a) true s (fun pa s => fibWait pa .header s (fun s =>
      let w := (s.reg b).toNat
      let pool := w / 2 ^ 32 % 2 ^ 16
      if (s.fhdr pa).live then fibTrap (s.reg a) 7 s
      else if (match Map.find (s.dieAt (paStack pa)).pools pool with | some p => p.tenant != s.core.tenant | none => true) then
        fibTrap (s.reg a) 7 s
      else if w / 2 ^ 48 ≠ 0 ∨ w / 2 ^ 20 % 2 ^ 12 ≠ 0 ∨ w / 64 % 4 ≠ 0 ∨ fibAdmitted (w % 4) (w / 4 % 8) (w / 32 % 2 == 1) = false then
        fibTrap (s.reg a) 4 s
      else if (s.fhdr pa).bad then fibTrap (s.reg a) 5 s
      else
        .next ((s.setFhdr pa { attr := 2 ^ 31 + s.core.tenant % 64 * 2 ^ 20 + w % 2 ^ 20, pool := pool }).finish 4))))))

/-- FFREE (R351): every row returns to the pool and the header is dead. One that itself meets a lasting error first applies nothing (R343). -/
def execFfree (a : Reg) (s : State) : Out :=
  guardExact [a] s (fun s => guardPosted s (fun s => guardHdrAlign (s.reg a) s (fun s =>
    guardFibRef (s.reg a) true s (fun pa s => let bad := (s.fhdr pa).bad; fibWait pa .chain s (fun s =>
      match s.fibCheck pa s.core.tenant none bad with
      | some r => fibTrap (s.reg a) r s
      | none => .next (((s.fibClear pa).setMem pa (List.replicate 64 0)).finish 4))))))

/-- FCLR (R351): every entry goes, the attributes stay. One that itself meets a lasting error first applies nothing (R343). -/
def execFclr (a : Reg) (s : State) : Out :=
  guardExact [a] s (fun s => guardPosted s (fun s => guardHdrAlign (s.reg a) s (fun s =>
    guardFibRef (s.reg a) true s (fun pa s => let bad := (s.fhdr pa).bad; fibWait pa .chain s (fun s =>
      match s.fibCheck pa s.core.tenant none bad with
      | some r => fibTrap (s.reg a) r s
      | none => .next ((s.fibClear pa).finish 4))))))

/-- FPROBE's result (R354). -/
def probeResult : Option W32 → Word
  | some v => BitVec.ofNat 64 (2 ^ 32 + v.toNat)
  | none => 0

/-- FPROBE (R354). -/
def execFprobe (d a b : Reg) (s : State) : Out :=
  guardExact [a, b] s (fun s => guardPosted s (fun s => guardHdrAlign (s.reg a) s (fun s =>
    guardFibRef (s.reg a) false s (fun pa s => guardKey (s.reg a) (s.reg b) s (fun s => fibWait pa (.key (s.reg b).toNat) s (fun s =>
      match s.fibCheck pa s.core.tenant none false with
      | some r => fibTrap (s.reg a) r s
      | none => .next ((s.setReg d (probeResult (s.fibProbe pa (lowWord (s.reg b)))) false).finish 4)))))))

/-- FSTAT (R355): the 8-byte header word at g[a]. Of the home's checks it passes over the first and the fourth, and over all of a header that is
not live (R346, R355). -/
def execFstat (d a : Reg) (s : State) : Out :=
  guardExact [a] s (fun s => guardPosted s (fun s =>
    if (s.reg a).toNat % 8 ≠ 0 then trap causeAlign (s.reg a) s
    else guardFibRef (s.reg a) false s (fun pa s => fibWait (pa / 64 * 64) .header s (fun s =>
      let h := s.fhdr (pa / 64 * 64)
      if h.live ∧ h.tenant ≠ s.core.tenant then fibTrap (s.reg a) 3 s
      else if h.live ∧ h.admitted = false then fibTrap (s.reg a) 4 s
      else .next ((s.setReg d (BitVec.ofNat 64 (if 0x30 ≤ pa % 64 then 0 else s.memNat pa 8)) false).finish 4)))))

/-- Post an operation of the thread (R348): at most 16 not yet accepted. -/
def postOwn (o : FibOp) (s : State) : Out :=
  if 16 ≤ s.core.posted then stall s
  else
    let p := { o with proc := s.core.proc, core := s.core.id, task := s.taskNum, tenant := s.core.tenant, seq := s.core.accepted }
    .next (((s.postFib s.taskNum p).modCore (fun c => { c with posted := c.posted + 1, accepted := c.accepted + 1 })).finish 4)

/-- FMERGE (R352): posted; the value is read from g[d] in the form's format. -/
def execFmerge (a b d : Reg) (fmt : BitVec 4) (s : State) : Out :=
  guardWf (.fmerge a b d fmt) s (fun s => guardExact [a, b, d] s (fun s => guardPosted s (fun s =>
    guardHdrAlign (s.reg a) s (fun s => guardFibRef (s.reg a) true s (fun pa s => guardKey (s.reg a) (s.reg b) s (fun s =>
      postOwn { kind := 0, va := s.reg a, hdr := pa, key := lowWord (s.reg b), val := lowWord (s.reg d), fmt := fmt } s))))))

/-- FMRGF (R353): posted; one header as both destination and source fails with reason 4. -/
def execFmrgf (a b : Reg) (s : State) : Out :=
  guardExact [a, b] s (fun s => guardPosted s (fun s => guardHdrAlign (s.reg a) s (fun s => guardHdrAlign (s.reg b) s (fun s =>
    guardFibRef (s.reg a) true s (fun pa s => guardFibRef (s.reg b) false s (fun pb s =>
      if pa = pb then trap causeProt (fibValue (s.reg a) 4) s
      else postOwn { kind := 1, va := s.reg a, hdr := pa, srcVa := s.reg b, src := pb } s))))))

end Sys2Proof.Machine
end

