-- ==== Sys2Proof/Machine/Pages.lean ====
section
/-! DEFINITION. The page instructions (spec/17_fibre_instructions.md R362, R363): the mapped pages of a range, PDISCARD, PHINT. -/

namespace Sys2Proof.Machine

/-- Bytes that one entry of a table covers, and entries of a table (R322). -/
def entrySpan (level : Nat) : Nat := if level = 0 then 65536 else 2 ^ (12 + 9 * level)
def entryCount (level : Nat) : Nat := if level = 0 then 32 else 512

/-- Whether [va, va + size), canonical, meets [lo, hi). -/
def meets (va size lo hi : Nat) : Bool := decide (wideVa va < hi) && decide (lo < wideVa va + size)

/-- The well-formed leaves with V = 1 below a table that meet [lo, hi), in ascending address order (R322). -/
def leavesFrom (ptes : Map Word) (proc lo hi : Nat) : Nat → Nat → Nat → List TlbEntry
  | level, base, table =>
    (List.range (entryCount level)).flatMap (fun i =>
      let va := base + i * entrySpan level
      let pa := table + 8 * i
      let e := Map.get 0 ptes (pa / 8)
      if meets va (entrySpan level) lo hi = false ∨ pteV e = false then []
      else if pteL e then
        if leafOk e level then [{ proc := proc, va := va, size := leafSize level, pte := e, ptePa := pa }] else []
      else if tableOk e level then
        match level with
        | 0 => []
        | l + 1 => leavesFrom ptes proc lo hi l va (pteTable e)
      else [])

/-- The mapped pages of a process that meet [lo, hi). -/
def State.leaves (s : State) (proc lo hi : Nat) : List TlbEntry :=
  match Map.find s.procs proc with
  | some p => leavesFrom s.ptes proc lo hi 4 0 p.root
  | none => []

/-- The entries that the walks of [lo, hi) read, each with the address that it translates (R322). -/
def entriesFrom (ptes : Map Word) (lo hi : Nat) : Nat → Nat → Nat → List (Nat × Nat)
  | level, base, table =>
    (List.range (entryCount level)).flatMap (fun i =>
      let va := base + i * entrySpan level
      let pa := table + 8 * i
      let e := Map.get 0 ptes (pa / 8)
      if meets va (entrySpan level) lo hi = false then []
      else (va, pa) :: (match level with
        | 0 => []
        | l + 1 => if pteV e && !pteL e && tableOk e level then entriesFrom ptes lo hi l va (pteTable e) else []))

/-- The first address of [lo, hi) whose tables the core cannot read: a lasting memory error, or a stack out of reach (R320, R393, R402). -/
def State.tableBad (s : State) (proc lo hi : Nat) : Option Word :=
  match Map.find s.procs proc with
  | none => none
  | some p => ((entriesFrom s.ptes lo hi 4 0 p.root).find? (fun x => s.memBad x.2 8)).map (fun x => BitVec.ofNat 64 (max lo (wideVa x.1)))

/-! ### PDISCARD -/

/-- Whether a mapped page refuses a discard of [lo, hi) (R362): only part of it is covered, no write right, a fibre page. -/
def discardRefused (lo hi : Nat) (e : TlbEntry) : Bool :=
  decide (wideVa e.va < lo) || decide (hi < wideVa e.va + e.size) || !pteW e.pte || pteFib e.pte

/-- The address of the first page that a discard's checks refuse (R362). -/
def State.discardCheck (s : State) (lo hi : Nat) : Option Word :=
  if canonical (BitVec.ofNat 64 lo) = false then some (BitVec.ofNat 64 lo)
  else match (s.leaves s.core.proc lo hi).find? (discardRefused lo hi) with
    | some e => some (BitVec.ofNat 64 (wideVa e.va))
    | none =>
      if lo < 2 ^ 56 then (if hi ≤ 2 ^ 56 then none else some (BitVec.ofNat 64 (2 ^ 56)))
      else if hi ≤ 2 ^ 64 then none else some 0

/-- A page's entry after its discard (R362): none where nothing changes. A SWAPPED page's ZERO entry names its copy's stack. -/
def discardPte (e : TlbEntry) : Option Word :=
  match pteState e.pte with
  | 0 => some (pteSetState e.pte 4)
  | 2 => some (pteSetFrame (pteSetState e.pte 1) (paStack (pteFrame e.pte) * 2 ^ 37))
  | _ => none

/-- Whether an accepted command's acquire or release, not yet performed, names a hasp in a frame (R281): Hythen leaves the page alone until
then, so that its home never meets a page that is not PRESENT. -/
def CmdHasp.inFrame (frame size : Nat) (h : CmdHasp) : Bool := (h.acq || h.rel) && decide (frame ≤ h.hid) && decide (h.hid < frame + size)
def Copy.haspIn (frame size : Nat) (x : Copy) : Bool := x.hasp.inFrame frame size || x.mcmd.any (fun m => m.hasp.inFrame frame size)
def Core.haspIn (frame size : Nat) (c : Core) : Bool :=
  c.engines.any (fun e => e.2.queue.any (fun q => q.hasp.inFrame frame size) || e.2.slots.any (fun t => t.2.cmd.hasp.inFrame frame size) ||
    e.2.ending.any (fun t => t.cmd.hasp.inFrame frame size)) ||
  c.chans.any (fun e => e.2.queue.any (Copy.haspIn frame size)) ||
  c.flights.any (fun x => decide (frame ≤ x.hid) && decide (x.hid < frame + size))
def Cluster.haspIn (frame size : Nat) (k : Cluster) : Bool :=
  k.mstreams.any (fun e => e.2.any (fun m => m.hasp.inFrame frame size)) || k.arrays.any (fun e => e.2.queue.any (fun x => x.hasp.inFrame frame size))
def State.haspBusy (s : State) (frame size : Nat) : Bool :=
  s.core.haspIn frame size || s.others.any (fun e => e.2.haspIn frame size) || s.clusters.any (fun e => e.2.haspIn frame size) ||
  s.tasks.any (fun t => t.2.saved.any (fun v => v.core.haspIn frame size || v.mstreams.any (fun l => l.any (fun m => m.hasp.inFrame frame size))))

/-- Mark the progress of a PDISCARD: the pages below an address are done. -/
def discardUpTo (a : Nat) (s : State) : State := s.modCore (fun c => { c with wait := .pages a })

/-- One page of a PDISCARD in ascending order, or its end: it waits for a migration, for the hasp operations under way in the page (R281), and
for every invalidation (R362). -/
def discardStep (lo hi done : Nat) (s : State) : Out :=
  match (s.leaves s.core.proc lo hi).find? (fun e => decide (done ≤ wideVa e.va)) with
  | some e =>
    if pteState e.pte = 3 ∨ (pteState e.pte = 0 ∧ s.haspBusy (pteFrame e.pte) e.size) then pause (discardUpTo done s)
    else
      let t := discardUpTo (wideVa e.va + e.size) s
      match discardPte e with
      | some p => pause (t.setPte s.core.proc e p)
      | none => pause t
  | none =>
    if s.pkg.unacked.any (fun u => u.1 == s.core.proc && meets u.2.1 u.2.2 lo hi) then pause (discardUpTo done s)
    else .next (s.finish 4)

/-- PDISCARD (R362, R356): its checks over the whole range first, then page by page. Tables that cannot be read fail it as they fail an access
(R328, R393, R402). -/
def execPdiscard (a b : Reg) (s : State) : Out :=
  guardExact [a, b] s (fun s =>
    let lo := (s.reg a).toNat
    let hi := lo + (s.reg b).toNat
    if lo % 65536 ≠ 0 then trap causeAlign (s.reg a) s
    else if (s.reg b).toNat % 65536 ≠ 0 then trap causeAlign (s.reg b) s
    else if (s.reg b).toNat = 0 then .next (s.finish 4)
    else
      let done := match s.core.wait with
        | .pages a => a
        | _ => lo
      match s.tableBad s.core.proc done hi with
      | some va => threadFails .thread va 1 4 s
      | none => match s.core.wait with
        | .pages _ => discardStep lo hi done s
        | _ =>
          match s.discardCheck lo hi with
          | some va => trap causeProt va s
          | none => discardStep lo hi lo s)

/-! ### PHINT -/

/-- The pages a hint names, widened to whole pages; unmapped, unreadable and fibre pages are ignored (R363), and so is a page whose tables the core
cannot read. -/
def State.hinted (s : State) (a b : Word) : List TlbEntry :=
  if b.toNat = 0 then []
  else (s.leaves s.core.proc a.toNat (a.toNat + b.toNat)).filter (fun e => pteR e.pte && !pteFib e.pte && !s.walkBad e.proc e.va)

/-- A hint (R363): exact registers, an effect, one cycle. -/
def hintOp (a b : Reg) (f : List TlbEntry → State → State) (s : State) : Out :=
  guardExact [a, b] s (fun s => .next ((f (s.hinted (s.reg a) (s.reg b)) s).finish 4))

/-- PHINT.TLB (R363): walks bring PRESENT and DISCARDED leaves into the last-level TLB of the core's stack (R325). -/
def execPhintTlb (a b : Reg) (s : State) : Out :=
  hintOp a b (fun es s =>
    (es.filter (fun e =>
      (pteState e.pte == 0 || pteState e.pte == 4) && (tlbFind s.die.tlb e.proc e.va).isNone)).foldl
        (fun t e => t.walkIn e) s) s

/-- A hint's fault for a page (R363): a token for its serving pager, which no unit waits for; where that pager holds its 256 tokens, the core keeps
the fault pending until a slot frees (R327). A pager that no path reaches gets none (R393, R402). -/
def State.hintFault (s : State) (e : TlbEntry) : State :=
  let f : FaultTok := { proc := e.proc, va := e.va, core := s.core.id, unit := .hint }
  let k := paStack (pteFrame e.pte)
  if s.stackGone k then s
  else if (s.dieAt k).pager.length < 256 then s.modDieAt k (fun d => { d with pager := d.pager ++ [f] })
  else s.modCore (fun c => { c with faults := c.faults ++ [f] })

/-- PHINT.FILL (R363): ZERO and SWAPPED pages become faults that the pager resolves. -/
def execPhintFill (a b : Reg) (s : State) : Out :=
  hintOp a b (fun es s =>
    (es.filter (fun e => pteState e.pte == 1 || pteState e.pte == 2)).foldl State.hintFault s) s

/-- Record a hint for Hythen: process, page, size, kind (2 COLD, 3 NEAR), the core's stack. -/
def hintHythen (kind : Nat) (es : List TlbEntry) (s : State) : State :=
  { s with pkg := { s.pkg with hints := s.pkg.hints ++ es.map (fun e => (e.proc, e.va, e.size, kind, s.core.stack)) } }

/-- PHINT.COLD (R363). -/
def execPhintCold (a b : Reg) (s : State) : Out := hintOp a b (hintHythen 2) s

/-- PHINT.NEAR (R363). -/
def execPhintNear (a b : Reg) (s : State) : Out := hintOp a b (hintHythen 3) s

end Sys2Proof.Machine
end

