-- ==== Sys2Proof/Machine/Streams.lean ====
section
/-! DEFINITION. Pattern records (spec/08_stream_instructions.md R189 to R191, R357), the hasp flags of a command at issue (R281, R294),
and the stream instructions SRD, SWR, SIND, PWAIT, SSTAT (R198, R201, R202). -/

namespace Sys2Proof.Machine

/-! ### Hasp flags at issue -/

/-- The exact-only registers of a command's hasp flags (R185). -/
def flagRegs (f : HaspFlags) : List Reg := if f.acq || f.rel then [f.hr] else []

/-- ALIGN of the hasp reference of a command that sets ACQ or REL (R281). -/
def guardFlagAlign (f : HaspFlags) (s : State) (k : State → Out) : Out :=
  if f.acq || f.rel then guardHaspAlign (s.reg f.hr) s k else k s

/-- The hasp of a command's flags as the command carries it (R281, R294). -/
def guardFlags (f : HaspFlags) (s : State) (k : CmdHasp → State → Out) : Out :=
  if f.acq || f.rel then
    guardHaspRef (s.reg f.hr) s (fun hid t =>
      k { ref := s.reg f.hr, hid := hid, acq := f.acq, rel := f.rel, order := t.core.accepted } t)
  else k { order := s.core.accepted } s

/-! ### The pattern record -/

/-- A record's fields from its 64 bytes (R189). -/
def patternOf (addr : Word) (bs : List Byte) : Pattern :=
  let f := fun o n => leValue ((bs.drop o).take n)
  let w := fun o => BitVec.ofNat 32 (f o 4)
  { addr := addr, base := BitVec.ofNat 64 (f 0 8), xbase := BitVec.ofNat 64 (f 8 8),
    lens := [f 0x10 4, f 0x18 4, f 0x20 4, f 0x28 4], strs := [w 0x14, w 0x1C, w 0x24, w 0x2C],
    ctrl := w 0x30, aux := w 0x34, idx := w 0x38, iscale := w 0x3C }

/-- Fields of CTRL (R190). -/
def Pattern.space (p : Pattern) : BitVec 3 := p.ctrl.extractLsb' 0 3
def Pattern.fmt (p : Pattern) : BitVec 4 := p.ctrl.extractLsb' 3 4
def Pattern.est (p : Pattern) : Bool := p.ctrl.getLsbD 7
def Pattern.ndm (p : Pattern) : Nat := p.ctrl.toNat / 2 ^ 8 % 4
def Pattern.sbp (p : Pattern) : Nat := p.ctrl.toNat / 2 ^ 10 % 4
def Pattern.etm (p : Pattern) : Bool := p.ctrl.getLsbD 12
def Pattern.kind (p : Pattern) : Nat := p.ctrl.toNat / 2 ^ 13 % 8

/-- The number of dimensions inside a row (R190). -/
def Pattern.rho (p : Pattern) : Nat := if p.sbp = 0 then 1 else if p.sbp = 2 then min 2 (p.ndm + 1) else p.ndm + 1

/-- LENk and STRk; the size of an access of the record's positions: 4 for PROBE (R357). -/
def Pattern.len (p : Pattern) (k : Nat) : Nat := p.lens.getD k 0
def Pattern.str (p : Pattern) (k : Nat) : Int := (p.strs.getD k 0).toInt
def Pattern.size (p : Pattern) : Nat := if p.kind = 3 then 4 else fmtSize p.fmt

/-- Fields of IDX for IND (R189) and for the fibre kinds (R357). -/
def Pattern.pfd (p : Pattern) : Nat := p.idx.toNat / 16 % 256
def Pattern.ifmt (p : Pattern) : Nat := p.idx.toNat % 16
def Pattern.fibRm (p : Pattern) : BitVec 3 := p.idx.extractLsb' 4 3
def Pattern.fibSat (p : Pattern) : Bool := p.idx.getLsbD 7
def Pattern.emit (p : Pattern) : Nat := p.idx.toNat % 4

/-- The kinds that a stream instruction admits by its SUB: 0 SRD, 1 SWR, 2 SIND (R190, R198). -/
def kindAdmitted (sub kind : Nat) : Bool :=
  if sub = 0 then kind == 0 || kind == 2 || kind == 3 else if sub = 1 then kind == 0 || kind == 4 else kind == 1

/-- Refusals of CTRL (R190, R197, R357). -/
def Pattern.ctrlBad (p : Pattern) (sub : Nat) : Bool :=
  let k := p.kind
  let f := p.fmt.toNat
  decide (p.ctrl.toNat / 2 ^ 16 ≠ 0) || !(p.space == 0 || p.space == 1 || p.space == 3 || p.space == 4) ||
  f == 9 || decide (13 ≤ f) || p.sbp == 3 || (p.etm && p.rho == p.ndm + 1) || !kindAdmitted sub k ||
  (k != 0 && f == 5) || (k == 1 && p.space != 0) ||
  ((k == 2 || k == 4) && (p.space != 0 || p.ndm != 0 || p.sbp != 1)) || (k == 4 && !mergeCode p.fmt)

/-- Refusals of IDX (R189, R197, R357). -/
def Pattern.idxBad (p : Pattern) : Bool :=
  let k := p.kind
  let v := p.idx.toNat
  if k = 1 then decide (v / 2 ^ 12 ≠ 0) || p.pfd == 0 || !(p.ifmt == 8 || p.ifmt == 12)
  else if k = 2 ∨ k = 3 then decide (v / 2 ^ 8 ≠ 0) || decide (4 < p.fibRm.toNat) || decide (v / 4 % 4 ≠ 0) || (k == 3 && p.emit != 0)
  else v != 0

/-- Whether a dimension's fields must be zero (R190, R357). -/
def Pattern.dimUnused (p : Pattern) (k : Nat) : Bool := p.kind == 2 || p.kind == 4 || decide (p.ndm < k)

/-- The byte offsets of the refused fields, ascending (R191 rule 3, R217). -/
def Pattern.refused (p : Pattern) (sub : Nat) : List Nat :=
  (if p.xbase ≠ 0 ∧ (4 ≤ p.kind ∨ (p.kind = 0 ∧ p.fmt ≠ 5)) then [8] else []) ++
  (List.range 4).flatMap (fun k =>
    if p.dimUnused k then
      (if p.len k ≠ 0 then [0x10 + 8 * k] else []) ++ (if p.str k ≠ 0 then [0x14 + 8 * k] else [])
    else []) ++
  (if p.ctrlBad sub then [0x30] else []) ++ (if p.aux ≠ 0 ∧ p.kind ≠ 3 then [0x34] else []) ++
  (if p.idxBad then [0x38] else []) ++ (if p.iscale ≠ 0 ∧ p.kind ≠ 1 then [0x3C] else [])

/-- The first value that is not aligned (R191 rule 4, R197, R357). -/
def Pattern.misaligned (p : Pattern) : Option Word :=
  let n := p.size
  let fib := p.kind == 2 || p.kind == 4
  let strWord := fun k => (p.strs.getD k 0).signExtend 64
  if p.base.toNat % (if fib then 64 else if p.kind = 0 ∧ p.fmt = 5 then 32 else n) ≠ 0 then some p.base
  else match (List.range (p.ndm + 1)).find? (fun k =>
      !fib && (decide ((strWord k).toNat % n ≠ 0) || (p.kind == 1 && decide (1 ≤ k) && decide ((strWord k).toNat % 4 ≠ 0)))) with
    | some k => some (strWord k)
    | none =>
      let m := if p.kind = 1 then 4 else if p.kind = 3 then 64 else if p.kind = 0 ∧ p.fmt = 5 then 2 else 1
      if p.xbase.toNat % m ≠ 0 then some p.xbase else none

/-- The lowest and the highest byte that the positions of a dense pattern address (R191 rule 5, R192). -/
def Pattern.span (p : Pattern) : Int × Int :=
  let term := fun k => ((p.len k : Int) - 1) * p.str k
  let ks := List.range (p.ndm + 1)
  ((p.base.toNat : Int) + (ks.map (fun k => min 0 (term k))).sum,
   (p.base.toNat : Int) + (ks.map (fun k => max 0 (term k))).sum + p.size - 1)

/-- Whether the pattern has no positions. -/
def Pattern.noPositions (p : Pattern) : Bool := (List.range (p.ndm + 1)).any (fun k => p.len k == 0)

/-- The exponent halfwords of a span of a bx32 pattern (R194): lowest and highest byte. -/
def Pattern.expSpan (p : Pattern) : Int × Int :=
  let b := (p.base.toNat : Int)
  ((p.xbase.toNat : Int) + 2 * ((p.span.1 - b) / 32), (p.xbase.toNat : Int) + 2 * ((p.span.2 - b) / 32) + 1)

/-- The first byte of a span outside [0, limit). -/
def outOf (limit : Nat) (sp : Int × Int) : Option Word :=
  if sp.1 < 0 ∨ (limit : Int) ≤ sp.1 then some (BitVec.ofInt 64 sp.1)
  else if (limit : Int) ≤ sp.2 then some (BitVec.ofInt 64 sp.2) else none

/-- The address that rule 5 of R191 refuses: the sign rule in mem:, the range elsewhere. -/
def State.patternProt (s : State) (p : Pattern) : Option Word :=
  if p.space = 0 then
    if canonical p.base = false then some p.base
    else if (p.kind = 1 ∨ p.kind = 3 ∨ (p.kind = 0 ∧ p.fmt = 5)) ∧ canonical p.xbase = false then some p.xbase else none
  else if p.noPositions then none
  else
    let limit := if p.space = 4 then s.core.clsz.toNat else bufSize p.space
    match outOf limit p.span with
    | some a => some a
    | none => if p.kind = 0 ∧ p.fmt = 5 then outOf limit p.expSpan else none

/-- The header of a fibre stream is translated at issue (R357): SCAN and PROBE read, MERGE writes. -/
def guardHeader (p : Pattern) (s : State) (k : State → Out) : Out :=
  if p.kind = 2 then guardFibRef p.base false s (fun _ t => k t)
  else if p.kind = 3 then guardFibRef p.xbase false s (fun _ t => k t)
  else if p.kind = 4 then guardFibRef p.base true s (fun _ t => k t)
  else k s

/-! ### Epochs -/

/-- The epoch of a command accepted now, and the plane of that epoch (R215). -/
def Fabric.nextEpoch (f : Fabric) : BitVec 32 := if f.switch.isSome then f.epoch + 1 else f.epoch
def Fabric.epochPlane (f : Fabric) : Option Nat :=
  match f.switch with
  | some w => some w.inc
  | none => f.active

/-- TVAL of CFG (R217). -/
def cfgField (plane off : Nat) : Word := BitVec.ofNat 64 (plane % 4 * 2 ^ 16 + 2 ^ 12 + off % 64)
def cfgPort (plane port : Nat) : Word := BitVec.ofNat 64 (plane % 4 * 2 ^ 16 + 3 * 2 ^ 12 + port % 32 * 64)

/-- Rule 6 of R191: the epoch has a plane, and the port, if used, has the stream's type (R199). -/
def guardPort (port : Nat) (est : Bool) (s : State) (k : State → Out) : Out :=
  match s.core.fab.epochPlane with
  | none => trap causeCfg (cfgPort s.core.fab.act port) s
  | some n =>
    let p := s.core.fab.plane n
    if p.portUsed port ∧ p.portEst port ≠ est then trap causeCfg (cfgPort n port) s else k s

/-! ### Acceptance -/

/-- An engine of the core, and changing one. -/
def Core.engine (c : Core) (e : Nat) : Engine := Map.get {} c.engines e
def Core.modEngine (e : Nat) (f : Engine → Engine) (c : Core) : Core := { c with engines := Map.set c.engines e (f (c.engine e)) }

/-- Read a record through the data cache (R191). -/
def readRecord (addr : Word) (s : State) (k : List Byte → State → Out) : Out :=
  threadAccess 0 addr s (fun x t =>
    if s.isUnitPage (va57 addr) then trap causeProt addr s
    else match x with
      | .frame pa e =>
        if t.core.dline (pa / 64) = none ∧ t.memBad pa 64 then threadFails .thread addr 0 4 s
        else
          let u := (t.touch e false).fillLine (pa / 64) (pteKey e.pte)
          k (u.peekBytes pa 64) u
      | .zeros e => k (List.replicate 64 0) (t.touch e false)
      | _ => trap causeProt addr s)

/-- Checks 3 to 7 of R191 on a record, then acceptance (R185): the command joins its engine's queue. TYPE changes nothing that the checks
before it changed (R122): it is taken in the state `before`; TVAL[4:0] names the record's register, 0 in the literal form (DESIGN CHOICE,
log 90). TVAL[17:16] of a refused field is the plane of the stream's epoch, or ACT (DESIGN CHOICE, log 18). -/
def acceptStream (len : Word) (sub e port : Nat) (reg : Reg) (h : CmdHasp) (p : Pattern) (before s : State) : Out :=
  match p.refused sub with
  | off :: _ => trap causeCfg (cfgField (s.core.fab.epochPlane.getD s.core.fab.act) off) s
  | [] =>
    match p.misaligned with
    | some v => trap causeAlign v s
    | none =>
      match s.patternProt p with
      | some a => trap causeProt a s
      | none =>
        guardHeader p s (fun s => guardPort port p.est s (fun s =>
          if sub = 1 ∧ p.est ∧ (p.space = 0 ∨ p.space = 4) then lineTrap p.base.toNat reg before
          else if 8 ≤ (s.core.engine e).queue.length then stall s
          else
            let cmd : StreamCmd := { sub := sub, port := port, pat := p, epoch := s.core.fab.nextEpoch, hasp := h }
            .next ((s.modCore (fun c =>
              { c.modEngine e (fun g => { g with queue := g.queue ++ [cmd] }) with
                accepted := c.accepted + 1, fab := { c.fab with usedEpoch := some c.fab.nextEpoch } })).finish len)))

/-- A stream instruction (R191, R198): the record's address, then the checks in order. -/
def streamOp (len : Word) (sub : Nat) (eng : BitVec 3) (port : Reg) (recs : List Reg) (addr : Word) (f : HaspFlags) (s : State) : Out :=
  guardExact (recs ++ flagRegs f) s (fun s =>
    if addr.toNat % 64 ≠ 0 then trap causeAlign addr s
    else guardFlagAlign f s (fun before => readRecord addr before (fun bs s => guardFlags f s (fun h s =>
      acceptStream len sub eng.toNat port.toNat (recs.headD 0) h (patternOf addr bs) before s))))

/-- The record address of the literal form (R198). -/
def State.recordAt (s : State) (lit : W32) : Word := s.core.pc + litInt lit

/-- SRD (R198). -/
def execSrd (eng : BitVec 3) (port recReg : Reg) (fl : HaspFlags) (s : State) : Out :=
  guardWf (.srd eng port recReg fl) s (fun s => streamOp 4 0 eng port [recReg] (s.reg recReg) fl s)

/-- SRD with a literal (R198). -/
def execSrdLit (eng : BitVec 3) (port : Reg) (lit : W32) (fl : HaspFlags) (s : State) : Out :=
  guardWf (.srdLit eng port lit fl) s (fun s => streamOp 8 0 eng port [] (s.recordAt lit) fl s)

/-- SWR (R198). -/
def execSwr (eng : BitVec 3) (port recReg : Reg) (fl : HaspFlags) (s : State) : Out :=
  guardWf (.swr eng port recReg fl) s (fun s => streamOp 4 1 eng port [recReg] (s.reg recReg) fl s)

/-- SWR with a literal (R198). -/
def execSwrLit (eng : BitVec 3) (port : Reg) (lit : W32) (fl : HaspFlags) (s : State) : Out :=
  guardWf (.swrLit eng port lit fl) s (fun s => streamOp 8 1 eng port [] (s.recordAt lit) fl s)

/-- SIND (R198, R197). -/
def execSind (eng : BitVec 3) (port recReg : Reg) (fl : HaspFlags) (s : State) : Out :=
  guardWf (.sind eng port recReg fl) s (fun s => streamOp 4 2 eng port [recReg] (s.reg recReg) fl s)

/-- SIND with a literal (R198, R197). -/
def execSindLit (eng : BitVec 3) (port : Reg) (lit : W32) (fl : HaspFlags) (s : State) : Out :=
  guardWf (.sindLit eng port lit fl) s (fun s => streamOp 8 2 eng port [] (s.recordAt lit) fl s)

/-! ### PWAIT and SSTAT -/

/-- Whether a stream on a port is accepted and not ended (R201). -/
def Core.portBusy (c : Core) (port : Nat) : Bool :=
  c.engines.any (fun e => e.2.queue.any (fun q => q.port == port) || e.2.slots.any (fun t => t.2.cmd.port == port) || e.2.ending.any (fun t => t.cmd.port == port))

/-- PWAIT (R201). -/
def execPwait (port : Reg) (s : State) : Out :=
  if s.core.portBusy port.toNat then stall s else .next (s.finish 4)

/-- A mask of the slots that `f` selects. -/
def Engine.mask (g : Engine) (f : Stream → Bool) : Nat :=
  ((List.range 4).map (fun k => match Map.find g.slots k with
    | some t => if f t then 2 ^ k else 0
    | none => 0)).sum

/-- SSTAT's three forms (R202). -/
def Fabric.ls (f : Fabric) : Nat := f.launch.toNat * 2 ^ 62
def Core.statEngine (c : Core) (e : Nat) : Word :=
  let g := c.engine e
  BitVec.ofNat 64 (c.fab.ls + g.completed % 2 ^ 32 * 2 ^ 16 + g.ovr.toNat * 2 ^ 13 + g.can.toNat * 2 ^ 12 + g.queue.length % 16 * 2 ^ 8
    + g.mask (fun t => t.fault.isSome) * 16 + g.mask (fun _ => true))
def Core.statChannel (c : Core) (n : Nat) : Word :=
  let g := Map.get {} c.chans n
  BitVec.ofNat 64 (c.fab.ls + g.completed % 2 ^ 32 * 2 ^ 16 + g.can.toNat * 32 + ((g.queue.head?).any (fun x => x.started)).toNat * 16
    + g.queue.length % 16)
def Fabric.queueLen (f : Fabric) (port : Nat) : Nat :=
  (if port < 16 then Map.get [] f.inq port else Map.get [] f.outq (port - 16)).length
/-- The port form (R202); EST reads 0 while no plane is ACTIVE (DESIGN CHOICE, log 126). -/
def Core.statPort (c : Core) (port : Nat) : Word :=
  let est := match c.fab.active with
    | some n => (c.fab.plane n).portEst port
    | none => false
  BitVec.ofNat 64 (c.fab.ls + (c.fab.port c.fab.epoch port).tokens % 2 ^ 32 * 2 ^ 16 + c.fab.queueLen port % 32 * 16 + est.toNat * 2
    + (c.portHeld port).toNat)

/-- SSTAT (R202). -/
def execSstat (eng : BitVec 3) (port d : Reg) (kind : BitVec 2) (s : State) : Out :=
  guardWf (.sstat eng port d kind) s (fun s =>
    let v := if kind = 0 then s.core.statEngine eng.toNat else if kind = 1 then s.core.statChannel eng.toNat else s.core.statPort port.toNat
    .next ((s.setReg d v false).finish 4))

end Sys2Proof.Machine
end

