-- ==== Sys2Proof/Machine/Matrix.lean ====
section
/-! DEFINITION. The matrix instructions MLDW, MMUL, MWAIT at issue (spec/12_engines.md R261 to R266,
spec/13_cluster_instructions.md R295 to R298). -/

namespace Sys2Proof.Machine

/-- A weight slot of the cluster's array, and changing one (R261). -/
def Cluster.wslot (c : Cluster) (n : Nat) : WSlot := Map.get {} c.wslots n
def Cluster.modWslot (n : Nat) (f : WSlot → WSlot) (c : Cluster) : Cluster := { c with wslots := Map.set c.wslots n (f (c.wslot n)) }

/-- The key of a command stream of the core (R266), its commands, and changing them. -/
def Core.streamKey (c : Core) (s : Nat) : Nat := c.id % 16 * 4 + s
def Cluster.mstream (c : Cluster) (k : Nat) : List MatCmd := Map.get [] c.mstreams k
def Cluster.setMstream (k : Nat) (l : List MatCmd) (c : Cluster) : Cluster := { c with mstreams := Map.put [] c.mstreams k l }

/-- Bytes of a block of values in a matrix format, exponents of bx32 included (R263, R264, R295). -/
def blockBytes (fmt : BitVec 4) (n : Nat) : Nat := n * fmtSize fmt + (if fmt = 5 then n / 16 else 0)

/-- The shape register of MLDW (R263): N in bits 15:8, K in bits 7:0. -/
def shapeK (x : Word) : Nat := x.toNat % 256
def shapeN (x : Word) : Nat := x.toNat / 256 % 256
def shapeOk (x : Word) : Bool :=
  let ok := fun (n : Nat) => n == 32 || n == 64 || n == 96 || n == 128
  decide (x.toNat < 65536) && ok (shapeK x) && ok (shapeN x)

/-- MMUL's operand register (R264): SLOT, M, ACC, and its zero fields. -/
def opndSlot (x : Word) : Nat := x.toNat % 64
def opndM (x : Word) : Nat := x.toNat / 256 % 65536
def opndAcc (x : Word) : Bool := x.getLsbD 24
def opndOk (x : Word) : Bool := decide (x.toNat / 64 % 4 = 0) && decide (x.toNat < 2 ^ 25)

/-- Whether the task's tenant owns a slot (R261). -/
def State.ownsSlot (s : State) (n : Nat) : Bool := decide (n < 64) && (s.cluster.wslot n).owner == some s.core.tenant

/-- ALIGN for a buffer address that is not a multiple of 128 (R295, R299). -/
def guardLine (a : Word) (s : State) (k : State → Out) : Out := if a.toNat % 128 ≠ 0 then trap causeAlign a s else k s

/-- MLDW (R263, R295, R296): accepted into stream `st`, with the slot's accepted shape. -/
def execMldw (st : BitVec 2) (slot a shape : Reg) (fmt : BitVec 4) (fl : HaspFlags) (s : State) : Out :=
  guardWf (.mldw st slot a shape fmt fl) s (fun s =>
    let sh := s.reg shape
    if shapeOk sh = false then illegal (.mldw st slot a shape fmt fl) s
    else guardExact ([slot, a, shape] ++ flagRegs fl) s (fun s => guardLine (s.reg a) s (fun s => guardFlagAlign fl s (fun s =>
      let n := (s.reg slot).toNat
      if s.ownsSlot n = false then trap causeProt (s.reg slot) s
      else if 65536 < (s.reg a).toNat + blockBytes fmt (shapeN sh * shapeK sh) then trap causeProt (s.reg a) s
      else guardFlags fl s (fun h s =>
        let k := s.core.streamKey st.toNat
        if 8 ≤ (s.cluster.mstream k).length then stall s
        else
          let cmd : MatCmd := { load := true, slot := n, src := (s.reg a).toNat, fmt := fmt, k := shapeK sh, n := shapeN sh, hasp := h }
          .next (((s.modCluster (fun c =>
            (c.setMstream k (c.mstream k ++ [cmd])).modWslot n (fun w => { w with accK := shapeK sh, accN := shapeN sh }))).modCore
              (fun c => { c with accepted := c.accepted + 1 })).finish 8))))))

/-- MMUL's value checks after TYPE (R264, R295): alignment, slot, ranges; `k` goes on with K and N of the accepted shape. -/
def mmulAligned (m : MmulArgs) (s : State) (k : State → Out) : Out :=
  guardLine (s.reg m.a) s (fun s => guardLine (s.reg m.gd) s (fun s => guardFlagAlign m.fl s k))
def mmulChecked (m : MmulArgs) (s : State) (k : Nat → Nat → State → Out) : Out :=
  let x := s.reg m.opnd
  let w := s.cluster.wslot (opndSlot x)
  if s.ownsSlot (opndSlot x) = false then trap causeProt (BitVec.ofNat 64 (opndSlot x)) s
  else if 196608 < (s.reg m.a).toNat + blockBytes m.fmt (opndM x * w.accK) then trap causeProt (s.reg m.a) s
  else if 65536 < (s.reg m.gd).toNat + 4 * opndM x * w.accN then trap causeProt (s.reg m.gd) s
  else k w.accK w.accN s

/-- The command of an MMUL. -/
def mmulCmd (m : MmulArgs) (h : CmdHasp) (k n : Nat) (s : State) : MatCmd :=
  let x := s.reg m.opnd
  { load := false, slot := opndSlot x, src := (s.reg m.a).toNat, dst := (s.reg m.gd).toNat, fmt := m.fmt, k := k, n := n, m := opndM x,
    opnd := x, hasp := h }

/-- Lines of a buffer marked empty or full, contents unchanged (R98, R296). -/
def Buffer.markRange (full : Bool) (line n : Nat) (b : Buffer) : Buffer :=
  (List.range n).foldl (fun b k => b.setFull (line + k) full) b

/-- The target lines of an MMUL (R264): first line and count. -/
def MatCmd.lines (c : MatCmd) : Nat × Nat := (c.dst / 128, 4 * c.m * c.n / 128)

/-- MMUL (R264, R295, R296): accepted into its stream, target lines emptied. -/
def execMmul (m : MmulArgs) (s : State) : Out :=
  guardWf (.mmul m) s (fun s =>
    if opndOk (s.reg m.opnd) = false then illegal (.mmul m) s
    else guardExact ([m.gd, m.a, m.opnd] ++ flagRegs m.fl) s (fun s => mmulAligned m s (fun s => mmulChecked m s (fun k n s =>
      guardFlags m.fl s (fun h s =>
        let key := s.core.streamKey m.s.toNat
        if 8 ≤ (s.cluster.mstream key).length then stall s
        else
          let cmd := mmulCmd m h k n s
          .next ((((s.modCluster (fun c => c.setMstream key (c.mstream key ++ [cmd]))).modBuf 3
            (Buffer.markRange false cmd.lines.1 cmd.lines.2)).modCore (fun c => { c with accepted := c.accepted + 1 })).finish 8))))))

/-- Whether a command accepted on stream `s` is unfinished, a follow-on still behind its copy included (R298). -/
def State.matrixBusy (s : State) (st : Nat) : Bool :=
  !(s.cluster.mstream (s.core.streamKey st)).isEmpty ||
  s.core.chans.any (fun c => c.2.queue.any (fun x => match x.mmul with
    | some m => m.s.toNat == st
    | none => false))

/-- MWAIT (R298). -/
def execMwait (st : BitVec 2) (s : State) : Out :=
  if s.matrixBusy st.toNat then stall s else .next (s.finish 4)

end Sys2Proof.Machine
end

