-- ==== Sys2Proof/Machine/Copies.lean ====
section
/-! DEFINITION. The copy instructions CPY, CPYM, WPWAIT at issue (spec/08_stream_instructions.md R203 to R206). -/

namespace Sys2Proof.Machine

/-- Whether a range of a copy passes (R203 check 2): sign rule, buffer, or partition. Of a length of 0 the address must lie in the space, or at its
end (DESIGN CHOICE, log 133). -/
def State.copyRange (s : State) (sp : BitVec 3) (a : Word) (n : Nat) : Bool :=
  if sp = 0 then memRange a n
  else if sp = 4 then decide (a.toNat + n ≤ s.core.clsz.toNat)
  else decide (a.toNat + n ≤ bufSize sp)

/-- Whether two ranges of one space overlap. -/
def overlap (a b : Word) (n : Nat) : Bool := decide (n ≠ 0) && decide (a.toNat < b.toNat + n) && decide (b.toNat < a.toNat + n)

/-- The value checks of a copy (R203). -/
def copyAligned (c : CopyArgs) (s : State) (k : State → Out) : Out :=
  match [s.reg c.gd, s.reg c.gs, s.reg c.len].find? (fun x => decide (x.toNat % 8 ≠ 0)) with
  | some x => trap causeAlign x s
  | none => guardFlagAlign c.fl s k
def copyRanges (c : CopyArgs) (s : State) (k : State → Out) : Out :=
  let n := (s.reg c.len).toNat
  if s.copyRange c.dsp (s.reg c.gd) n = false then trap causeProt (s.reg c.gd) s
  else if s.copyRange c.ssp (s.reg c.gs) n = false then trap causeProt (s.reg c.gs) s
  else if c.dsp = c.ssp ∧ overlap (s.reg c.gd) (s.reg c.gs) n then trap causeProt (s.reg c.gd) s
  else k s

/-- Check 3 of R203: an estimate never goes to mem: or cls:. TYPE is taken in the state `before` the checks that touch a page
(R122); TVAL[4:0] names gd (DESIGN CHOICE, log 90). -/
def copyTyped (c : CopyArgs) (before s : State) (k : State → Out) : Out :=
  if c.est ∧ (c.dsp = 0 ∨ c.dsp = 4) then lineTrap (s.reg c.gd).toNat c.gd before else k s

/-- The lines that a range of a buffer covers whole: first and count. -/
def wholeLines (a n : Nat) : Nat × Nat := ((a + 127) / 128, (a + n) / 128 - (a + 127) / 128)

/-- With EI, the lines that the copy writes whole are emptied at acceptance (R204). -/
def emptyTargets (c : CopyArgs) (s : State) : State :=
  if c.ei then
    let w := wholeLines (s.reg c.gd).toNat (s.reg c.len).toNat
    s.modBuf c.dsp (Buffer.markRange false w.1 w.2)
  else s

/-- The channel of the core, and changing it. -/
def Core.chan (c : Core) (n : Nat) : Channel := Map.get {} c.chans n
def Core.modChan (n : Nat) (f : Channel → Channel) (c : Core) : Core := { c with chans := Map.set c.chans n (f (c.chan n)) }

/-- The copy as accepted. -/
def copyOf (c : CopyArgs) (h : CmdHasp) (s : State) : Copy :=
  { dst := s.reg c.gd, src := s.reg c.gs, len := (s.reg c.len).toNat, dsp := c.dsp, ssp := c.ssp, ei := c.ei, est := c.est, hasp := h }

/-- Accept a copy (R185): its channel's queue of 8. -/
def acceptCopy (len : Word) (c : CopyArgs) (x : Copy) (s : State) : Out :=
  .next (((emptyTargets c s).modCore (fun k =>
    { k.modChan c.ch.toNat (fun g => { g with queue := g.queue ++ [x] }) with accepted := k.accepted + 1 })).finish len)

/-- Whether the channel's queue is full. -/
def State.chanFull (s : State) (c : CopyArgs) : Bool := decide (8 ≤ (s.core.chan c.ch.toNat).queue.length)

/-- CPY (R203, R204). -/
def execCpy (c : CopyArgs) (s : State) : Out :=
  guardWf (.cpy c) s (fun before => guardExact ([c.gd, c.gs, c.len] ++ flagRegs c.fl) before (fun s =>
    copyAligned c s (fun s => copyRanges c s (fun s => guardFlags c.fl s (fun h s => copyTyped c before s (fun s =>
      if s.chanFull c then stall s else acceptCopy 8 c (copyOf c h s) s))))))

/-- CPYM (R205, R133): the copy and its follow-on MMUL are checked and accepted together; the MMUL's target lines are emptied. The two are one
instruction of 16 bytes for the loop's close, a skipped loop and ICNT (DESIGN CHOICE, log 88). -/
def execCpym (c : CopyArgs) (m : MmulArgs) (s : State) : Out :=
  guardWf (.cpym c m) s (fun before =>
    if opndOk (s.reg m.opnd) = false then illegal (.cpym c m) s
    else guardExact ([c.gd, c.gs, c.len] ++ flagRegs c.fl ++ [m.gd, m.a, m.opnd] ++ flagRegs m.fl) before (fun s =>
      copyAligned c s (fun s => mmulAligned m s (fun s => copyRanges c s (fun s => mmulChecked m s (fun k n s =>
        guardFlags c.fl s (fun h s => guardFlags m.fl s (fun mh s => copyTyped c before s (fun s =>
          if s.chanFull c then stall s
          else
            let cmd := mmulCmd m mh k n s
            acceptCopy 16 c { copyOf c h s with mmul := some m, mcmd := some cmd }
              (s.modBuf 3 (Buffer.markRange false cmd.lines.1 cmd.lines.2)))))))))))

/-- The count that WPWAIT compares (R206): WPch; once the channel has no copy left, the bytes of cancelled copies count with it, as ended (R294;
DEDUCED, log 96). -/
def Channel.waitCount (g : Channel) : Nat := if g.queue.isEmpty then g.wp.toNat + g.gone else g.wp.toNat

/-- WPWAIT (R206); a count that no copy reaches leaves it waiting (R386; DEDUCED, log 116). -/
def execWpwait (ch : BitVec 3) (a : Reg) (s : State) : Out :=
  guardWf (.wpwait ch a) s (fun s => guardExact [a] s (fun s =>
    if (s.core.chan ch.toNat).waitCount < (s.reg a).toNat then stall s else .next (s.finish 4)))

end Sys2Proof.Machine
end

