-- ==== Sys2Proof/Machine/Crossbar.lean ====
section
/-! DEFINITION. The crossbar instructions XPROG, XFIRE, XCAL, XSTAT at issue (spec/12_engines.md R269 to R280,
spec/13_cluster_instructions.md R299 to R304). -/

namespace Sys2Proof.Machine

/-- Clamp to a range. -/
def clampInt (lo hi x : Int) : Int := max lo (min hi x)

/-- The factor DRF within 0.5 to 2.0 (R277); a factor that is no number in the range is clamped. -/
def clampFactor (x : W32) : W32 :=
  if isNaN32 x ∨ lt32 x 0x3F000000 then 0x3F000000 else if lt32 0x40000000 x then 0x40000000 else x

/-- A column entry (R276). -/
def entryOf (ofs : Int) (gain : Nat) : W32 := BitVec.ofNat 32 ((ofs % 64).toNat * 1024 + gain % 1024)

/-- Whether the corrections measured lie within their fields (R277). -/
def measuredFits (n : Nat) : Bool :=
  (List.range 258).all (fun j => clampInt (-32) 31 (Config.measuredOffset n j) == Config.measuredOffset n j && decide (Config.measuredGain n j < 1024)) &&
  clampFactor (Config.measuredFactor n) == Config.measuredFactor n

/-- The record that a calibration writes (R276, R277), and the state that its final check decides; columns 256 and 257 are REFA and
REFB. -/
def XArray.calibrated (n : Nat) (cyc : Word) (a : XArray) : XArray :=
  let o := fun j => clampInt (-32) 31 (Config.measuredOffset n j)
  let g := fun j => min 1023 (Config.measuredGain n j)
  let ok := measuredFits n && Config.calibrationPasses n
  { a with
    calCyc := cyc, drf := clampFactor (Config.measuredFactor n), refA := entryOf (o 256) (g 256), refB := entryOf (o 257) (g 257)
    ofs := (List.range 256).map (fun j => (j, (o j % 64).toNat)), gain := (List.range 256).map (fun j => (j, g j))
    state := if ok then .ready else .drift, drs := if ok then 0 else a.drs }

/-- The boot's long form (R277): the record is measured; an array that holds no program stays ZERO, a WORN one WORN. -/
def XArray.measured (n : Nat) (cyc : Word) (a : XArray) : XArray :=
  if a.state = .ready ∨ a.state = .drift then a.calibrated n cyc else { a.calibrated n cyc with state := a.state, drs := a.drs }

/-- An array of the cluster's bank, and changing it. -/
def Cluster.array (c : Cluster) (n : Nat) : XArray :=
  match Map.find c.arrays n, c.measured with
  | some a, _ => a
  | none, some m => ({} : XArray).measured (m.1 + n) m.2
  | none, none => {}
def Cluster.modArray (n : Nat) (f : XArray → XArray) (c : Cluster) : Cluster := { c with arrays := Map.set c.arrays n (f (c.array n)) }

/-- The lane of an array (R269), and whether it is fenced (R279). -/
def laneOf (arr : Nat) : Nat := arr / 512
def Cluster.fencedLane (c : Cluster) (arr : Nat) : Bool := c.lanesFenced.contains (laneOf arr)

/-- The state code of an array as R275 codes it; 4 for an array of a fenced lane (R303). -/
def ArrayState.code : ArrayState → Nat
  | .zero => 0
  | .ready => 1
  | .drift => 2
  | .programming => 3
  | .worn => 4
def Cluster.arrayCode (c : Cluster) (n : Nat) : Nat := if c.fencedLane n then 4 else (c.array n).state.code

/-- TVAL of DRIFT and XWORN (R304). -/
def driftValue (target reason arr : Nat) : Word := BitVec.ofNat 64 (target * 2 ^ 32 + reason * 2 ^ 20 + arr)
def wornValue (progs reason arr : Nat) : Word := BitVec.ofNat 64 (progs * 2 ^ 32 + reason * 2 ^ 20 + arr)

/-- The array number in a register: a bit above 12 is ILLEGAL (R299). -/
def guardArrayNum (i : Instr) (arr : Reg) (s : State) (k : State → Out) : Out :=
  if 8192 ≤ (s.reg arr).toNat then illegal i s else k s

/-- The array's owner (R269, R299). -/
def guardOwned (arr : Reg) (s : State) (k : Nat → State → Out) : Out :=
  if (s.cluster.array (s.reg arr).toNat).owner = some s.core.tenant then k (s.reg arr).toNat s else trap causeProt (s.reg arr) s

/-- XWORN at issue (R300 to R302): a fenced lane, a WORN array. -/
def guardWorn (arr : Nat) (s : State) (k : State → Out) : Out :=
  let a := s.cluster.array arr
  if s.cluster.fencedLane arr then trap causeXworn (wornValue a.progs 4 arr) s
  else if a.state = .worn then trap causeXworn (wornValue a.progs 3 arr) s
  else k s

/-- Commands of a core in the bank, on one array or on all. -/
def XArray.ofCore (a : XArray) (core : Nat) : Nat := (a.queue.filter (fun q => q.core == core)).length
def Cluster.xbarCount (c : Cluster) (core : Nat) : Nat := (c.arrays.map (fun e => e.2.ofCore core)).sum

/-- Accept a command (R299): it waits while the core has 16, then joins the array's queue. -/
def acceptXbar (arr : Nat) (cmd : XbarCmd) (f : State → State) (s : State) : Out :=
  if 16 ≤ s.cluster.xbarCount s.core.id then stall s
  else
    let x := { cmd with core := s.core.id, acquired := !cmd.hasp.acq }
    .next ((((f s).modCluster (fun c => c.modArray arr (fun a => { a with queue := a.queue ++ [x] }))).modCore
      (fun c => { c with accepted := c.accepted + 1 })).finish 8)

/-- XPROG (R301). -/
def execXprog (arr b : Reg) (fl : HaspFlags) (s : State) : Out :=
  guardWf (.xprog arr b fl) s (fun s => guardArrayNum (.xprog arr b fl) arr s (fun s =>
    guardExact ([arr, b] ++ flagRegs fl) s (fun s => guardLine (s.reg b) s (fun s => guardFlagAlign fl s (fun s =>
      if s.core.clsz.toNat < (s.reg b).toNat + 131076 then trap causeProt (s.reg b) s
      else guardOwned arr s (fun n s => guardFlags fl s (fun h s => guardWorn n s (fun s =>
        if 1000000 ≤ (s.cluster.array n).progs then trap causeXworn (wornValue (s.cluster.array n).progs 1 n) s
        else acceptXbar n { kind := 0, src := (s.reg b).toNat, hasp := h } id s))))))))

/-- INJ after an accepted XFIRE, and whether the fire carries the injection (R94). -/
def injArmed (x : Word) : Bool := x.toNat % 16 == 1 && decide (x.toNat / 65536 % 65536 ≠ 0)
def injFires (x : Word) : Bool := injArmed x && x.toNat / 65536 % 65536 == 1
def injNext (x : Word) : Word := if injArmed x then injOf (BitVec.ofNat 64 ((x.toNat / 65536 % 65536 - 1) * 65536 + 1)) else x

/-- XFIRE (R300, R271): accepted with its 16 target lines emptied. -/
def execXfire (arr b c : Reg) (fl : HaspFlags) (s : State) : Out :=
  guardWf (.xfire arr b c fl) s (fun s => guardArrayNum (.xfire arr b c fl) arr s (fun s =>
    guardExact ([arr, b, c] ++ flagRegs fl) s (fun s => guardLine (s.reg b) s (fun s => guardLine (s.reg c) s (fun s =>
      guardFlagAlign fl s (fun s =>
        if 196608 < (s.reg b).toNat + 640 then trap causeProt (s.reg b) s
        else if 65536 < (s.reg c).toNat + 2048 then trap causeProt (s.reg c) s
        else guardOwned arr s (fun n s => guardFlags fl s (fun h s => guardWorn n s (fun s =>
          if (s.cluster.array n).state = .drift then trap causeDrift (driftValue 0 5 n) s
          else
            acceptXbar n { kind := 1, src := (s.reg b).toNat, dst := (s.reg c).toNat, hasp := h, inject := injFires s.core.inj }
              (fun s => (s.modBuf 3 (Buffer.markRange false ((s.reg c).toNat / 128) 16)).modCore (fun k => { k with inj := injNext k.inj }))
              s)))))))))

/-- XCAL (R302). -/
def execXcal (arr : Reg) (s : State) : Out :=
  guardArrayNum (.xcal arr) arr s (fun s => guardExact [arr] s (fun s => guardOwned arr s (fun n s => guardWorn n s (fun s =>
    acceptXbar n { kind := 2 } id s))))

/-- The word that XSTAT reads (R303). -/
def State.xstatWord (s : State) (n : Nat) : Word :=
  let a := s.cluster.array n
  BitVec.ofNat 64 (a.progs % 2 ^ 32 * 2 ^ 32 + a.ofCore s.core.id * 2 ^ 24 + a.drs * 2 ^ 20 + (s.cluster.shimCache.contains n).toNat * 2 ^ 19
    + s.cluster.arrayCode n * 2 ^ 16 + n)

/-- XSTAT (R303): its checks at issue, and, 20 cycles later, the status as it then stands; what happens in between is no longer counted in it
(R313). -/
def execXstat (d arr : Reg) (s : State) : Out :=
  guardArrayNum (.xstat d arr) arr s (fun s => guardExact [arr] s (fun s =>
    if s.core.wait = .status then .next ((s.setReg d (s.xstatWord (s.reg arr).toNat) false).finish 8)
    else guardOwned arr s (fun _ s => .next (s.modCore (fun c => { c with wait := .status, stalled := false })))))

end Sys2Proof.Machine
end

