-- ==== Sys2Proof/Machine/Fabric.lean ====
section
/-! DEFINITION. The running fabric (spec/01_element.md R7 to R28, spec/09_bitstream.md R230, R231): tokens, slots, stages, firing,
emission, the class check of a firing, cancelling an epoch's streams, fencing a plane, starting and completing a switch. -/

namespace Sys2Proof.Machine

/-! ### Tokens (R7 to R9) -/

def Token.isData (k : Token) : Bool := !k.ctl && k.sb != 2
def Token.isBubble (k : Token) : Bool := !k.ctl && k.sb == 2
def Token.isCtl (k : Token) (n : Nat) : Bool := k.ctl && k.data == BitVec.ofNat 32 n
def bubble : Token := { sb := 2 }
def ctlToken (n : Nat) : Token := { ctl := true, data := BitVec.ofNat 32 n }
def eosToken : Token := ctlToken 1
def drainToken : Token := ctlToken 2
def tileToken : Token := ctlToken 3
def dataToken (sb : BitVec 2) (v : W32) : Token := { sb := sb, data := v }

/-- A row end (R105): SB 0b01 or 0b11, a bubble, an end-of-tile marker. -/
def Token.rowEnd (k : Token) : Bool := if k.ctl then k.isCtl 3 else k.sb != 0

/-- The class of a token (R21): 0 data, 1 bubble, 1 + k control of kind k. -/
def Token.cls (k : Token) : Nat := if k.ctl then 1 + k.data.toNat else if k.sb = 2 then 1 else 0

/-! ### Whose configuration a target or a router follows (R230) -/

def Fabric.follows (f : Fabric) (t : Nat) : Option Nat :=
  match f.switch with
  | some w => some (if w.targets.contains t then w.inc else w.out)
  | none => f.active
def Fabric.cfg (f : Fabric) (t : Nat) : Plane :=
  match f.follows t with
  | some n => f.plane n
  | none => {}
def Fabric.changed (f : Fabric) (t : Nat) : Bool :=
  match f.switch with
  | some w => w.targets.contains t
  | none => false
def Fabric.routerChanged (f : Fabric) (r : Nat) : Bool :=
  match f.switch with
  | some w => w.routers.contains r
  | none => false
def Fabric.routerCfg (f : Fabric) (r : Nat) : Plane :=
  match f.switch with
  | some w => f.plane (if w.routers.contains r then w.inc else w.out)
  | none =>
    match f.active with
    | some n => f.plane n
    | none => {}

/-- The epoch that a target, or a router, works in. -/
def Fabric.epochIf (f : Fabric) (new : Bool) : BitVec 32 := if new then f.epoch + 1 else f.epoch

/-- Whether a target may fire: a plane is active and not fenced; during a switch, before its drain, or after its router has
changed over (R230 rule 3). -/
def Fabric.mayFire (f : Fabric) (t : Nat) : Bool :=
  !f.fencing &&
  match f.switch with
  | none => f.active.isSome
  | some w => if w.targets.contains t then w.routers.contains (routerOf t) && !w.cut else !w.fired.contains t

/-! ### Slots, stages, results -/

def Fabric.slot (f : Fabric) (t q : Nat) : Option Slot := Map.find f.slots (t * 4 + q)
def Fabric.setSlot (t q : Nat) (v : Slot) (f : Fabric) : Fabric := { f with slots := Map.set f.slots (t * 4 + q) v }
def Fabric.dropSlot (t q : Nat) (f : Fabric) : Fabric := { f with slots := Map.erase f.slots (t * 4 + q) }
def Fabric.opOf (f : Fabric) (t : Nat) : OpState := Map.get {} f.ops t
def Fabric.setOp (t : Nat) (v : OpState) (f : Fabric) : Fabric := { f with ops := Map.put {} f.ops t v }
def Fabric.modOp (t : Nat) (g : OpState → OpState) (f : Fabric) : Fabric := f.setOp t (g (f.opOf t))
def Fabric.pipe (f : Fabric) (t : Nat) : List Flight := Map.get [] f.pipes t
def Fabric.setPipe (t : Nat) (l : List Flight) (f : Fabric) : Fabric := { f with pipes := Map.put [] f.pipes t l }

/-- The token in a slot; a blank one where there is none. -/
def Fabric.tok (f : Fabric) (t q : Nat) : Token := ((f.slot t q).map (fun v => v.fl.tok)).getD {}

/-- A token enters a slot (R13, R14, R77): none where the slot does not take it. A count of 0xFFFF absorbs EOS and end-of-tile
behind its resident token; a drain ends that residency, or a held EOS, and takes the slot. -/
def Fabric.enter (t q : Nat) (fl : Flight) (f : Fabric) : Option Fabric :=
  let n := (f.cfg t).sticky t q
  match f.slot t q with
  | none =>
    let res := fl.tok.isData && decide (2 ≤ n)
    some (f.setSlot t q { fl := fl, resident := res, left := if res then n else 0 })
  | some v =>
    if v.resident ∧ n = 0xFFFF ∧ (fl.tok.isCtl 1 ∨ fl.tok.isCtl 3) then some f
    else if fl.tok.isCtl 2 ∧ ((v.resident ∧ n = 0xFFFF) ∨ ((f.opOf t).heldEos ∧ v.fl.tok.isCtl 1)) then some (f.setSlot t q { fl := fl })
    else none

/-- The latency of an operator (R57); memory operators in cls: are slower. -/
def Plane.latency (p : Plane) (t : Nat) : Nat :=
  let far := p.opf0 t % 4 == 2
  match p.op t with
  | 0x01 | 0x02 | 0x0E | 0x12 | 0x13 | 0x14 | 0x28 | 0x30 => 2
  | 0x03 => 3
  | 0x04 | 0x05 | 0x29 => 4
  | 0x0A => 8
  | 0x0B | 0x0C => 10
  | 0x0D => 12
  | 0x44 => if far then 24 else 4
  | 0x45 => if far then 20 else 3
  | 0x46 => if far then 28 else 6
  | _ => 1

/-- Whether a drain has passed a target in a switch: it has changed over, or will once its accesses are performed (R22, R230). -/
def Fabric.passed (f : Fabric) (t : Nat) : Bool :=
  match f.switch with
  | some w => w.targets.contains t || w.fired.contains t
  | none => false

/-- The first stages of the routes of a target that a mask selects, under its router's configuration (R18, R54). A router that has changed over
ahead of a target has no channel of the target's outgoing plane (R230 rule 2). -/
def Fabric.firsts (f : Fabric) (t mask : Nat) : List Nat :=
  if f.routerChanged (routerOf t) && !f.changed t then [] else
  ((f.routerCfg (routerOf t)).firstStages t).filterMap (fun e => if mask / 2 ^ e.1 % 2 = 1 then some e.2 else none)
def Fabric.stageFree (f : Fabric) (i : Nat) : Bool := (Map.find f.stages i).isNone
def Fabric.putStages (is : List Nat) (fl : Flight) (f : Fabric) : Fabric :=
  { f with stages := is.foldl (fun m i => Map.set m i fl) f.stages }

/-- Condition 2 of R21 and R58: the first stage of every route, or the first internal stage, is free. -/
def Fabric.canEmit (f : Fabric) (t mask : Nat) : Bool :=
  let l := (f.cfg t).latency t
  (f.opOf t).pend.isEmpty &&
  (if l ≤ 1 then (f.pipe t).isEmpty && (f.firsts t mask).all f.stageFree else decide ((f.pipe t).length < l - 1))

/-- Emit a token (R18, R58). -/
def Fabric.emit (t mask : Nat) (k : Token) (cyc : Nat) (f : Fabric) : Fabric :=
  let fl : Flight := { tok := k, born := cyc, came := cyc }
  if (f.cfg t).latency t ≤ 1 then f.putStages (f.firsts t mask) fl else f.setPipe t (f.pipe t ++ [fl])

/-- A drain has passed a target (R22): every slot and all operator state go; accesses and results on their way stay. -/
def Fabric.drained (t : Nat) (f : Fabric) : Fabric :=
  let o := f.opOf t
  let g := (((f.dropSlot t 0).dropSlot t 1).dropSlot t 2).dropSlot t 3
  { g.setOp t { out := o.out, pend := o.pend } with switch := g.switch.map (fun w => { w with fired := w.fired ++ [t] }) }

/-! ### Firing -/

/-- The used ports whose token a firing consumes (R21). -/
def Fabric.live (f : Fabric) (t : Nat) : List Nat :=
  ((f.cfg t).usedPorts t).filter (fun q => match f.slot t q with
    | some v => !v.resident || v.left == 1
    | none => false)

/-- Use the token of a port once (R13, R14): it is consumed, or, resident, counted down. -/
def Fabric.take (t : Nat) (f : Fabric) (q : Nat) : Fabric :=
  match f.slot t q with
  | some v =>
    if !v.resident || v.left == 1 then f.dropSlot t q
    else if v.left = 0xFFFF then f else f.setSlot t q { v with left := v.left - 1 }
  | none => f

/-- The last-arrival note of a firing (R23). Where its codes overlap, 5 goes before 4 and 4 before 0 to 3: with back-pressure and every used
port resident, or no input, the note says 5; at a first firing all of whose ports hold resident tokens it names the port that came last
(DESIGN CHOICE, log 82). Every used port counts, also one that the firing does not take, a vacant one as of cycle 0 (DESIGN CHOICE, log 122). -/
def Fabric.noteOf (f : Fabric) (t cyc : Nat) : Nat × Nat :=
  let ports := (f.cfg t).usedPorts t
  let prev := Map.find f.lastFire t
  let came := fun q => match f.slot t q with
    | some v => v.fl.came
    | none => 0
  let stale := fun q => match f.slot t q, prev with
    | some v, some n => v.resident && decide (v.fl.came ≤ n)
    | _, _ => false
  let last := ports.foldl (fun m q => max m (came q)) 0
  let freed := (if (f.cfg t).latency t ≤ 1 then (f.firsts t 15).map (fun i => Map.get 0 f.freed i) else [Map.get 0 f.freed (6000 + t)]).foldl max 0
  let code :=
    if ports.all stale then 5
    else if last < freed then 4
    else ((ports.find? (fun q => came q == last)).getD 5)
  (code, match prev with
    | some n => min (cyc - n) 255
    | none => 255)

/-- A sample of the trace (R237): the notes are copied and the walk starts, or the sample is dropped. -/
def Trace.sample (f : Fabric) (target cyc : Nat) (x : Trace) : Trace :=
  if x.node.isSome then { x with dropped := x.dropped + 1 }
  else { x with
    snapshot := f.notes, cyc := cyc, node := some target, start := target, epoch := f.epoch, plane := (f.follows target).getD f.act
    steps := [], seen := [] }

/-- A data firing of a target is counted for the trace (R237): in the active plane, whose targets have not changed over. -/
def Fabric.traced (t cyc : Nat) (f : Fabric) : Fabric :=
  let p := f.cfg t
  if p.traceOn && p.traceTarget == t && !f.changed t then
    let n := f.trace.firings + 1
    let x := { f.trace with firings := n }
    { f with trace := if n % p.samplePeriod = 0 then x.sample f t cyc else x }
  else f

/-- Record a firing (R23, R25, R237). -/
def Fabric.record (t cyc : Nat) (data : Bool) (f : Fabric) : Fabric :=
  let g := { f with
    notes := Map.set f.notes t (f.noteOf t cyc), lastFire := Map.set f.lastFire t cyc, lastFiring := cyc
    switch := f.switch.map (fun w => { w with last := cyc }) }
  if data then g.traced t cyc else g

/-- The compiler's node of a target and the targets of its loop counters (R223). -/
def Plane.nodeOf (p : Plane) (t : Nat) : Nat :=
  match Map.find p.nodes t with
  | some w => w.toNat / 2 ^ 32 % 2 ^ 24
  | none => 0xFFFFFF
def Plane.counters (p : Plane) (t : Nat) : List Nat :=
  match Map.find p.nodes t with
  | some w => [w.toNat / 2 ^ 24 % 256, w.toNat / 2 ^ 16 % 256, w.toNat / 2 ^ 8 % 256, w.toNat % 256]
  | none => [255, 255, 255, 255]

/-- A breakpoint at a data firing of an element of the active plane (R239): with a debugger attached, the core asks for a precise stop; a
request that stands already serves for it. -/
def State.breakAt (t : Nat) (before : Fabric) (s : State) : State :=
  let p := before.cfg t
  if t < 128 ∧ p.breakpoint t ∧ !before.changed t ∧ (s.taskAt s.taskNum).debug ∧ s.core.stop.isNone then
    let idx := (p.counters t).map (fun k => if k = 255 then 0xFFFFFFFF else ((before.opOf k).lastIndex.getD 0xFFFFFFFF))
    s.modCore (fun c => { (if c.qreq.isSome then c else c.request .stop s.cyc) with stop := some (2, t, p.nodeOf t, idx) })
  else s

/-- One firing (R21): record it, use the tokens of `takes`, drop those of `drops`, emit, pass a drain. -/
def State.fireWith (t : Nat) (data : Bool) (takes drops : List Nat) (outs : List (Token × Nat)) (s : State) : State :=
  let u := s.modFab (fun f =>
    let g := drops.foldl (fun g q => g.dropSlot t q) (takes.foldl (fun g q => g.take t q) (f.record t s.cyc data))
    let h := match outs with
      | [] => g
      | [x] => g.emit t x.2 x.1 s.cyc
      | l => g.modOp t (fun o => { o with pend := l })
    if (outs.getLast?).any (fun x => x.1.isCtl 2) then h.drained t else h)
  if data then u.breakAt t s.core.fab else u

/-- A firing of the generic rule (R21): a data firing uses every used port, another one only drops the live tokens. -/
def State.fire (t : Nat) (live : List Nat) (data : Bool) (outs : List (Token × Nat)) (s : State) : State :=
  if data then s.fireWith t true ((s.core.fab.cfg t).usedPorts t) [] outs else s.fireWith t false [] live outs

/-- The order port of a memory operator (R80). -/
def orderPort (op : Nat) : Option Nat := if op = opLd then some 1 else if op = opSt ∨ op = opAtadd then some 2 else none

/-- What the class check of R21 finds. -/
inductive Check where
  | err (sub port : Nat)
  | data (sb : BitVec 2)
  | bubbles
  | ctl (k : Nat)
  deriving DecidableEq, Repr

/-- The class check of a firing (R21, R59, R80). -/
def Fabric.check (f : Fabric) (t : Nat) (live : List Nat) : Check :=
  let ord := orderPort ((f.cfg t).op t)
  let cls := fun q => (f.tok t q).cls
  let loose := fun q => ord == some q && decide (cls q < 2)
  let strict := live.filter (fun q => !loose q)
  match strict with
  | [] =>
    let q := (((f.cfg t).usedPorts t).filter (fun q => !loose q)).headD 0
    .data (f.tok t q).sb
  | q0 :: _ =>
    let differs := fun q => if loose q then decide (2 ≤ cls q0) else cls q != cls q0
    match live.find? differs with
    | some q => if live.any (fun q => decide (2 ≤ cls q)) then .err 3 q else .err 4 q
    | none =>
      if cls q0 = 0 then
        match strict.find? (fun q => (f.tok t q).sb != (f.tok t q0).sb) with
        | some q => .err 4 q
        | none => .data (f.tok t q0).sb
      else if cls q0 = 1 then .bubbles else .ctl (cls q0 - 1)

/-! ### Accesses of the fabric (R78 to R83) -/

/-- The accesses of a target that were issued when its plane was fenced: they complete, their results go nowhere (R26). One that waits for an
empty line's F bit, and those behind it, are not issued yet, though R107 has it in flight (DESIGN CHOICE, log 131). -/
def Core.issued (c : Core) (l : List FabAccess) : List FabAccess :=
  ((l.takeWhile (fun a => !c.fabWaits a)).filter (fun a => a.pass.isNone && !a.off)).map (fun a => { a with lost := true })

/-! ### Cancelling streams and fencing (R26, R86, R220) -/

/-- Cancel every stream of an epoch on the core: no release, CAN set (R26). -/
def Core.cancelEpoch (e : BitVec 32) (c : Core) : Core :=
  let gone := fun (en slot : Nat) => match Map.find (c.engine en).slots slot with
    | some t => t.cmd.epoch == e
    | none => false
  { c with
    engines := c.engines.map (fun g => (g.1, { g.2 with
      can := g.2.can || g.2.queue.any (fun q => q.epoch == e) || g.2.slots.any (fun t => t.2.cmd.epoch == e)
      queue := g.2.queue.filter (fun q => q.epoch != e)
      slots := g.2.slots.filter (fun t => t.2.cmd.epoch != e) }))
    flights := c.flights.filter (fun x => !(x.unit == 0 && gone x.a x.b))
    faults := c.faults.filter (fun x => match x.unit with
      | .stream en sl => !gone en sl
      | _ => true) }

/-- Discard the dynamic state of some targets and routers, the results on their way with the routers that they are about to enter (R230); the
accesses issued, as `issued` gives them, stay to be performed (R26). -/
def Fabric.discard (issued : List FabAccess → List FabAccess) (ts rs : Nat → Bool) (f : Fabric) : Fabric :=
  { f with
    slots := f.slots.filter (fun e => !ts (e.1 / 4)), pipes := f.pipes.filter (fun e => !rs (routerOf e.1))
    notes := f.notes.filter (fun e => !ts e.1), lastFire := f.lastFire.filter (fun e => !ts e.1)
    stages := f.stages.filter (fun e => !rs (e.1 / 30))
    ops := (f.ops.map (fun e =>
      let pend := if rs (routerOf e.1) then [] else e.2.pend
      (e.1, if ts e.1 then ({ out := issued e.2.out, pend := pend } : OpState) else { e.2 with pend := pend }))).filter (fun e => e.2 != {}) }

/-- The tokens of an epoch that stand in the port queues are discarded with its streams. -/
def Fabric.dropQueued (e : BitVec 32) (f : Fabric) : Fabric :=
  { f with
    inq := f.inq.map (fun q => (q.1, q.2.filter (fun x => x.epoch != e)))
    outq := f.outq.map (fun q => (q.1, q.2.filter (fun x => x.epoch != e))) }

/-- Whether the accesses of a fenced launch are all performed. -/
def Fabric.performed (f : Fabric) : Bool := f.ops.all (fun e => e.2.out.isEmpty)

/-- The end of a fence (R26): LS reads 2 once the accesses are performed and a trace walk of the launch has ended (R238). -/
def Fabric.settle (f : Fabric) : Fabric :=
  if f.fencing ∧ f.performed ∧ f.trace.node.isNone then
    { f with fencing := false, launch := if f.launch = 1 then 2 else f.launch
             ports := f.ports.map (fun e => (e.1, { e.2 with rowEnds := 0, recorded := false })) }
  else f

/-- What becomes of a stream when its epoch closes (R213). -/
def endedByClose (p : Plane) (old : BitVec 32) (c : StreamCmd) : Bool :=
  c.epoch == old && (if c.port < 16 then !p.inUsed c.port else true)
def Engine.dispose (p : Plane) (old : BitVec 32) (g : Engine) : Engine :=
  { g with
    queue := g.queue.filter (fun q => !endedByClose p old q)
    slots := g.slots.map (fun e => if endedByClose p old e.2.cmd ∧ !e.2.eos then (e.1, { e.2 with eos := true, fault := none }) else e)
    ending := g.ending ++ (g.queue.filter (endedByClose p old)).map (fun q => { cmd := q, acquired := true, eos := true, ended := true }) }

/-- The plane that ACT names stops, with no switch in progress (R26): its streams are cancelled and its dynamic state goes; `invalid`: it becomes
INVALID. -/
def Core.stopActive (invalid : Bool) (c : Core) : Core :=
  let d := c.cancelEpoch c.fab.epoch
  let p := d.fab.plane d.fab.act
  let f := d.fab.discard d.issued (fun _ => true) (fun _ => true)
  { d with fab := ({ f with
      planes := if invalid then Map.set f.planes f.act { p with state := .invalid } else f.planes
      inq := [], outq := [], fencing := true } : Fabric).settle }

/-- A switch completes (R210, R213, R216, R230): plane states, EPOCH and ACT change, the old epoch is disposed of, with whatever tokens its
output queues still hold (DESIGN CHOICE, log 83), a launch begins where the plane uses no input port or a stream of the new epoch has
started on a port of it (DEDUCED, log 28); an incoming plane that a trap has stopped is fenced, its launch over once its accesses are performed
(R231, R26), while those of a fenced launch of the outgoing one concern the new one no more; an incoming plane that is INVALID keeps neither
tokens (FS-01) nor streams (DESIGN CHOICE, log 130); a quiescence request that waited closes the ports (R106). -/
def Core.completeSwitch (w : Switch) (c : Core) : Core :=
  let f := c.fab
  let old := f.epoch
  let new := old + 1
  let po := f.plane w.out
  let planes := if w.out = w.inc ∨ po.state = .invalid then f.planes else Map.set f.planes w.out { po with state := .ready }
  let pi := { f.plane w.inc with state := if w.bad then PlaneState.invalid else .active }
  let d : Core := { c with engines := c.engines.map (fun g => (g.1, g.2.dispose po old)) }
  let none' := !(List.range 16).any pi.inUsed
  let e : Core := { d with fab := { f with
      planes := Map.set planes w.inc pi, act := w.inc, epoch := new, switch := none, fencing := w.cut
      ports := f.ports.filter (fun e => e.1 / 32 == new.toNat % 2)
      inq := f.inq.map (fun e => (e.1, e.2.filter (fun x => x.epoch == new)))
      outq := f.outq.map (fun e => (e.1, e.2.filter (fun x => x.epoch == new)))
      launch := if w.cut || (!w.bad && (none' || w.started)) then 1 else 0
      trace := { f.trace with firings := 0 } } }
  let g : Core := if w.bad then { e with fab := e.fab.settle }.stopActive true else { e with fab := e.fab.settle }
  if g.qreq.isSome then g.closePorts else g

/-- Clear PTRG.ARM (R210, R214). -/
def Core.disarm (c : Core) : Core := { c with ptrg := c.ptrg &&& ~~~1#64 }

/-- Start a switch to a plane (R210, R212): with no plane ACTIVE it completes in the next cycle, which the model takes at once. -/
def Core.startSwitch (inc cyc : Nat) (c : Core) : Core :=
  let d := c.disarm
  match d.fab.active with
  | none => d.completeSwitch { out := inc, inc := inc }
  | some a =>
    let p := d.fab.plane inc
    { d with fab := { d.fab.setPlane inc { p with state := .switching } with switch := some { out := a, inc := inc, last := cyc } } }

/-- Every element and router of a switch changes over at once (R231, R232). -/
def Switch.all (w : Switch) : Switch := { w with targets := List.range 192, routers := List.range 64 }

/-- Stop the plane that a target follows (R26, R86, R220, R231): its streams are cancelled and its dynamic state goes; an outgoing plane's
switch completes; an incoming plane waits, fenced, for the switch to complete. -/
def Core.stopPlane (incoming invalid : Bool) (c : Core) : Core :=
  match c.fab.switch with
  | none => c.stopActive invalid
  | some w =>
    if incoming then
      let d := c.cancelEpoch (c.fab.epoch + 1)
      { d with fab := { (d.fab.discard d.issued w.targets.contains w.routers.contains).dropQueued (c.fab.epoch + 1) with switch := some { w with cut := true, started := false, bad := w.bad || invalid } } }
    else
      let d := c.cancelEpoch c.fab.epoch
      let f := d.fab.discard d.issued (fun t => !w.targets.contains t) (fun r => !w.routers.contains r)
      let p := f.plane w.out
      let w' := if invalid ∧ w.out = w.inc then { w with bad := true } else w
      { d with fab := { f with planes := if invalid then Map.set f.planes w.out { p with state := .invalid } else f.planes } }.completeSwitch w'

/-- The element that names a target in a trap (R25, R28, R87), and the port code. -/
def elementOf (t : Nat) : Nat := if t < 128 then t else (2 * ((t - 128) / 16)) * 16 + (t - 128) % 16

/-- TVAL of ELEM (R25). -/
def elemValue (plane sub port element : Nat) : Word :=
  BitVec.ofNat 64 (plane % 4 * 2 ^ 18 + sub % 16 * 2 ^ 12 + port % 8 * 2 ^ 8 + element % 128)

/-- ELEM on a target (R25, R26, R87). -/
def State.raiseElem (t sub port : Nat) (s : State) : State :=
  let f := s.core.fab
  let n := (f.follows t).getD f.act
  let v := elemValue n sub (if t < 128 then port else 4) (elementOf t)
  (s.modCore (Core.stopPlane (f.changed t) (sub == 1))).raiseAsync causeElem v

/-- TVAL of an operator trap (R86). Of a PROT address, which is formed without wrap, bits 63:32 hold the low 32 bits (DESIGN CHOICE, log 107). -/
def operatorValue (x plane space element : Nat) : Word :=
  BitVec.ofNat 64 (x % 2 ^ 32 * 2 ^ 32 + 2 ^ 31 + plane % 4 * 2 ^ 18 + space % 4 * 2 ^ 16 + element % 128)

/-- An operator trap (R86). -/
def State.raiseOperator (t cause x space : Nat) (s : State) : State :=
  let f := s.core.fab
  (s.modCore (Core.stopPlane (f.changed t) false)).raiseAsync cause (operatorValue x ((f.follows t).getD f.act) space (elementOf t))

/-! ### Parity errors (R25, R27, R28) -/

/-- A plane that the fence mask now refuses becomes INVALID; a trigger to it is disarmed (R27, R214). The ACTIVE plane, and the one that a switch
brings in, stop with it (DESIGN CHOICE, log 130). -/
def Core.refence (c : Core) : Core :=
  let bad := fun n => (c.fab.plane n).state != .empty && (c.fab.plane n).hitsFence c.efnc c.rfence
  let e := match c.fab.switch with
    | some w => if bad w.inc then c.stopPlane true true else c
    | none => if c.fab.active.any bad then c.stopActive true else c
  let planes := (List.range 4).foldl (fun m n => if bad n then Map.set m n { e.fab.plane n with state := .invalid } else m) e.fab.planes
  let d : Core := { e with fab := { e.fab with planes := planes } }
  if ptrgArm c.ptrg ∧ bad (ptrgTarget c.ptrg) then d.disarm else d

/-- Set a bit of a mask. -/
def setBit {w : Nat} (x : BitVec w) (n : Nat) : BitVec w := x ||| BitVec.ofNat w (2 ^ n)

/-- A router is fenced (R28): its own mark, and the fence bits of its two elements. -/
def Core.fenceRouter (r : Nat) (c : Core) : Core :=
  { c with efnc := setBit (setBit c.efnc (elementOf (128 + r))) (elementOf (128 + r) + 16), rfence := setBit c.rfence r }

/-- A hardware error sets the fault-seen bit, or, where it is set, the fence bits of the element or of the router's two (R27, R28). -/
def Core.hardError (t : Nat) (router : Bool) (c : Core) : Core :=
  let r := routerOf t
  if router then
    if c.fab.seenRouter.getLsbD r then
      (c.fenceRouter r).refence
    else { c with fab := { c.fab with seenRouter := setBit c.fab.seenRouter r } }
  else if c.fab.seenElem.getLsbD t then ({ c with efnc := setBit c.efnc t } : Core).refence
  else { c with fab := { c.fab with seenElem := setBit c.fab.seenElem t } }

/-- The plane that a router follows (R230). -/
def Fabric.routerFollows (f : Fabric) (r : Nat) : Nat :=
  match f.switch with
  | some w => if w.routers.contains r then w.inc else w.out
  | none => f.act

/-- ELEM 0x1 or 0x2 of the parity error in a unit that follows plane `n`: `incoming` in a switch, `router` for a fault of the router of
target `t` (R25 to R28). -/
def State.raiseParity (t n sub port : Nat) (incoming router : Bool) (s : State) : State :=
  ((s.modCore (Core.stopPlane incoming (sub == 1))).modCore (Core.hardError t router)).raiseAsync causeElem
    (elemValue n sub port (elementOf (if router then 128 + routerOf t else t)))

/-- A parity error at a target or at its router (R25, R28): ELEM 0x1 or 0x2, with port 5 for the router's stages and switch fields. -/
def State.parityError (t : Nat) (e : ParityError) (s : State) : State :=
  let f := s.core.fab
  let r := routerOf t
  let n := (f.follows t).getD f.act
  let slot := decide (128 ≤ t)
  match e with
  | .config => s.raiseParity t n 1 (if slot then 4 else 7) (f.changed t) slot
  | .token q => s.raiseParity t n 2 (if slot then 4 else q) (f.changed t) slot
  | .stage => s.raiseParity t (f.routerFollows r) 2 5 (f.routerChanged r) true
  | .switchField => s.raiseParity t (f.routerFollows r) 1 5 (f.routerChanged r) true

/-- Whether a parity error at a target can be met now: its configuration, or a token that a slot of it holds, is about to be used by a firing; a stage of its router
holds a token; its router's selectors are in use (R25, R28). -/
def Fabric.meets (f : Fabric) (t : Nat) : ParityError → Bool
  | .config => f.mayFire t && (f.cfg t).op t != 0
  | .token q => f.mayFire t && (f.cfg t).op t != 0 && decide (q < 4) && (f.slot t q).isSome
  | .stage => (f.active.isSome || f.switch.isSome) && !f.fencing && f.stages.any (fun e => e.1 / 30 == routerOf t)
  | .switchField => (f.active.isSome || f.switch.isSome) && !f.fencing && (f.routerCfg (routerOf t)).routesThrough (routerOf t)

end Sys2Proof.Machine
end

