-- ==== Sys2Proof/Machine/Moves.lean ====
section
/-! DEFINITION. The fabric's own steps that no single operator makes: a token's hop (R15), drains entering (R211), change-overs and the end
of a switch (R230), its stall (R232), triggers (R214), the end of a launch (R77, R216). -/

namespace Sys2Proof.Machine

/-! ### Hops (R15 to R18) -/

/-- A token that passes a port counts (R202, R214); the EOS that a port delivers under a quiescence request closes it (R105 rule 2). -/
def Core.countPort (epoch : BitVec 32) (code : Nat) (k : Token) (c : Core) : Core :=
  let f := c.fab.modPort epoch code (fun p => { p with
    tokens := if k.isData then (p.tokens + 1) % 2 ^ 32 else p.tokens
    rowEnds := if k.rowEnd then p.rowEnds + 1 else p.rowEnds
    lastEos := k.isCtl 1, lastRow := k.rowEnd, shut := p.shut || (p.limit.isSome && k.isCtl 1)
    recorded := p.recorded || k.isCtl 1 })
  { c with fab := if k.isData && ptrgArm c.ptrg && ptrgSrc c.ptrg == code then { f with trigCount := f.trigCount + 1 } else f }

/-- A token leaves a stage (R15): the stage is free, and a drain has passed it (R230). -/
def Fabric.leaveStage (i cyc : Nat) (k : Token) (f : Fabric) : Fabric :=
  { f with
    stages := Map.erase f.stages i, freed := Map.set f.freed i cyc
    switch := if k.isCtl 2 then f.switch.map (fun w => { w with passed := w.passed ++ [i] }) else f.switch }

/-- A hop from a router stage. An output port's queue takes up to 16 tokens, also before a stream of its epoch starts (R200; R101 has a port
without a stream accept nothing: DESIGN CHOICE, log 22); a drain is absorbed at the edge at once, whatever the port's queue still holds
(DESIGN CHOICE, log 83). A token of the outgoing plane that reaches a target behind the drain goes no further (FS-01, FS-05; log 26). -/
def hopStage (r o : Nat) (s : State) : Out :=
  let f := s.core.fab
  let i := r * 30 + o
  match Map.find f.stages i with
  | none => .next s
  | some fl =>
    let moved := { fl with came := s.cyc }
    let left := f.leaveStage i s.cyc fl.tok
    match hopOf r o with
    | .router r' code =>
      let outs := ((f.routerCfg r').outputsOf r' code).map (fun o' => r' * 30 + o')
      if outs.isEmpty ∨ f.routerChanged r ≠ f.routerChanged r' ∨ !outs.all f.stageFree then .next s
      else .next (s.modFab (fun _ => left.putStages outs moved))
    | .slot t q =>
      if f.passed t ∧ !f.routerChanged r then .next (s.modFab (fun _ => left))
      else if f.routerChanged r ∧ !f.changed t then .next s
      else match left.enter t q moved with
        | some g => .next (s.modFab (fun _ => g))
        | none => .next s
    | .out k =>
      let e := f.epochIf (f.routerChanged r)
      if fl.tok.isCtl 2 then .next (s.modFab (fun _ => { left with switch := left.switch.map (fun w => { w with left := w.left ++ [k] }) }))
      else if 16 ≤ (Map.get [] f.outq k).length then .next s
      else .next (s.modCore (fun c =>
        ({ c with fab := { left with outq := Map.set left.outq k (Map.get [] left.outq k ++ [{ moved with epoch := e }]) } }).countPort e (16 + k) fl.tok))
    | .nowhere => .next s

/-- A hop from the internal result stages of a target into the first stages of its routes (R18, R58); where they were all taken, the first
of them is free now (R23). -/
def hopPipe (t : Nat) (s : State) : Out :=
  let f := s.core.fab
  match f.pipe t, (f.opOf t).pend with
  | fl :: rest, _ =>
    let is := f.firsts t 15
    if is.all f.stageFree then
      .next (s.modFab (fun f => { (f.setPipe t rest).putStages is { fl with came := s.cyc } with
        freed := if (f.cfg t).latency t ≤ rest.length + 2 then Map.set f.freed (6000 + t) s.cyc else f.freed }))
    else .next s
  | [], x :: rest =>
    let is := f.firsts t x.2
    if is.all f.stageFree then
      .next (s.modFab (fun f => (f.modOp t (fun o => { o with pend := rest })).putStages is { tok := x.1, born := s.cyc, came := s.cyc }))
    else .next s
  | [], [] => .next s

/-- Whether quiescence has closed an input port to its next token (R105 rule 2). -/
def Core.portClosed (c : Core) (k : Nat) (tok : Token) : Bool :=
  let p := c.fab.port c.fab.epoch k
  c.qreq.isSome && c.fab.switch.isNone && (p.shut ||
    match p.limit with
    | some n => decide (n ≤ p.rowEnds) && !(tok.isCtl 1 && p.lastRow)
    | none => false)

/-- The epoch whose tokens an input port delivers now (R230 rule 3), where its plane uses the port. -/
def Fabric.portEpoch (f : Fabric) (k : Nat) : Option (BitVec 32) :=
  let r := inRouter k
  if (f.routerCfg r).inUsed k then
    match f.switch with
    | none => some f.epoch
    | some w => if w.routers.contains r then (if w.cut then none else some (f.epoch + 1))
                else if w.entered.contains k then none else some f.epoch
  else none

/-- A hop from an input port's queue into every stage it forks to (R226 rule 2). -/
def hopIn (k : Nat) (s : State) : Out :=
  let f := s.core.fab
  match Map.get [] f.inq k, f.portEpoch k with
  | fl :: rest, some e =>
    let is := (f.routerCfg (inRouter k)).inStages k
    if fl.epoch ≠ e ∨ f.fencing ∨ s.core.portClosed k fl.tok ∨ !is.all f.stageFree then .next s
    else .next (s.modCore (fun c =>
      ({ c with fab := ({ c.fab with inq := Map.set c.fab.inq k rest }).putStages is { fl with born := s.cyc, came := s.cyc } }).countPort e k fl.tok))
  | _, _ => .next s

/-- A parity error of a router, met as a token hops through it (R28). -/
def hopError (r : Nat) (e : ParityError) (s : State) : Out :=
  if r < 64 ∧ s.core.fab.meets (128 + r) e then .next (s.parityError (128 + r) e) else .next s

/-- TOKEN_HOP (R15, R28). -/
def execTokenHop (src : HopSource) (s : State) : Out :=
  match src with
  | .stage r o => hopStage r o s
  | .pipe t => hopPipe t s
  | .inPort k => hopIn k s
  | .badStage r => hopError r .stage s
  | .badSwitch r => hopError r .switchField s

/-! ### Drains and change-over (R211, R230) -/

/-- Whether every stream of the epoch accepted on a port has delivered its EOS (R211). -/
def Core.portDone (c : Core) (epoch : BitVec 32) (port : Nat) : Bool :=
  !c.engines.any (fun g => g.2.queue.any (fun q => q.port == port && q.epoch == epoch) ||
    g.2.slots.any (fun t => t.2.cmd.port == port && t.2.cmd.epoch == epoch && !t.2.eos))

/-- DRAIN_ENTER (R211): at an input port of the outgoing plane, after one EOS where the epoch's last token was none; at a source
element, once it has emitted its EOS or at once where no launch runs. -/
def execDrainEnter (pt : DrainPoint) (s : State) : Out :=
  let f := s.core.fab
  match f.switch with
  | none => .next s
  | some w =>
    let p := f.plane w.out
    match pt with
    | .inPort k =>
      let is := p.inStages k
      if !p.inUsed k ∨ w.entered.contains k ∨ !s.core.portDone f.epoch k ∨ (Map.get [] f.inq k).any (fun x => x.epoch == f.epoch) ∨
          !is.all f.stageFree then .next s
      else if (f.port f.epoch k).lastEos then
        .next (s.modFab (fun f => { f.putStages is { tok := drainToken, born := s.cyc, came := s.cyc } with
          switch := some { w with entered := w.entered ++ [k] } }))
      else
        .next (s.modCore (fun c =>
          ({ c with fab := c.fab.putStages is { tok := eosToken, born := s.cyc, came := s.cyc } }).countPort f.epoch k eosToken))
    | .source t =>
      if !p.isSource t ∨ w.fired.contains t ∨ w.targets.contains t ∨ (f.launch = 1 ∧ !(f.opOf t).eosSent) ∨ !f.canEmit t 15 then .next s
      else .next (s.fireWith t false [] [] [(drainToken, 15)])

/-- ELEMENT_CHANGEOVER (R230 rule 1): after the drain fired the target, or at once where the outgoing plane leaves it OFF; its note goes with
the rest of its dynamic state (R210). A memory operator's writes are released (R22, R85): each of its accesses has been performed. -/
def execElementChangeover (t : Nat) (s : State) : Out :=
  let f := s.core.fab
  match f.switch with
  | none => .next s
  | some w =>
    if t < 192 ∧ !w.targets.contains t ∧ ((f.plane w.out).op t = 0 ∨ w.fired.contains t) ∧ (f.opOf t).out.isEmpty then
      .next (s.modFab (fun f => { f with
        notes := Map.erase f.notes t, lastFire := Map.erase f.lastFire t
        switch := some { w with targets := w.targets ++ [t], last := s.cyc } }))
    else .next s

/-- ROUTER_CHANGEOVER (R230 rule 2): every outgoing channel has passed its drain, and the slot has changed over. -/
def execRouterChangeover (r : Nat) (s : State) : Out :=
  let f := s.core.fab
  match f.switch with
  | none => .next s
  | some w =>
    let p := f.plane w.out
    if r < 64 ∧ !w.routers.contains r ∧ w.targets.contains (128 + r) ∧
        (List.range 30).all (fun o => p.sel r o == 0 || w.passed.contains (r * 30 + o)) then
      .next (s.modFab (fun f => { f with switch := some { w with routers := w.routers ++ [r], last := s.cyc } }))
    else .next s

/-- How many of the first `n` bits of a mask are set where a condition holds. -/
def countBits {w : Nat} (n : Nat) (x : BitVec w) (p : Nat → Bool) : Nat := ((List.range n).filter (fun k => x.getLsbD k && p k)).length

/-- Elements and routers that a plane uses lose their fault-seen bits (R27, R28): each fault was transient, and is counted (R401). -/
def Fabric.clearSeen (p : Plane) (f : Fabric) : Fabric :=
  { f with
    transient := f.transient + countBits 128 f.seenElem (fun e => p.op e != 0) + countBits 64 f.seenRouter p.routesThrough
    seenElem := (List.range 128).foldl (fun x e => if p.op e != 0 then x &&& ~~~(BitVec.ofNat 128 (2 ^ e)) else x) f.seenElem
    seenRouter := (List.range 64).foldl (fun x r => if p.routesThrough r then x &&& ~~~(BitVec.ofNat 64 (2 ^ r)) else x) f.seenRouter }

/-- SWITCH_COMPLETE (R230 rule 4). A launch that ran on until now ended normally with the outgoing plane's drain, whose fault-seen bits it clears
(R27). -/
def execSwitchComplete (s : State) : Out :=
  match s.core.fab.switch with
  | none => .next s
  | some w =>
    let p := s.core.fab.plane w.out
    if (List.range 192).all w.targets.contains ∧ (List.range 64).all w.routers.contains ∧
        (List.range 16).all (fun k => !p.outUsed k || w.left.contains k) then
      .next ((s.modFab (fun f => if f.launch = 1 ∧ !f.fencing then f.clearSeen p else f)).modCore (Core.completeSwitch w))
    else .next s

/-- TRIGGER_FIRE (R214); until it does, the control thread issues nothing, so that the trigger is ordered before a stream's acceptance. -/
def execTriggerFire (s : State) : Out :=
  let c := s.core
  if c.triggerDue then .next (s.modCore (Core.startSwitch (ptrgTarget c.ptrg) s.cyc)) else .next s

/-! ### The end of a launch (R77, R216) -/

/-- The plane whose launches run now: the outgoing one during a switch. -/
def Fabric.current (f : Fabric) : Option Nat :=
  match f.switch with
  | some w => some w.out
  | none => f.active

/-- Whether the launch's end conditions hold. -/
def Fabric.launchDone (f : Fabric) (p : Plane) : Bool :=
  let sinks := (List.range 192).filter p.isSink
  let outs := (List.range 16).filter p.outUsed
  (!sinks.isEmpty || !outs.isEmpty) &&
  sinks.all (fun t => (f.opOf t).heldEos && (f.opOf t).acks == 0) &&
  outs.all (fun k => (f.port f.epoch (16 + k)).recorded)

/-- A sink's held EOS is cleared, a source returns to its initial state (R77, R216). -/
def Fabric.endTarget (p : Plane) (f : Fabric) (t : Nat) : Fabric :=
  if p.isSink t then
    let g := [0, 1, 2, 3].foldl (fun g q => if (g.tok t q).isCtl 1 then g.dropSlot t q else g) f
    g.modOp t (fun o => { o with heldEos := false })
  else if p.isSource t then f.modOp t (fun o => { pend := o.pend, out := o.out })
  else f

/-- LAUNCH_END (R77); a trace walk of the launch ends first (R238). -/
def execLaunchEnd (s : State) : Out :=
  let f := s.core.fab
  match f.current with
  | none => .next s
  | some n =>
    let p := f.plane n
    if f.launch = 1 ∧ !f.fencing ∧ f.trace.node.isNone ∧ f.launchDone p then
      .next (s.modFab (fun f =>
        let g := ((List.range 192).foldl (Fabric.endTarget p) f).clearSeen p
        { g with launch := 2, ports := g.ports.map (fun e =>
            if e.1 / 32 = f.epoch.toNat % 2 then (e.1, { e.2 with rowEnds := 0, recorded := false }) else e) }))
    else .next s

/-! ### Where tokens wait (R25, R106) -/

/-- The ends of the channel that a stage belongs to (R225), within the 32 stages of R17. -/
def Fabric.ends (f : Fabric) (r o : Nat) : Nat → List Hop
  | 0 => []
  | n + 1 =>
    match hopOf r o with
    | .router r' code => ((f.routerCfg r').outputsOf r' code).flatMap (fun o' => f.ends r' o' n)
    | h => [h]

/-- The source of a channel, from one of its stages back (R224). -/
def Fabric.source (f : Fabric) (r o : Nat) : Nat → Source
  | 0 => .none
  | n + 1 =>
    match sourceOf r ((f.routerCfg r).sel r o) with
    | .stage r' o' => f.source r' o' n
    | x => x

/-- What names a token that waits in a stage (R25): element and port code. -/
def Fabric.stageName (f : Fabric) (i : Nat) : Nat × Nat :=
  match f.ends (i / 30) (i % 30) 33 with
  | .slot t q :: _ => (elementOf t, if t < 128 then q else 4)
  | _ =>
    match f.source (i / 30) (i % 30) 33 with
    | .lane t _ => (elementOf t, 7)
    | _ => (0, 7)

/-- Where a channel ends, by number: a target, or 1,000 + the number of an output port. -/
def Hop.place : Hop → Option Nat
  | .slot u _ => some u
  | .out k => some (1000 + k)
  | _ => none

/-- The targets and output ports that a target's results reach in one channel. -/
def Fabric.feeds (f : Fabric) (t : Nat) : List Nat :=
  (f.firsts t 15).flatMap (fun i => (f.ends (i / 30) (i % 30) 33).filterMap Hop.place)

/-- The targets from which one of `set` is reached through `n` channels or fewer. -/
def Fabric.upstream (f : Fabric) (set : List Nat) : Nat → List Nat
  | 0 => set
  | n + 1 =>
    let more := (List.range 192).filter (fun t => !set.contains t && (f.feeds t).any set.contains)
    if more.isEmpty then set else f.upstream (set ++ more) n

/-- The targets and output ports that tokens wait on, directly or through what they feed, for a port whose generator is stopped (R106). -/
def Core.holding (c : Core) : List Nat :=
  let f := c.fab
  let stopped := fun (k : Nat) => c.engines.any (fun g => g.2.slots.any (fun t => t.2.cmd.port == k && t.2.fault.isSome))
  let first := ((List.range 16).filter stopped).flatMap (fun k => (f.routerCfg (inRouter k)).inStages k |>.flatMap (fun i =>
    (f.ends (i / 30) (i % 30) 33).filterMap Hop.place)) ++ ((List.range 16).filter (fun k => stopped (16 + k))).map (fun k => 1000 + k)
  let grow := (List.range 192).foldl (fun l _ =>
    let more := l.flatMap (fun t => (f.feeds t).filter (fun u => !l.contains u))
    if more.isEmpty then l else l ++ more.eraseDups) first.eraseDups
  if first.isEmpty then [] else f.upstream grow 192

/-- Every token of the plane that is neither resident nor a held EOS, as (cycle of its emission, element, port code, what it waits on by
`Hop.place`); an access under way counts as its result and waits on nothing but itself, 2,000 (R25, R107). That the EOS
which a SINK holds (R77) keeps no core from its quiescent point is a DESIGN CHOICE (log 124). -/
def Fabric.waiting (f : Fabric) : List (Nat × Nat × Nat × Nat) :=
  let dest := fun (born i : Nat) =>
    let n := f.stageName i
    (born, n.1, n.2, ((f.ends (i / 30) (i % 30) 33).head?.bind Hop.place).getD 2000)
  let access := fun (born i : Nat) => let n := f.stageName i; (born, n.1, n.2, 2000)
  f.slots.filterMap (fun e =>
    let t := e.1 / 4
    if e.2.resident || ((f.opOf t).heldEos && e.2.fl.tok.isCtl 1) then none
    else some (e.2.fl.born, elementOf t, if t < 128 then e.1 % 4 else 4, t)) ++
  f.stages.map (fun e => dest e.2.born e.1) ++
  f.pipes.flatMap (fun e => e.2.flatMap (fun x => (f.firsts e.1 15).map (dest x.born))) ++
  f.ops.flatMap (fun e =>
    e.2.pend.flatMap (fun x => (f.firsts e.1 x.2).map (dest (Map.get 0 f.lastFire e.1))) ++
    e.2.out.flatMap (fun a =>
      if (f.firsts e.1 15).isEmpty then [(a.born, elementOf e.1, 7, 2000)] else (f.firsts e.1 15).map (access a.born)))

/-- The oldest of them, then the lowest element, then the lowest port (R25). -/
def oldest (l : List (Nat × Nat × Nat × Nat)) : Option (Nat × Nat × Nat × Nat) :=
  l.foldl (fun m x =>
    match m with
    | none => some x
    | some y =>
      if x.1 < y.1 ∨ (x.1 = y.1 ∧ (x.2.1 < y.2.1 ∨ (x.2.1 = y.2.1 ∧ x.2.2.1 < y.2.2.1))) then some x else some y) none

/-- The tokens that are not held, and the held ones (R106). -/
def Core.unheld (c : Core) : List (Nat × Nat × Nat × Nat) :=
  let h := c.holding
  c.fab.waiting.filter (fun x => !h.contains x.2.2.2)
def Core.heldTokens (c : Core) : Bool :=
  let h := c.holding
  c.fab.waiting.any (fun x => h.contains x.2.2.2)

/-- The fabric as far as it still belongs to the outgoing plane of a switch (R230): slots and accesses of targets, stages and results of
routers that have not changed over. -/
def Fabric.outgoing (w : Switch) (f : Fabric) : Fabric :=
  { f with
    slots := f.slots.filter (fun e => !w.targets.contains (e.1 / 4)), stages := f.stages.filter (fun e => !w.routers.contains (e.1 / 30))
    pipes := f.pipes.filter (fun e => !w.routers.contains (routerOf e.1))
    ops := f.ops.map (fun e => (e.1, { e.2 with
      pend := if w.routers.contains (routerOf e.1) then [] else e.2.pend
      out := if w.targets.contains e.1 then [] else e.2.out })) }

/-- SWITCH_STALL (R232): the outgoing plane is fenced and the switch completes, unless a generator, stream or copy (R5), is stopped on a
fault; the oldest token of the outgoing plane is named. Where no token of it is left, R232 names none: element 0 and port code 7 stand there
(DESIGN CHOICE, log 109). -/
def execSwitchStall (s : State) : Out :=
  let c := s.core
  match c.fab.switch with
  | none => .next s
  | some w =>
    let stopped := c.engines.any (fun g => g.2.slots.any (fun t => t.2.fault.isSome)) || c.chans.any (fun g => g.2.queue.any (fun x => x.fault.isSome))
    if c.qreq.isNone ∨ stopped ∨ s.cyc < max c.qcyc w.last + 4096 then .next s
    else
      let x := (oldest (c.fab.outgoing w).waiting).getD (0, 0, 7, 0)
      .next ((s.modCore (Core.stopPlane false false)).raiseAsync causeElem (elemValue w.out 5 x.2.2.1 x.2.1))

end Sys2Proof.Machine
end

