-- ==== Sys2Proof/Machine/PlaneInstr.lean ====
section
/-! DEFINITION. The configuration instructions CFG, CFGS, PSWITCH, PDRAIN, PTRIG at issue (spec/08_stream_instructions.md R208 to R214). -/

namespace Sys2Proof.Machine

/-! ### Loads -/

/-- Whether a load into a plane is refused (R208 check 3): ACTIVE, SWITCHING, or the target of an armed trigger. -/
def Core.loadRefused (p : Nat) (c : Core) : Bool :=
  (c.fab.plane p).state == .active || (c.fab.plane p).state == .switching || (ptrgArm c.ptrg && ptrgTarget c.ptrg == p)

/-- Accept a load (R185, R208): the loader's queue of 4, in which the load under way counts (DESIGN CHOICE, log 134); PSp becomes LOADING. -/
def acceptLoad (l : PlaneLoad) (s : State) : Out :=
  if 4 ≤ s.core.fab.loads.length then stall s
  else
    .next ((s.modFab (fun f =>
      { f.setPlane l.plane { f.plane l.plane with state := .loading } with loads := f.loads ++ [l] })).finish 4)

/-- CFG (R208). -/
def execCfg (p : BitVec 2) (a : Reg) (s : State) : Out :=
  guardExact [a] s (fun s => guardLine (s.reg a) s (fun s =>
    if s.core.loadRefused p.toNat then trap causeCfg (cfgPlane p.toNat) s
    else acceptLoad { plane := p.toNat, addr := (s.reg a).toNat } s))

/-- CFGS (R208): g[a] holds the address, g[b] the count; a count of zero completes at issue once the checks pass. -/
def execCfgs (p : BitVec 2) (b a : Reg) (s : State) : Out :=
  guardExact [a, b] s (fun s =>
    if (s.reg a).toNat % 4 ≠ 0 then trap causeAlign (s.reg a) s
    else if bufSize 1 < (s.reg a).toNat + 4 * (s.reg b).toNat then trap causeProt (s.reg a) s
    else if s.core.loadRefused p.toNat then trap causeCfg (cfgPlane p.toNat) s
    else if s.reg b = 0 then .next (s.finish 4)
    else acceptLoad { plane := p.toNat, addr := (s.reg a).toNat, bare := true, count := (s.reg b).toNat } s)

/-! ### Switches and triggers -/

/-- PSWITCH (R210). -/
def execPswitch (p : BitVec 2) (s : State) : Out :=
  if s.core.fab.switch.isSome then pause s
  else if (s.core.fab.plane p.toNat).state ≠ .ready then trap causeCfg (cfgPlane p.toNat) s
  else .next ((s.modCore (Core.startSwitch p.toNat s.cyc)).finish 4)

/-- PDRAIN (R212). -/
def execPdrain (s : State) : Out :=
  if s.core.fab.switch.isSome then pause s
  else match s.core.fab.active with
    | none => .next (s.finish 4)
    | some n => .next ((s.modCore (Core.startSwitch n s.cyc)).finish 4)

/-- PTRIG (R214). -/
def execPtrig (p : BitVec 2) (port a : Reg) (s : State) : Out :=
  guardExact [a] s (fun s =>
    if s.core.fab.switch.isSome then pause s
    else if (s.core.fab.plane p.toNat).state ≠ .ready then trap causeCfg (cfgPlane p.toNat) s
    else .next ((s.modCore (Core.setTrigger (ptrgOf (lowWord (s.reg a)) port.toNat p.toNat true))).finish 4))

end Sys2Proof.Machine
end

