-- ==== Sys2Proof/Machine/Operators.lean ====
section
/-! DEFINITION. The operators under the generic rule (spec/01_element.md R21, spec/03_element_operators.md R61 to R67, R75): what each
computes and how it fires. -/

namespace Sys2Proof.Machine

/-- Whether a target that holds an EOS as a sink with no launch running has its drains: they pass it (R22, R77). -/
def Fabric.drainDue (f : Fabric) (t : Nat) : Bool :=
  f.launch != 1 && !(f.live t).isEmpty && (f.live t).all (fun q => (f.tok t q).isCtl 2)

/-- Whether a target may fire an operator now: it is configured with it and holds no EOS as a sink, but for a drain (R21, R22, R77). -/
def Fabric.ready (f : Fabric) (t code : Nat) : Bool :=
  f.mayFire t && (f.cfg t).op t == code && (!(f.opOf t).heldEos || f.drainDue t)

/-- Every used port holds a token (R21 condition 1). -/
def Fabric.present (f : Fabric) (t : Nat) : Bool := ((f.cfg t).usedPorts t).all (fun q => (f.slot t q).isSome)

/-- What a generic operator computes from a, b, c; none where ACCEPT's bound fails (R75). -/
abbrev Operate := Plane → Nat → W32 → W32 → W32 → Option W32

/-- One firing under the generic rule (R21); ACCEPT passes its value with a's sideband (R75). -/
def genericFire (t : Nat) (operate : Operate) (s : State) : Out :=
  let f := s.core.fab
  if !f.present t ∨ !f.canEmit t 15 then .next s
  else
    let live := f.live t
    match f.check t live with
    | .err sub q => .next (s.raiseElem t sub q)
    | .ctl k => .next (s.fire t live false [(ctlToken k, 15)])
    | .bubbles => .next (s.fire t live false [(bubble, 15)])
    | .data sb =>
      match operate (f.cfg t) t (f.tok t 0).data (f.tok t 1).data (f.tok t 2).data with
      | some v => .next (s.fire t live true [(dataToken (if (f.cfg t).op t = opAccept then (f.tok t 0).sb else sb) v, 15)])
      | none => .next (s.raiseOperator t causeBound (f.tok t 1).data.toNat 3)

/-- The step of one operator: nothing where the target does not carry it. -/
def operatorStep (code t : Nat) (operate : Operate) (s : State) : Out :=
  if s.core.fab.ready t code then genericFire t operate s else .next s

/-! ### Values -/

/-- Whether the operator's format is signed (R64): FMT i32. -/
def Plane.signed (p : Plane) (t : Nat) : Bool := p.fmt t == 8

/-- The high 32 bits of the product, and the order, signed or unsigned (R64). -/
def mulHigh32 (signed : Bool) (a b : W32) : W32 :=
  if signed then (a.signExtend 64 * b.signExtend 64).extractLsb' 32 32 else (a.zeroExtend 64 * b.zeroExtend 64).extractLsb' 32 32
def less32 (signed : Bool) (a b : W32) : Bool := if signed then a.slt b else a.ult b

/-- FCVT on a token (R67): the value in the source format's token layout, the result in the destination's. -/
def fcvtToken (dst src : BitVec 4) (rm : BitVec 3) (sat : Bool) (x : W32) : W32 :=
  match fmtOf dst, fmtOf src with
  | some fd, some fs => tokenLayout fd (convert fs fd rm sat x.toNat)
  | _, _ => 0

/-- FADD (R61). -/
def faddValue : Operate := fun p t a b _ => some (fadd32 (p.rm t) (p.sat t) a b)
/-- FSUB (R61). -/
def fsubValue : Operate := fun p t a b _ => some (fsub32 (p.rm t) (p.sat t) a b)
/-- FMUL (R61). -/
def fmulValue : Operate := fun p t a b _ => some (fmul32 (p.rm t) (p.sat t) a b)
/-- FMA (R61). -/
def fmaValue : Operate := fun p t a b c => some (fma32 (p.rm t) (p.sat t) a b c)
/-- FMS (R61). -/
def fmsValue : Operate := fun p t a b c => some (fms32 (p.rm t) (p.sat t) a b c)
/-- FMIN (R63). -/
def fminValue : Operate := fun _ _ a b _ => some (fmin32 a b)
/-- FMAX (R63). -/
def fmaxValue : Operate := fun _ _ a b _ => some (fmax32 a b)
/-- FABS (R63). -/
def fabsValue : Operate := fun _ _ a _ _ => some (fabs32 a)
/-- FNEG (R63). -/
def fnegValue : Operate := fun _ _ a _ _ => some (fneg32 a)
/-- FRCP (R61, R62). -/
def frcpValue : Operate := fun p t a _ _ => some (frcp32 (p.rm t) (p.sat t) a)
/-- FRSQ (R61, R62). -/
def frsqValue : Operate := fun p t a _ _ => some (frsq32 (p.rm t) (p.sat t) a)
/-- FSQRT (R61, R62). -/
def fsqrtValue : Operate := fun p t a _ _ => some (fsqrt32 (p.rm t) (p.sat t) a)
/-- FDIV (R61, R62). -/
def fdivValue : Operate := fun p t a b _ => some (fdiv32 (p.rm t) (p.sat t) a b)
/-- FRND (R61, R62). -/
def frndValue : Operate := fun p t a _ _ => some (frnd32 (p.rm t) a)
/-- IADD (R64). -/
def iaddValue : Operate := fun _ _ a b _ => some (a + b)
/-- ISUB (R64). -/
def isubValue : Operate := fun _ _ a b _ => some (a - b)
/-- IMUL (R64). -/
def imulValue : Operate := fun _ _ a b _ => some (a * b)
/-- IMULH (R64). -/
def imulhValue : Operate := fun p t a b _ => some (mulHigh32 (p.signed t) a b)
/-- IMAD (R64). -/
def imadValue : Operate := fun _ _ a b c => some (a * b + c)
/-- IMIN (R64). -/
def iminValue : Operate := fun p t a b _ => some (if less32 (p.signed t) b a then b else a)
/-- IMAX (R64). -/
def imaxValue : Operate := fun p t a b _ => some (if less32 (p.signed t) a b then b else a)
/-- AND (R64). -/
def andValue : Operate := fun _ _ a b _ => some (a &&& b)
/-- OR (R64). -/
def orValue : Operate := fun _ _ a b _ => some (a ||| b)
/-- XOR (R64). -/
def xorValue : Operate := fun _ _ a b _ => some (a ^^^ b)
/-- ANDN (R64). -/
def andnValue : Operate := fun _ _ a b _ => some (a &&& ~~~b)
/-- SHL (R64). -/
def shlValue : Operate := fun _ _ a b _ => some (a <<< (b.toNat % 32))
/-- SHR (R64). -/
def shrValue : Operate := fun p t a b _ => some (if p.signed t then a.sshiftRight (b.toNat % 32) else a >>> (b.toNat % 32))
/-- CLZ (R64). -/
def clzValue : Operate := fun _ _ a _ _ => some (BitVec.ofNat 32 (leadingZeros 32 a.toNat))
/-- POPC (R64). -/
def popcValue : Operate := fun _ _ a _ _ => some (BitVec.ofNat 32 (oneBits 32 a.toNat))
/-- FCMP (R65). -/
def fcmpValue : Operate := fun p t a b _ => some (fcmp32 (BitVec.ofNat 3 (p.opf0 t)) a b)
/-- ICMP (R65). -/
def icmpValue : Operate := fun p t a b _ => some (if icond (BitVec.ofNat 3 (p.opf0 t)) (p.signed t) a b then 1 else 0)
/-- SEL (R66). -/
def selValue : Operate := fun _ _ a b c => some (if a ≠ 0 then b else c)
/-- PASS (R66). -/
def passValue : Operate := fun _ _ a _ _ => some (a)
/-- FCVT (R67). -/
def fcvtValue : Operate := fun p t a _ _ => some (fcvtToken (p.fmt t) (BitVec.ofNat 4 (p.opf0 t)) (p.rm t) (p.sat t) a)
/-- ACCEPT (R75): the tolerance is c where it is used, else K; the value passes unchanged, or its bound fails. -/
def acceptToken : Operate := fun p t a b c =>
  let half := p.fmt t == 2
  let tol := if p.used t 2 then c else p.k t
  if !isNaN32 tol && acceptPasses half (if half then a.toNat % 65536 else a.toNat) b tol then some a else none

/-! ### The steps -/

/-- FADD_ELEMENT (R61). -/
def execFaddElement (t : Nat) (s : State) : Out := operatorStep 0x01 t faddValue s
/-- FSUB_ELEMENT (R61). -/
def execFsubElement (t : Nat) (s : State) : Out := operatorStep 0x02 t fsubValue s
/-- FMUL_ELEMENT (R61). -/
def execFmulElement (t : Nat) (s : State) : Out := operatorStep 0x03 t fmulValue s
/-- FMA_ELEMENT (R61). -/
def execFmaElement (t : Nat) (s : State) : Out := operatorStep 0x04 t fmaValue s
/-- FMS_ELEMENT (R61). -/
def execFmsElement (t : Nat) (s : State) : Out := operatorStep 0x05 t fmsValue s
/-- FMIN_ELEMENT (R63). -/
def execFminElement (t : Nat) (s : State) : Out := operatorStep 0x06 t fminValue s
/-- FMAX_ELEMENT (R63). -/
def execFmaxElement (t : Nat) (s : State) : Out := operatorStep 0x07 t fmaxValue s
/-- FABS_ELEMENT (R63). -/
def execFabsElement (t : Nat) (s : State) : Out := operatorStep 0x08 t fabsValue s
/-- FNEG_ELEMENT (R63). -/
def execFnegElement (t : Nat) (s : State) : Out := operatorStep 0x09 t fnegValue s
/-- FRCP_ELEMENT (R61, R62). -/
def execFrcpElement (t : Nat) (s : State) : Out := operatorStep 0x0A t frcpValue s
/-- FRSQ_ELEMENT (R61, R62). -/
def execFrsqElement (t : Nat) (s : State) : Out := operatorStep 0x0B t frsqValue s
/-- FSQRT_ELEMENT (R61, R62). -/
def execFsqrtElement (t : Nat) (s : State) : Out := operatorStep 0x0C t fsqrtValue s
/-- FDIV_ELEMENT (R61, R62). -/
def execFdivElement (t : Nat) (s : State) : Out := operatorStep 0x0D t fdivValue s
/-- FRND_ELEMENT (R61, R62). -/
def execFrndElement (t : Nat) (s : State) : Out := operatorStep 0x0E t frndValue s
/-- IADD_ELEMENT (R64). -/
def execIaddElement (t : Nat) (s : State) : Out := operatorStep 0x10 t iaddValue s
/-- ISUB_ELEMENT (R64). -/
def execIsubElement (t : Nat) (s : State) : Out := operatorStep 0x11 t isubValue s
/-- IMUL_ELEMENT (R64). -/
def execImulElement (t : Nat) (s : State) : Out := operatorStep 0x12 t imulValue s
/-- IMULH_ELEMENT (R64). -/
def execImulhElement (t : Nat) (s : State) : Out := operatorStep 0x13 t imulhValue s
/-- IMAD_ELEMENT (R64). -/
def execImadElement (t : Nat) (s : State) : Out := operatorStep 0x14 t imadValue s
/-- IMIN_ELEMENT (R64). -/
def execIminElement (t : Nat) (s : State) : Out := operatorStep 0x15 t iminValue s
/-- IMAX_ELEMENT (R64). -/
def execImaxElement (t : Nat) (s : State) : Out := operatorStep 0x16 t imaxValue s
/-- AND_ELEMENT (R64). -/
def execAndElement (t : Nat) (s : State) : Out := operatorStep 0x17 t andValue s
/-- OR_ELEMENT (R64). -/
def execOrElement (t : Nat) (s : State) : Out := operatorStep 0x18 t orValue s
/-- XOR_ELEMENT (R64). -/
def execXorElement (t : Nat) (s : State) : Out := operatorStep 0x19 t xorValue s
/-- ANDN_ELEMENT (R64). -/
def execAndnElement (t : Nat) (s : State) : Out := operatorStep 0x1A t andnValue s
/-- SHL_ELEMENT (R64). -/
def execShlElement (t : Nat) (s : State) : Out := operatorStep 0x1B t shlValue s
/-- SHR_ELEMENT (R64). -/
def execShrElement (t : Nat) (s : State) : Out := operatorStep 0x1C t shrValue s
/-- CLZ_ELEMENT (R64). -/
def execClzElement (t : Nat) (s : State) : Out := operatorStep 0x1D t clzValue s
/-- POPC_ELEMENT (R64). -/
def execPopcElement (t : Nat) (s : State) : Out := operatorStep 0x1E t popcValue s
/-- FCMP_ELEMENT (R65). -/
def execFcmpElement (t : Nat) (s : State) : Out := operatorStep 0x20 t fcmpValue s
/-- ICMP_ELEMENT (R65). -/
def execIcmpElement (t : Nat) (s : State) : Out := operatorStep 0x21 t icmpValue s
/-- SEL_ELEMENT (R66). -/
def execSelElement (t : Nat) (s : State) : Out := operatorStep 0x22 t selValue s
/-- PASS_ELEMENT (R66). -/
def execPassElement (t : Nat) (s : State) : Out := operatorStep 0x23 t passValue s
/-- FCVT_ELEMENT (R67). -/
def execFcvtElement (t : Nat) (s : State) : Out := operatorStep 0x28 t fcvtValue s
/-- ACCEPT_ELEMENT (R75). -/
def execAcceptElement (t : Nat) (s : State) : Out := operatorStep 0x3E t acceptToken s

/-- The generic operators by code (R57). -/
def operateOf (code : Nat) : Option Operate :=
  match code with
  | 0x01 => some faddValue
  | 0x02 => some fsubValue
  | 0x03 => some fmulValue
  | 0x04 => some fmaValue
  | 0x05 => some fmsValue
  | 0x06 => some fminValue
  | 0x07 => some fmaxValue
  | 0x08 => some fabsValue
  | 0x09 => some fnegValue
  | 0x0A => some frcpValue
  | 0x0B => some frsqValue
  | 0x0C => some fsqrtValue
  | 0x0D => some fdivValue
  | 0x0E => some frndValue
  | 0x10 => some iaddValue
  | 0x11 => some isubValue
  | 0x12 => some imulValue
  | 0x13 => some imulhValue
  | 0x14 => some imadValue
  | 0x15 => some iminValue
  | 0x16 => some imaxValue
  | 0x17 => some andValue
  | 0x18 => some orValue
  | 0x19 => some xorValue
  | 0x1A => some andnValue
  | 0x1B => some shlValue
  | 0x1C => some shrValue
  | 0x1D => some clzValue
  | 0x1E => some popcValue
  | 0x20 => some fcmpValue
  | 0x21 => some icmpValue
  | 0x22 => some selValue
  | 0x23 => some passValue
  | 0x28 => some fcvtValue
  | 0x3E => some acceptToken
  | _ => none

/-- ELEMENT_FIRE (R21, R25, R28): a parity error is found before the token or field is used; else a generic operator fires. -/
def execElementFire (t : Nat) (parity : Option ParityError) (s : State) : Out :=
  let f := s.core.fab
  let code := (f.cfg t).op t
  match parity with
  | some e => if t < 192 ∧ f.meets t e then .next (s.parityError t e) else .next s
  | none =>
    match operateOf code with
    | some g => if f.ready t code then genericFire t g s else .next s
    | none => .next s

end Sys2Proof.Machine
end

