-- ==== Sys2Proof/Machine/OwnRules.lean ====
section
/-! DEFINITION. The operators with a firing rule of their own (spec/03_element_operators.md R68 to R77): BXQ, FACC, IACC, CTR, STEER,
MERGE, CARRY, RANK, CONST, SINK. -/

namespace Sys2Proof.Machine

/-- Change the operator state of a target. -/
def State.setOpState (t : Nat) (g : OpState → OpState) (s : State) : State := s.modFab (fun f => f.modOp t g)

/-- Whether a port has no token. -/
def Fabric.vacant (f : Fabric) (t q : Nat) : Bool := (f.slot t q).isNone

/-- A drain passes a target whose output goes nowhere (R22, R77). -/
def State.drainHere (t : Nat) (drops : List Nat) (s : State) : State := (s.fireWith t false [] drops []).modFab (Fabric.drained t)

/-! ### BXQ (R68) -/

/-- The tokens of a closed block (R29, R35). -/
def bxTokens (rm : BitVec 3) (sat : Bool) (d : Nat) (block : List (W32 × BitVec 2)) : List (Token × Nat) :=
  let q := quantiseBx (block.map (fun x => f32 x.1)) rm sat d
  (q.1.zip block).map (fun x => (dataToken x.2.2 (BitVec.ofNat 32 (x.1 + q.2.1 * 256 + q.2.2 * 65536)), 15))

/-- BXQ_ELEMENT (R68): a data token joins the block, which closes at 32 tokens or a row end; a bubble or EOS closes a block that is
not empty and passes behind it. While it emits, it consumes nothing. -/
def execBxqElement (t : Nat) (s : State) : Out :=
  let f := s.core.fab
  let p := f.cfg t
  let o := f.opOf t
  let close := fun (b : List (W32 × BitVec 2)) => bxTokens (p.rm t) (p.sat t) (p.opf0 t) b
  if !f.ready t 0x29 ∨ f.vacant t 0 ∨ !f.canEmit t 15 then .next s
  else
    let a := f.tok t 0
    if a.isData then
      let b := o.block ++ [(a.data, a.sb)]
      if b.length = 32 ∨ a.sb = 1 ∨ a.sb = 3 then
        .next (((s.setOpState t (fun o => { o with block := [] })).fireWith t true [0] [] []).setOpState t (fun o => { o with pend := close b }))
      else .next ((s.setOpState t (fun o => { o with block := b })).fireWith t true [0] [] [])
    else if o.block ≠ [] ∧ (a.isBubble ∨ a.isCtl 1) then
      .next (s.setOpState t (fun o => { o with block := [], pend := close o.block }))
    else .next (s.fireWith t false [] [0] [(a, 15)])

/-! ### FACC and IACC (R69) -/

/-- One firing of a reduction. A control token on a closes and passes by itself. What stands on a b that is not resident besides its start
values is the model's choice (DESIGN CHOICE, log 24): EOS and end-of-tile are dropped, a drain stays until a's drain clears it, and a bubble
where a start value is due is ELEM 0x4. The first value without a start value, and a start value with no value, leave as they came, a NaN with its
payload too (DEDUCED, log 123). A bubble on a is no data firing: it leaves a resident b as it is (R14). -/
def accStep (code t : Nat) (add : Plane → W32 → W32 → W32) (s : State) : Out :=
  let f := s.core.fab
  let p := f.cfg t
  let o := f.opOf t
  let a := f.tok t 0
  let b := f.tok t 1
  let stream := p.opf0 t % 2 == 1
  if !f.ready t code then .next s
  else if p.used t 1 ∧ !f.vacant t 1 ∧ (b.isCtl 1 ∨ b.isCtl 3) then .next (s.modFab (fun g => g.dropSlot t 1))
  else if f.vacant t 0 ∨ !f.canEmit t 15 then .next s
  else if a.ctl then
    .next ((s.setOpState t (fun o => { o with accOpen := false, acc := 0 })).fireWith t false [] [0]
      ((if o.accOpen then [(dataToken 3 o.acc, 15)] else []) ++ [(a, 15)]))
  else if a.isBubble ∧ stream then .next (s.fireWith t false [] [0] [])
  else
    let starts := p.used t 1 && (a.isBubble || !o.accOpen)
    let takes := if starts then [0, 1] else [0]
    let kept := (f.slot t 1).any (fun v => v.resident)
    if starts ∧ f.vacant t 1 then .next s
    else if starts ∧ !b.isData then .next (s.raiseElem t (if b.ctl then 3 else 4) 1)
    else if a.isBubble then .next (s.fireWith t false [] (if kept then [0] else takes) [(dataToken 1 (if starts then b.data else 0), 15)])
    else
      let v := if starts then add p b.data a.data else if o.accOpen then add p o.acc a.data else a.data
      if a.sb = 3 ∨ (a.sb = 1 ∧ !stream) then
        .next ((s.setOpState t (fun o => { o with accOpen := false, acc := 0 })).fireWith t true takes [] [(dataToken a.sb v, 15)])
      else .next ((s.setOpState t (fun o => { o with accOpen := true, acc := v })).fireWith t true takes [] [])

/-- FACC_ELEMENT (R69). -/
def execFaccElement (t : Nat) (s : State) : Out := accStep 0x30 t (fun p x v => fadd32 (p.rm t) (p.sat t) x v) s

/-- IACC_ELEMENT (R69). -/
def execIaccElement (t : Nat) (s : State) : Out := accStep 0x31 t (fun _ x v => x + v) s

/-! ### CTR (R70) -/

/-- II, FLG, THR, W. -/
def Plane.ii (p : Plane) (t : Nat) : Nat := p.opf0 t % 16
def Plane.flg (p : Plane) (t : Nat) : Bool := p.opf0 t / 16 % 2 == 1
def Plane.thr (p : Plane) (t : Nat) : Bool := p.opf0 t / 32 % 2 == 1
def Plane.window (p : Plane) (t : Nat) : Nat := p.opf1 t % 256

/-- Credits; they start at W. -/
def OpState.credit (o : OpState) (w : Nat) : Nat := if o.creditsSet then o.credits else w

/-- An index token's DATA. -/
def ctrIndex (flg : Bool) (r : CtrRun) : W32 :=
  if flg then BitVec.ofNat 32 ((r.i == 0).toNat * 2 ^ 31 + (r.i + 1 == r.n).toNat * 2 ^ 30 + r.i) else BitVec.ofNat 32 r.i

/-- Whether a source element may emit now (R216): a launch of its plane runs. -/
def Fabric.sourceRuns (f : Fabric) (t : Nat) : Bool := f.launch == 1 && !f.changed t

/-- A run begins; with FLG, one longer than 2^30 is ELEM 0x6 (R70, R87), whose port code is that of a where a is used, else 7 (DESIGN CHOICE, log
87). -/
def ctrBegin (t n : Nat) (fin : BitVec 2) (before : State) (s : State) : Out :=
  let p := before.core.fab.cfg t
  if p.flg t ∧ 2 ^ 30 < n then .next (before.raiseElem t 6 (if p.used t 0 then 0 else 7))
  else .next (s.setOpState t (fun o => { o with started := true, run := some { i := 0, n := n, fin := fin } }))

/-- The first part of CTR's cycle: with no run, a run begins, or a bubble, EOS or control token passes; none where nothing happens. -/
def ctrStart (t : Nat) (s : State) : Option Out :=
  let f := s.core.fab
  let p := f.cfg t
  let o := f.opOf t
  let free := f.canEmit t 15
  if o.run.isSome then none
  else if !p.used t 0 then
    if !f.sourceRuns t then none
    else if !o.started then
      if p.k t ≠ 0 then some (ctrBegin t (p.k t).toNat 3 s s)
      else if free then some (.next ((s.fireWith t false [] [] [(bubble, 15)]).setOpState t (fun o => { o with started := true })))
      else none
    else if !o.eosSent ∧ free then
      some (.next ((s.fireWith t false [] [] [(eosToken, 15)]).setOpState t (fun o => { o with eosSent := true })))
    else none
  else if f.vacant t 0 then none
  else
    let a := f.tok t 0
    if a.isData ∧ a.data ≠ 0 then
      some (ctrBegin t a.data.toNat (if a.sb = 3 then 3 else 1) s (s.fireWith t true [0] [] []))
    else if !free then none
    else if a.isData then some (.next (s.fireWith t true [0] [] [(bubble, 15)]))
    else some (.next (s.fireWith t false [] [0] [(a, 15)]))

/-- The second part: a token on the throttle port gives a credit; a control token there is dropped. -/
def ctrCredit (t : Nat) (s : State) : State :=
  let f := s.core.fab
  let w := (f.cfg t).window t
  if (f.cfg t).thr t ∧ !f.vacant t 1 then
    s.modFab (fun g =>
      let h := g.dropSlot t 1
      if (f.tok t 1).ctl then h else h.modOp t (fun o => { o with credits := min (o.credit w + 1) w, creditsSet := true }))
  else s

/-- The third part: the next index, once II cycles have passed and a credit is there. -/
def ctrEmit (t : Nat) (s : State) : State :=
  let f := s.core.fab
  let p := f.cfg t
  let o := f.opOf t
  let w := p.window t
  match o.run with
  | none => s
  | some r =>
    if (o.lastIndex.isSome ∧ s.cyc < o.lastEmit + p.ii t) ∨ (p.thr t ∧ o.credit w = 0) ∨ !f.canEmit t 15 then s
    else
      let sb := if r.i + 1 = r.n then r.fin else 0
      (s.fireWith t false [] [] [(dataToken sb (ctrIndex (p.flg t) r), 15)]).setOpState t (fun o =>
        { o with credits := if p.thr t then o.credit w - 1 else o.credits, creditsSet := p.thr t, lastIndex := some r.i, lastEmit := s.cyc,
                 run := if r.i + 1 = r.n then none else some { r with i := r.i + 1 } })

/-- CTR_ELEMENT (R70). -/
def execCtrElement (t : Nat) (s : State) : Out :=
  if !s.core.fab.ready t opCtr then .next s
  else match ctrStart t s with
    | some r => r
    | none => .next (ctrEmit t (ctrCredit t s))

/-! ### STEER, MERGE, CARRY (R71 to R73) -/

/-- STEER_ELEMENT (R71). -/
def execSteerElement (t : Nat) (s : State) : Out :=
  let f := s.core.fab
  if !f.ready t opSteer ∨ !f.present t then .next s
  else
    let live := f.live t
    let tm := (f.cfg t).opf0 t % 16
    let send := fun (data : Bool) (k : Token) (mask : Nat) =>
      if f.canEmit t mask then Host.Outcome.next (s.fire t live data [(k, mask)]) else .next s
    match f.check t live with
    | .err sub q => .next (s.raiseElem t sub q)
    | .data _ => send true (f.tok t 0) (if (f.tok t 1).data ≠ 0 then tm else 15 - tm)
    | .bubbles => send false bubble 15
    | .ctl k => send false (ctlToken k) 15

/-- Pass the token of port `q`, dropping the tokens of some ports. -/
def passToken (t q : Nat) (drops : List Nat) (s : State) : Out :=
  let f := s.core.fab
  if f.canEmit t 15 then .next (s.fireWith t (drops.all (fun q => (f.tok t q).isData)) [] drops [(f.tok t q, 15)]) else .next s

/-- MERGE by select (R72). -/
def mergeSelect (t : Nat) (s : State) : Out :=
  let f := s.core.fab
  let c := f.tok t 2
  if f.vacant t 2 then .next s
  else if c.isBubble then .next (s.raiseElem t 3 2)
  else if c.ctl then
    match [0, 1].find? (fun q => !f.vacant t q && f.tok t q != c) with
    | some q => .next (s.raiseElem t 3 q)
    | none => if f.vacant t 0 ∨ f.vacant t 1 then .next s else passToken t 2 [0, 1, 2] s
  else
    let q := if c.data ≠ 0 then 0 else 1
    if f.vacant t q then .next s
    else if (f.tok t q).ctl then .next (s.raiseElem t 3 q)
    else passToken t q [q, 2] s

/-- MERGE by arrival (R72, ARB). Where the control kinds of its inputs differ TVAL names b, and in the other form the first port that differs
(DESIGN CHOICE, log 86). -/
def mergeArrive (t : Nat) (s : State) : Out :=
  let f := s.core.fab
  if !f.vacant t 0 ∧ !(f.tok t 0).ctl then passToken t 0 [0] s
  else if !f.vacant t 1 ∧ !(f.tok t 1).ctl then passToken t 1 [1] s
  else if f.vacant t 0 ∨ f.vacant t 1 then .next s
  else if f.tok t 0 ≠ f.tok t 1 then .next (s.raiseElem t 3 1)
  else passToken t 0 [0, 1] s

/-- MERGE_ELEMENT (R72). -/
def execMergeElement (t : Nat) (s : State) : Out :=
  if !s.core.fab.ready t opMerge then .next s
  else if (s.core.fab.cfg t).opf0 t % 2 = 1 then mergeArrive t s
  else mergeSelect t s

/-- CARRY_ELEMENT (R73). -/
def execCarryElement (t : Nat) (s : State) : Out :=
  let f := s.core.fab
  let a := f.tok t 0
  let b := f.tok t 1
  let c := f.tok t 2
  if !f.ready t opCarry then .next s
  else if !(f.opOf t).looping then
    if f.vacant t 0 ∨ !f.canEmit t 15 then .next s
    else if a.isData then
      .next ((s.fireWith t true [] [0] [(a, 15)]).setOpState t (fun o => { o with looping := true }))
    else .next (s.fireWith t false [] [0] [(a, 15)])
  else if f.vacant t 2 then .next s
  else if !c.isData then .next (s.raiseElem t 6 2)
  else if c.data = 0 then .next ((s.fireWith t true [] [2] []).setOpState t (fun o => { o with looping := false }))
  else if f.vacant t 1 then .next s
  else if !b.isData then .next (s.raiseElem t 6 1)
  else passToken t 1 [1, 2] s

/-! ### RANK (R74) -/

/-- Beats: a NaN is never kept, −0 equals +0, ties go to the lower index. -/
def beats (p : W32 × W32) (q : Option (W32 × W32)) : Bool :=
  if isNaN32 p.1 then false
  else match q with
    | none => true
    | some r => lt32 r.1 p.1 || (eq32 p.1 r.1 && decide (p.2.toNat < r.2.toNat))

/-- A pair as two tokens to the routes of a mask, or a bubble. -/
def pairTokens (p : Option (W32 × W32)) (sb : BitVec 2) (mask : Nat) : List (Token × Nat) :=
  match p with
  | some q => [(dataToken 0 q.1, mask), (dataToken sb q.2, mask)]
  | none => [(bubble, mask)]

/-- RANK's tokens and state for an incoming pair. -/
def rankPair (keep : Nat) (p : W32 × W32) (sb : BitVec 2) (o : OpState) : List (Token × Nat) × OpState :=
  let wins := beats p o.kept
  let kept := if wins then some p else o.kept
  let loser := if wins then o.kept else some p
  let passed := if loser.isSome ∧ o.held.isSome then pairTokens o.held 0 (15 - keep) else []
  let held := if loser.isSome then loser else o.held
  if sb = 1 ∨ sb = 3 then
    (passed ++ pairTokens held sb (15 - keep) ++ pairTokens kept sb keep, { o with score := none, held := none, kept := none })
  else (passed, { o with score := none, held := held, kept := kept })

/-- RANK_ELEMENT (R74): one token in; it holds its input while it emits. -/
def execRankElement (t : Nat) (s : State) : Out :=
  let f := s.core.fab
  let o := f.opOf t
  let keep := (f.cfg t).opf0 t % 16
  if !f.ready t opRank ∨ f.vacant t 0 ∨ o.pend ≠ [] then .next s
  else
    let a := f.tok t 0
    if !a.isData then
      if o.score.isSome then .next (s.raiseElem t 6 0)
      else if a.isBubble then .next (s.fireWith t false [] [0] [(bubble, 15 - keep), (bubble, keep)])
      else if f.canEmit t 15 then .next (s.fireWith t false [] [0] [(a, 15)])
      else .next s
    else match o.score with
      | none =>
        if a.sb ≠ 0 then .next (s.raiseElem t 6 0)
        else .next ((s.fireWith t true [] [0] []).setOpState t (fun o => { o with score := some a.data }))
      | some x =>
        let r := rankPair keep (x, a.data) a.sb o
        .next ((s.fireWith t true [] [0] []).setOpState t (fun _ => { r.2 with pend := r.1 }))

/-! ### CONST and SINK (R76, R77) -/

/-- The constant: K as data, or with CTL a control token of kind K[3:0]. -/
def constToken (p : Plane) (t : Nat) (sb : BitVec 2) : Token :=
  if p.opf0 t % 2 = 1 then ctlToken ((p.k t).toNat % 16) else dataToken sb (p.k t)

/-- CONST_ELEMENT (R76). -/
def execConstElement (t : Nat) (s : State) : Out :=
  let f := s.core.fab
  let p := f.cfg t
  let o := f.opOf t
  if !f.ready t opConst ∨ !f.canEmit t 15 then .next s
  else if p.used t 0 then
    if f.vacant t 0 then .next s
    else
      let a := f.tok t 0
      if a.isData then .next (s.fire t (f.live t) true [(constToken p t a.sb, 15)])
      else .next (s.fire t (f.live t) false [(a, 15)])
  else if !f.sourceRuns t then .next s
  else if o.count < p.opf1 t then
    .next ((s.fireWith t false [] [] [(constToken p t (if o.count + 1 = p.opf1 t then 3 else 0), 15)]).setOpState t
      (fun o => { o with count := o.count + 1 }))
  else if o.eosSent then .next s
  else .next ((s.fireWith t false [] [] [(eosToken, 15)]).setOpState t (fun o => { o with eosSent := true }))

/-- SINK_ELEMENT (R77): EOS is held in its slot; everything else is consumed. -/
def execSinkElement (t : Nat) (s : State) : Out :=
  let f := s.core.fab
  let a := f.tok t 0
  if !f.ready t opSink ∨ f.vacant t 0 then .next s
  else if a.isCtl 1 then .next (s.setOpState t (fun o => { o with heldEos := true }))
  else if a.isCtl 2 then .next (s.drainHere t [0])
  else .next (s.fireWith t a.isData [] [0] [])

end Sys2Proof.Machine
end

