-- ==== Sys2Proof/Machine/FabricMemory.lean ====
section
/-! DEFINITION. The memory operators LD, ST, ATADD (spec/03_element_operators.md R78 to R86): their firings, and the accesses performed
in firing order, by themselves or by a bank's grant (R99, R100). -/

namespace Sys2Proof.Machine

/-- Whether an access ends within its space (R78). -/
def State.fabInRange (s : State) (sp addr n : Nat) : Bool :=
  if sp = 2 then decide (addr + n ≤ s.core.clsz.toNat) else decide (addr + n ≤ bufSize (fabSpace sp))

/-- The kind of access of an operator code. -/
def accessKind (code : Nat) : Nat := if code = opLd then 0 else if code = opSt then 1 else 2

/-- The access of a data firing (R78, R81 to R83). -/
def Fabric.accessOf (f : Fabric) (t cyc : Nat) : FabAccess :=
  let p := f.cfg t
  { kind := accessKind (p.op t), space := p.opf0 t % 4, addr := (p.k t).toNat + (f.tok t 0).data.toNat * fmtSize (p.fmt t), fmt := p.fmt t,
    rm := p.rm t, ot := p.ot t, et := p.est t 1, value := (f.tok t 1).data, sb := (f.tok t 0).sb,
    off := p.used t 3 && (f.tok t 3).data == 0, born := cyc }

/-- Queue an access of a target in firing order (R79); a write counts as outstanding (R82). -/
def Fabric.queueAccess (t : Nat) (a : FabAccess) (f : Fabric) : Fabric :=
  f.modOp t (fun o => { o with out := o.out ++ [a], acks := if a.kind ≠ 0 ∧ a.pass.isNone ∧ !a.off then o.acks + 1 else o.acks })

/-- A token passes a memory operator behind its accesses; at a sink it goes no further, and EOS is held (R77). -/
def memPass (t : Nat) (live : List Nat) (k : Token) (s : State) : State :=
  if (s.core.fab.cfg t).isSink t then
    if k.isCtl 1 then (s.fireWith t false [] [] []).modFab (fun f => f.modOp t (fun o => { o with heldEos := true }))
    else if k.isCtl 2 then (s.fireWith t false [] live []).modFab (Fabric.drained t)
    else s.fireWith t false [] live []
  else
    let u := (s.fireWith t false [] live []).modFab (Fabric.queueAccess t { pass := some k, born := s.cyc })
    if k.isCtl 2 then u.modFab (Fabric.drained t) else u

/-- Whether ST's store is an estimate into an exact line (R82), or into cls:, which holds exact data only (R6). -/
def State.storeTypeFails (s : State) (a : FabAccess) : Bool :=
  a.et && (a.space == 2 || !(s.core.buf (fabSpace a.space)).anyEst a.addr (fmtSize a.fmt))

/-- A firing of LD, ST or ATADD (R79 to R83). An address left over at the stream's end meets the EOS of the other port, which is an ELEM of R21
(DESIGN CHOICE, log 125). -/
def memFire (code t : Nat) (s : State) : Out :=
  let f := s.core.fab
  let p := f.cfg t
  if !f.ready t code ∨ !f.present t ∨ 16 ≤ (f.opOf t).out.length ∨ p.latency t - 1 ≤ (f.pipe t).length then .next s
  else
    let live := f.live t
    match f.check t live with
    | .err sub q => .next (s.raiseElem t sub q)
    | .ctl k => .next (memPass t live (ctlToken k) s)
    | .bubbles => .next (memPass t live bubble s)
    | .data _ =>
      let a := f.accessOf t s.cyc
      if !a.off ∧ !s.fabInRange a.space a.addr (fmtSize a.fmt) then .next (s.raiseOperator t causeProt a.addr a.space)
      else if !a.off ∧ code = opSt ∧ s.storeTypeFails a then .next (s.raiseOperator t causeType a.addr a.space)
      else .next ((s.fireWith t true (p.usedPorts t) [] []).modFab (Fabric.queueAccess t a))

/-- LD_ELEMENT (R81). -/
def execLdElement (t : Nat) (s : State) : Out := memFire opLd t s

/-- ST_ELEMENT (R82). -/
def execStElement (t : Nat) (s : State) : Out := memFire opSt t s

/-- ATADD_ELEMENT (R83). -/
def execAtaddElement (t : Nat) (s : State) : Out := memFire opAtadd t s

/-! ### Performing an access -/

/-- The bytes of the space, and writing them, at its bank (R99, R248): the write is performed there at once, and R85 says from when another agent
may count on it (DEDUCED, log 103). -/
def State.fabRead (s : State) (a : FabAccess) : Nat :=
  let n := fmtSize a.fmt
  leValue (if a.space = 2 then s.clsRead a.addr n else (s.core.buf (fabSpace a.space)).read a.addr n)
def State.fabWrite (a : FabAccess) (v : Nat) (s : State) : State :=
  let bs := leBytes (fmtSize a.fmt) v
  if a.space = 2 then s.clsWrite a.addr bs else s.modBuf (fabSpace a.space) (Buffer.write a.addr bs)

/-- The sum of an ATADD (R83): fp32 rounded by RM, integers wrap. -/
def atSum (a : FabAccess) (old : Nat) : W32 :=
  if a.fmt = 0 then fadd32 a.rm false (BitVec.ofNat 32 old) a.value else BitVec.ofNat 32 old + a.value

/-- The old value on a token (R29). -/
def loadToken (a : FabAccess) (old : Nat) : W32 :=
  match fmtOf a.fmt with
  | some fm => tokenLayout fm old
  | none => 0

/-- The head access leaves; its result joins the result stages, unless the target is a sink or its plane is gone (R81, R82, R26). -/
def Fabric.retireAccess (t cyc : Nat) (k : Option Token) (f : Fabric) : Fabric :=
  match (f.opOf t).out with
  | [] => f
  | a :: rest =>
    let write := decide (a.kind ≠ 0) && a.pass.isNone && !a.off && !a.lost
    let g := f.modOp t (fun o => { o with out := rest, acks := if write then o.acks - 1 else o.acks })
    match k with
    | some tok =>
      if a.lost ∨ f.fencing ∨ (f.firsts t 15).isEmpty then g.settle
      else (g.setPipe t (g.pipe t ++ [{ tok := tok, born := cyc, came := cyc }])).settle
    | none => g.settle

/-- Whether the head access waits for a line's F bit (R81, R83). -/
def State.fabWaits (s : State) (a : FabAccess) : Bool := s.core.fabWaits a

/-- Whether its types fail as it is performed (R81 to R83): an estimate line under an exact LD or ATADD, or an estimate that ST or ATADD would
write into a line that is exact by now; cls: reads exact and takes no estimate (R6). -/
def State.fabTypeFails (s : State) (a : FabAccess) : Bool :=
  let est := a.space != 2 && (s.core.buf (fabSpace a.space)).anyEst a.addr (fmtSize a.fmt)
  (a.kind != 1 && est && !a.ot) || (a.kind != 0 && a.et && !est)

/-- Perform the head access of a target (R81 to R84). One that traps leaves without an effect (R86). -/
def performHead (t : Nat) (s : State) : Out :=
  let f := s.core.fab
  match (f.opOf t).out with
  | [] => .next s
  | a :: _ =>
    match a.pass with
    | some k => .next (s.modFab (Fabric.retireAccess t s.cyc (some k)))
    | none =>
      if a.off then .next (s.modFab (Fabric.retireAccess t s.cyc (some (dataToken a.sb 0))))
      else if s.fabWaits a then .next s
      else if s.fabTypeFails a then
        let u := s.modFab (Fabric.retireAccess t s.cyc none)
        if a.lost then .next u else .next (u.raiseOperator t causeType a.addr a.space)
      else if a.space = 2 ∧ a.kind ≠ 1 ∧ s.clsBad a.addr (fmtSize a.fmt) then
        let u := s.modFab (Fabric.retireAccess t s.cyc none)
        if a.lost then .next u else .next (u.raiseOperator t causeProt a.addr a.space)
      else
        let old := s.fabRead a
        let u := if a.kind = 0 then s else s.fabWrite a (if a.kind = 2 then (atSum a old).toNat else a.value.toNat)
        .next (u.modFab (Fabric.retireAccess t s.cyc
          (some (dataToken a.sb (if a.kind = 0 then loadToken a old else if a.kind = 2 then BitVec.ofNat 32 old else 0)))))

/-- The head access of a target at the bank that it asks, if it asks one of act: or acc: (R99). -/
def fabricBank (t : Nat) (s : State) : Out :=
  match s.core.fabricReqs.find? (fun r => r.agent == .fabric t) with
  | none => performHead t s
  | some r => if s.core.bankFree s.cluster s.cyc r then performHead t (s.modCore (Core.bankServed r)) else .next s

/-- FABRIC_ACCESS_PERFORMED (R82): in a buffer, where nothing with precedence stands at its bank (R99). -/
def execFabricAccessPerformed (t : Nat) (s : State) : Out := fabricBank t s

/-! ### Banks (R99, R100) -/

/-- The request that a bank grants (R99): of those that stand there, one that nothing precedes at any of its banks. -/
def Core.bankChoice (buf : BitVec 3) (bank : Nat) (k : Cluster) (cyc : Nat) (c : Core) : Option BankReq :=
  (c.standing k).find? (fun r => r.buf == buf && r.banks.contains bank && c.bankFree k cyc r)

/-- BANK_GRANT (R99, R100): a bank grants one of the requests that stand there: an access of the fabric is performed; that of another agent is
performed by its next step, before which nothing else goes at its banks. -/
def execBankGrant (buf : BitVec 3) (bank : Nat) (s : State) : Out :=
  match s.core.bankChoice buf bank s.cluster s.cyc with
  | none => .next s
  | some r =>
    match r.agent with
    | .fabric t => fabricBank t s
    | _ => .next (s.modCore (fun c => { c with bankReqs := c.bankReqs.map (fun x => if x.agent = r.agent then { x with granted := true } else x) }))

/-! ### The firing of a target -/

/-- The firing of a target by its operator code (R57). -/
def fireTarget (t : Nat) (s : State) : Out :=
  match (s.core.fab.cfg t).op t with
  | 0x29 => execBxqElement t s
  | 0x30 => execFaccElement t s
  | 0x31 => execIaccElement t s
  | 0x34 => execCtrElement t s
  | 0x38 => execSteerElement t s
  | 0x39 => execMergeElement t s
  | 0x3A => execCarryElement t s
  | 0x3C => execRankElement t s
  | 0x40 => execConstElement t s
  | 0x41 => execSinkElement t s
  | n =>
    if n = opLd then execLdElement t s
    else if n = opSt then execStElement t s
    else if n = opAtadd then execAtaddElement t s
    else execElementFire t none s

end Sys2Proof.Machine
end

