-- ==== Sys2Proof/Machine/PlaneCheck.lean ====
section
/-! DEFINITION. The check of a loaded plane: every refusal rule of spec/01_element.md, spec/03_element_operators.md and
spec/09_bitstream.md (R3, R9, R12, R17, R19, R27, R28, R37, R50 to R57, R60, R65 to R79, R223 to R227). -/

namespace Sys2Proof.Machine

/-- What the operator code map admits (R57): required and optional ports as masks, formats, RM, SAT; the bits that OPF0 and OPF1 define. -/
structure OpSpec where
  req : Nat := 1
  opt : Nat := 0
  fmts : List Nat := [0]
  rm : Bool := false
  sat : Bool := false
  bits0 : Nat := 0
  bits1 : Nat := 0
  deriving DecidableEq, Repr

/-- The formats of LD and ST (R79); those of FCVT (R67). -/
def memFmts : List Nat := [0, 1, 2, 3, 4, 6, 7, 8, 10, 11, 12]
def cvtFmts : List Nat := [0, 1, 2, 3, 4, 6, 7, 8, 10, 11, 12]

/-- The operator code map (R57). -/
def opSpec (code : Nat) : Option OpSpec :=
  match code with
  | 0x00 => some { req := 0 }
  | 0x01 | 0x02 | 0x03 | 0x0D => some { req := 3, rm := true, sat := true }
  | 0x04 | 0x05 => some { req := 7, rm := true, sat := true }
  | 0x06 | 0x07 => some { req := 3 }
  | 0x08 | 0x09 => some {}
  | 0x0A | 0x0B | 0x0C => some { rm := true, sat := true }
  | 0x0E => some { rm := true }
  | 0x10 | 0x11 | 0x12 | 0x13 | 0x15 | 0x16 | 0x1C => some { req := 3, fmts := [8, 12] }
  | 0x14 => some { req := 7, fmts := [8, 12] }
  | 0x17 | 0x18 | 0x19 | 0x1A | 0x1B => some { req := 3, fmts := [12] }
  | 0x1D | 0x1E => some { fmts := [12] }
  | 0x20 => some { req := 3, bits0 := 3 }
  | 0x21 => some { req := 3, fmts := [8, 12], bits0 := 3 }
  | 0x22 => some { req := 7 }
  | 0x23 => some {}
  | 0x28 => some { fmts := cvtFmts, rm := true, sat := true, bits0 := 4 }
  | 0x29 => some { fmts := [5], rm := true, sat := true, bits0 := 4 }
  | 0x30 => some { opt := 2, rm := true, sat := true, bits0 := 1 }
  | 0x31 => some { opt := 2, fmts := [8, 12], bits0 := 1 }
  | 0x34 => some { req := 0, opt := 3, fmts := [12], bits0 := 6, bits1 := 8 }
  | 0x38 => some { req := 3, bits0 := 4 }
  | 0x39 => some { req := 3, opt := 4, bits0 := 1 }
  | 0x3A => some { req := 7 }
  | 0x3C => some { bits0 := 4 }
  | 0x3E => some { req := 3, opt := 4, fmts := [0, 2] }
  | 0x40 => some { req := 0, opt := 1, bits0 := 1, bits1 := 19 }
  | 0x41 => some {}
  | 0x44 => some { req := 1, opt := 10, fmts := memFmts, bits0 := 2 }
  | 0x45 => some { req := 3, opt := 12, fmts := memFmts, bits0 := 2 }
  | 0x46 => some { req := 3, opt := 12, fmts := [0, 8, 12], rm := true, bits0 := 2 }
  | _ => none

/-- The ports whose sticky count must not exceed 1 (R53). -/
def Plane.oneShot (p : Plane) (t q : Nat) : Bool :=
  let op := p.op t
  op == opMerge || op == opCarry ||
  (q == 0 && (op == opRank || op == 0x30 || op == 0x31 || op == 0x29 || op == opSink)) ||
  (q == 1 && op == opCtr && p.thr t) || orderPort op == some q

/-- Operators with a rule of their own, to which R53's last refusal does not apply (R21). -/
def ownRule (op : Nat) : Bool := [0x30, 0x31, 0x34, 0x38, 0x39, 0x3A, 0x3C, 0x40, 0x41].contains op

/-! ### Chains (R224 to R226) -/

/-- The selector that feeds a port of a target: router and output. -/
def feedOf (t q : Nat) : Nat × Nat := (routerOf t, (if t < 128 then (if t / 16 % 2 = 0 then 16 else 20) else 24) + q)

/-- The source of a stage, through at most `n` stages (R17: 32). -/
def Plane.origin (p : Plane) (r o : Nat) : Nat → Source
  | 0 => .none
  | n + 1 =>
    match sourceOf r (p.sel r o) with
    | .stage r' o' => p.origin r' o' n
    | x => x

/-- The type of the channel with a source (R19 rule 2). -/
def Plane.sourceEst (p : Plane) : Source → Bool
  | .lane t _ => p.ot t
  | .port k => p.inEst k
  | _ => false

/-- The type of the channel that ends at a port of a target. -/
def Plane.channelEst (p : Plane) (t q : Nat) : Bool := p.sourceEst (p.origin (feedOf t q).1 (feedOf t q).2 32)

/-- Whether a selected output is refused (R226): rule 1, rule 2, rule 3's lane, rules 4 to 6. -/
def Plane.outputBad (p : Plane) (r o : Nat) : Bool :=
  let code := p.sel r o
  code != 0 &&
  (sourceOf r code == .none || hopOf r o == .nowhere ||
   decide ((if 29 ≤ code then 4 else 1) < (p.outputsOf r code).length) ||
   (match p.origin r o 32 with
    | .lane t l => !(p.routes t).any (fun e => e.2 == l)
    | .port _ => false
    | _ => true) ||
   (match hopOf r o with
    | .router r' c' => (p.outputsOf r' c').isEmpty
    | .slot t q => !p.used t q
    | .out _ => false
    | .nowhere => true))

/-- The ports in use by the selectors (R227). -/
def Plane.inSelected (p : Plane) (k : Nat) : Bool := !(p.outputsOf (inRouter k) (inCode k)).isEmpty
def outSelector (k : Nat) : Nat × Nat := if k < 8 then (k / 2 * 16 + 15, 27 + k % 2) else (48 + k, 29)
def Plane.outSelected (p : Plane) (k : Nat) : Bool := p.sel (outSelector k).1 (outSelector k).2 != 0

/-! ### The fields of a target (R50 to R55, R60) -/

/-- The type that R19 derives for the output. Of LD it is always exact (DESIGN CHOICE, log 80): R81 speaks of an estimate output of LD, but
no input of it derives one (R19, R51, R80), and OT = 1 on it is refused with CFG. -/
def Plane.derived (p : Plane) (t : Nat) : Bool :=
  let op := p.op t
  op != opAccept && op != opConst && [0, 1, 2].any (fun q => p.used t q && p.est t q && orderPort op != some q)

/-- OPER (R51, R57, R60, R27, R28). -/
def Plane.operBad (p : Plane) (mask : BitVec 128) (routers : BitVec 64) (t : Nat) : Bool :=
  let v := p.field t 0
  let op := p.op t
  match opSpec op with
  | none => true
  | some x =>
    decide (v / 2 ^ 17 ≠ 0) || !x.fmts.contains (p.fmt t).toNat || decide (4 < (p.rm t).toNat) || (p.rm t != 0 && !x.rm) ||
    (p.sat t && !x.sat) || (op == opAtadd && p.rm t != 0 && p.fmt t != 0) || p.ot t != p.derived t ||
    (decide (128 ≤ t) && !(op == 0 || op == opSteer || op == opMerge || op == opCarry)) ||
    (op != 0 && (if t < 128 then mask.getLsbD t else routers.getLsbD (t - 128)))

/-- Ports whose channel must be exact (R12, R19, R71 to R73, R75). -/
def Plane.mustBeExact (p : Plane) (t q : Nat) : Bool :=
  let op := p.op t
  q == 3 || (q == 0 && (op == opLd || op == opSt || op == opAtadd)) || (q == 1 && op == opSteer) ||
  (q == 2 && (op == opCarry || op == opAccept || op == opMerge))

/-- PORTS (R12, R19, R52, R70, R72, R75, R226 rule 7); an estimate b of a ST in cls:, which holds exact data only, is refused too (R6,
log 81). -/
def Plane.portsBad (p : Plane) (t : Nat) : Bool :=
  let v := p.field t 1
  let op := p.op t
  match opSpec op with
  | none => false
  | some x =>
    decide (v / 2 ^ 7 ≠ 0) ||
    [0, 1, 2, 3].any (fun q =>
      let used := p.used t q
      let feed := feedOf t q
      (x.req / 2 ^ q % 2 == 1 && !used) || (used && x.req / 2 ^ q % 2 == 0 && x.opt / 2 ^ q % 2 == 0) || (p.est t q && !used) ||
      (used && (p.sel feed.1 feed.2 == 0 || (decide (q < 3) && p.channelEst t q != p.est t q) || (p.mustBeExact t q && p.channelEst t q)))) ||
    (op == opCtr && p.used t 1 != p.thr t) || (op == opMerge && p.used t 2 == (p.opf0 t % 2 == 1)) ||
    (op == opAccept && !p.est t 0) || (op == opSt && p.opf0 t % 4 == 2 && p.est t 1)

/-- STKA to STKG (R53). -/
def Plane.stickyBad (p : Plane) (t q : Nat) : Bool :=
  decide (p.field t (2 + q) / 2 ^ 16 ≠ 0) || (!p.used t q && p.sticky t q != 0) || (p.oneShot t q && decide (1 < p.sticky t q)) ||
  (q == 0 && p.op t != 0 && !ownRule (p.op t) && (p.usedPorts t).all (fun q => p.sticky t q == 0xFFFF))

/-- ROUTE0 to ROUTE3 (R54, R226 rule 3). -/
def Plane.routeBad (p : Plane) (t n : Nat) : Bool :=
  let op := p.op t
  decide (p.field t (6 + n) / 8 ≠ 0) ||
  (match p.route t n with
   | some l =>
     (List.range n).any (fun m => p.route t m == some l) || op == opSink || (p.outputsOf (routerOf t) (laneCode t + l)).isEmpty
   | none => false) ||
  (n == 0 && op != 0 && op != opSink && op != opSt && op != opAtadd && (p.routes t).isEmpty)

/-- OPF0 (R55, R65, R67, R68, R70, R74, R78). -/
def Plane.opf0Bad (p : Plane) (t : Nat) : Bool :=
  let op := p.op t
  let v := p.opf0 t
  match opSpec op with
  | none => false
  | some x =>
    decide (v / 2 ^ x.bits0 ≠ 0) || (op == 0x21 && decide (5 < v)) || (op == 0x28 && !(v == 5 || cvtFmts.contains v)) ||
    (op == 0x29 && (v == 0 || decide (8 < v))) || (op == opCtr && v % 16 == 0) ||
    (op == opRank && (!(p.routes t).any (fun e => v / 2 ^ e.1 % 2 == 1) || (p.routes t).all (fun e => v / 2 ^ e.1 % 2 == 1))) ||
    ((op == opLd || op == opSt || op == opAtadd) && v == 3)

/-- OPF1 (R55, R70). -/
def Plane.opf1Bad (p : Plane) (t : Nat) : Bool :=
  let op := p.op t
  match opSpec op with
  | none => false
  | some x => decide (p.opf1 t / 2 ^ x.bits1 ≠ 0) || (op == opCtr && (if p.thr t then p.opf1 t == 0 else p.opf1 t != 0))

/-- K (R75, R76, R78). -/
def Plane.constBad (p : Plane) (t : Nat) : Bool :=
  let op := p.op t
  let k := p.k t
  (op == opAccept && (isNaN32 k || (k.getLsbD 31 && k != 0x80000000))) ||
  (op == opConst && p.opf0 t % 2 == 1 && !(k == 1 || k == 3)) ||
  ((op == opLd || op == opSt || op == opAtadd) && k.toNat % fmtSize (p.fmt t) != 0)

/-- The switch field of a router (R225, R226, R27, R28). -/
def Plane.switchBad (p : Plane) (mask : BitVec 128) (routers : BitVec 64) (r i : Nat) : Bool :=
  let upper := mask.getLsbD (elementOf (128 + r))
  let lower := mask.getLsbD (elementOf (128 + r) + 16)
  decide (p.field (128 + r) (12 + i) / 2 ^ 15 ≠ 0) ||
  [0, 1, 2].any (fun j =>
    let o := 3 * i + j
    let c := p.sel r o
    p.outputBad r o ||
    (c != 0 && (routers.getLsbD r || (upper && ((decide (16 ≤ o) && decide (o < 20)) || (decide (17 ≤ c) && decide (c < 21)))) ||
      (lower && ((decide (20 ≤ o) && decide (o < 24)) || (decide (21 ≤ c) && decide (c < 25)))))))

/-- The refused fields of a target, ascending. -/
def Plane.targetBad (p : Plane) (mask : BitVec 128) (routers : BitVec 64) (t : Nat) : List Nat :=
  let flag := fun (b : Bool) (f : Nat) => if b then [f] else []
  flag (p.operBad mask routers t) 0 ++ flag (p.portsBad t) 1 ++
  [0, 1, 2, 3].flatMap (fun q => flag (p.stickyBad t q) (2 + q)) ++ [0, 1, 2, 3].flatMap (fun n => flag (p.routeBad t n) (6 + n)) ++
  flag (p.opf0Bad t) 10 ++ flag (p.opf1Bad t) 11 ++
  (if t < 128 then flag (p.constBad t) 12 ++ flag (decide (p.field t 13 / 2 ^ 13 ≠ 0)) 13
   else (List.range 10).flatMap (fun i => flag (p.switchBad mask routers (t - 128) i) (12 + i)))

/-! ### The core-level fields and the table (R223, R227, R77) -/

/-- The refused core-level fields, ascending. -/
def Plane.coreBad (p : Plane) : List Nat :=
  let flag := fun (b : Bool) (f : Nat) => if b then [f] else []
  let c := p.field 0xC0
  let wide := fun (f : Nat) => decide (c f / 2 ^ 16 ≠ 0)
  let ks := List.range 16
  let endless := !(p.targets.any p.isSink) && !(ks.any p.outUsed)
  flag (wide 0 || ks.any (fun k => p.inUsed k != p.inSelected k)) 0 ++
  flag (wide 1 || endless || ks.any (fun k => p.outUsed k != p.outSelected k)) 1 ++
  flag (wide 2 || ks.any (fun k => p.inEst k && !p.inUsed k)) 2 ++
  flag (wide 3 || ks.any (fun k => if p.outUsed k then p.outEst k != p.sourceEst (p.origin (outSelector k).1 (outSelector k).2 32) else p.outEst k)) 3 ++
  flag (decide (c 4 / 2 ^ 8 % 2 ^ 10 ≠ 0) || (p.traceOn && (decide (0xBF < p.traceTarget) || p.op p.traceTarget == 0))) 4 ++
  flag (wide 5 || (p.traceOn && p.samplePeriod == 0)) 5 ++
  (List.range 8).flatMap (fun i => flag (wide (6 + i)) (6 + i))

/-- Whether an entry of the source-node table is refused (R223). -/
def Plane.nodeBad (p : Plane) (t : Nat) : Bool :=
  decide (192 ≤ t) || p.op t == 0 || (p.counters t).any (fun c => c != 255 && (decide (192 ≤ c) || p.op c != opCtr))

/-- The first refusal of a plane in ascending target and field (log 30): target and field. -/
def Plane.refusal (p : Plane) (mask : BitVec 128) (routers : BitVec 64) : Option (Nat × Nat) :=
  match (List.range 192).findSome? (fun t => ((p.targetBad mask routers t).head?).map (fun f => (t, f))) with
  | some x => some x
  | none =>
    match p.coreBad.head? with
    | some f => some (0xC0, f)
    | none => (p.nodes.find? (fun e => p.nodeBad e.1)).map (fun e => (e.1, 0))

end Sys2Proof.Machine
end

