-- ==== Sys2Proof/Machine/PlaneLoad.lean ====
section
/-! DEFINITION. The plane loader (spec/08_stream_instructions.md R209, R217, spec/09_bitstream.md R221 to R223, R228): the header, the
writes, the trailer, the check. -/

namespace Sys2Proof.Machine

/-- TVAL of CFG raised by a load (R217): write index, target, field, plane. -/
def cfgLoadValue (index target field plane : Nat) : Word :=
  BitVec.ofNat 64 (index % 2 ^ 32 * 2 ^ 32 + target % 256 * 2 ^ 24 + field % 32 * 2 ^ 19 + plane % 4 * 2 ^ 16)

/-- No single write is at fault. -/
def noWrite : Nat := 0xFFFFFFFF

/-! ### Reading the image -/

/-- What a read of the image finds: its bytes, a line still empty, a page of memory that the pager serves, or a failure of the load. -/
inductive LoadRead where
  | bytes (bs : List Byte)
  | waits
  | paged (va : Word)
  | fails
  deriving DecidableEq, Repr

/-- `n` bytes of an image in memory (R369): a page that the pager serves is waited for (R324, R327); a launch or send page, which takes no
read but a control thread's (R364, R418), a page without translation or right and a memory error fail the load. -/
def State.imageBytes (s : State) (va : Word) : Nat → LoadRead
  | 0 => .bytes []
  | n + 1 =>
    let go := fun (b : Byte) => match s.imageBytes (va + 1) n with
      | .bytes l => LoadRead.bytes (b :: l)
      | x => x
    if canonical va = false ∨ s.isUnitPage (va57 va) then .fails
    else match s.translate s.core.proc 0 false (va57 va) with
      | .frame pa _ => if s.memBad pa 1 then .fails else go (s.memByte pa)
      | .zeros _ => go 0
      | .fault 0 => .paged va
      | _ => .fails

/-- Read `n` bytes of a load's source from an offset (R209): past the end of act:, or from a line of estimates, the load fails. -/
def State.loadRead (s : State) (l : PlaneLoad) (off n : Nat) : LoadRead :=
  match l.image with
  | some va => if l.lost then .fails else s.imageBytes (va + BitVec.ofNat 64 off) n
  | none =>
    let a := l.addr + off
    if bufSize 1 < a + n then .fails
    else if !s.core.act.allFull a n then .waits
    else if s.core.act.anyEst a n then .fails
    else .bytes (s.core.act.read a n)

/-- A read of act: by the loader takes its bank with the priority of a stream engine (R228). -/
def State.loaderBank {α : Type} (l : PlaneLoad) (off n : Nat) (s : State) (wait k : State → α) : α :=
  if l.image.isSome then k s else s.atBank .loader 0 1 (l.addr + off) n wait k

/-! ### Ending a load -/

/-- The load at the head leaves the loader; its plane is READY, or INVALID with CFG (R209); while another load of it is accepted, it reads
LOADING (R208). -/
def State.endLoad (bad : Option Word) (s : State) : State :=
  match s.core.fab.loads with
  | [] => s
  | l :: rest =>
    let st : PlaneState := if rest.any (fun m => m.plane == l.plane) then .loading else if bad.isSome then .invalid else .ready
    let t := s.modFab (fun f => { f.setPlane l.plane { f.plane l.plane with state := st } with loads := rest })
    match bad with
    | some v => t.raiseAsync causeCfg v
    | none => t

/-- Replace the load at the head. -/
def State.setLoad (l : PlaneLoad) (s : State) : State :=
  s.modFab (fun f => { f with loads := l :: f.loads.drop 1 })

/-- The load at the head begins, or begins again (R104, R106). -/
def State.beginLoad (l : PlaneLoad) (s : State) : State :=
  (s.modFab (fun f => f.setPlane l.plane { f.plane l.plane with state := .loading })).setLoad
    { l with started := true, done := 0, bad := none }

/-- The loader waits for a page that the pager serves (R324, R327, R369). -/
def State.loadFault (va : Word) (s : State) : State := if s.faultSent .image va then s else s.threadFault .image va 0 0

/-! ### The header (R221, R222) -/

/-- NW, NS and FULL of a header that is well formed. -/
def imageHeader (bs : List Byte) : Option (Nat × Nat × Bool) :=
  let w := fun (o : Nat) => leValue ((bs.drop o).take 4)
  if w 0 = 0x494C544E ∧ w 4 = 0x00010000 ∧ w 8 ≤ 16384 ∧ w 0xC ≤ 192 ∧ w 0x10 ≤ 1 ∧ w 0x14 = 0 ∧ w 0x18 = 0 ∧ w 0x1C = 0 ∧
      ¬(w 0x10 = 1 ∧ w 8 = 0) then some (w 8, w 0xC, w 0x10 == 1)
  else none

/-- PLANE_LOAD_START (R209, R222): the next load begins; an image's header and LEN are checked before any write. -/
def execPlaneLoadStart (s : State) : Out :=
  match s.core.fab.loads with
  | [] => .next s
  | l :: _ =>
    if l.started ∨ s.core.qreq.isSome then .next s
    else if l.bare then .next (s.beginLoad l)
    else
      let failed := State.endLoad (some (cfgLoadValue noWrite 0 0 l.plane))
      match s.loadRead l 0 32 with
      | .waits => .next s
      | .paged va => .next (s.loadFault va)
      | .fails => .next (failed s)
      | .bytes bs => s.loaderBank l 0 32 .next (fun s =>
        match imageHeader bs with
        | none => .next (failed s)
        | some (nw, ns, full) =>
          match s.loadRead l (0x24 + 4 * nw) 4 with
          | .waits => .next s
          | .paged va => .next (s.loadFault va)
          | .fails => .next (failed s)
          | .bytes len => s.loaderBank l (0x24 + 4 * nw) 4 .next (fun s =>
            if leValue len ≠ 0x28 + 4 * nw + 8 * ns then .next (failed s)
            else .next (s.beginLoad { l with count := nw, ns := ns, full := full, crc := bs.foldl crcByte 0xFFFFFFFF })))

/-! ### The writes (R48, R49, R222, R227) -/

/-- Whether a write names a field that exists (R50, R60, R227). -/
def writeTarget (t f : Nat) : Bool :=
  if t < 128 then decide (f < 14) else if t < 192 then decide (f < 22) else t == 0xC0 && decide (f < 14)

/-- Apply the write with index `i`; none where it is refused. -/
def Plane.write (p : Plane) (full : Bool) (i w : Nat) : Option Plane :=
  let t := w / 2 ^ 24
  let f := w / 2 ^ 19 % 32
  let v := w % 2 ^ 19
  if t = 0xFF then
    if f = 31 ∧ v = 0 ∧ full then some { p with fields := [], nodes := [] } else none
  else if (full ∧ i = 0) ∨ !writeTarget t f then none
  else some { p with fields := Map.put 0 p.fields (t * 32 + f) v }

/-- Whether a write breaks R222's rules of the plane-clear write, which refuse it at that write. -/
def clearRefused (full : Bool) (i w : Nat) : Bool :=
  let clear := decide (w / 2 ^ 19 = 0xFF * 32 + 31)
  (full && i == 0 && !(clear && w % 2 ^ 19 == 0)) || (!full && clear)

/-- The load after its write `i`: the first one that names no field is kept for the check, which refuses the plane (R49, R209). -/
def PlaneLoad.wrote (i w : Nat) (ok : Bool) (l : PlaneLoad) : PlaneLoad :=
  { l with bad := if ok || l.bad.isSome then l.bad else some (i, w / 2 ^ 24, w / 2 ^ 19 % 32) }

/-- Apply up to `n` writes of the head load; one that breaks the rules of the plane-clear write ends it. -/
def loadWrites : Nat → State → State
  | 0, s => s
  | n + 1, s =>
    match s.core.fab.loads with
    | [] => s
    | l :: _ =>
      let off := (if l.bare then 0 else 0x20) + 4 * l.done
      if l.count ≤ l.done then s
      else match s.loadRead l off 4 with
        | .waits => s
        | .paged va => s.loadFault va
        | .fails => s.endLoad (some (cfgLoadValue noWrite 0 0 l.plane))
        | .bytes bs => s.loaderBank l off 4 id (fun s =>
          let w := leValue bs
          if clearRefused l.full l.done w then s.endLoad (some (cfgLoadValue l.done (w / 2 ^ 24) (w / 2 ^ 19 % 32) l.plane))
          else
            let r := (s.core.fab.plane l.plane).write l.full l.done w
            let t := (s.modFab (Fabric.setPlane l.plane (r.getD (s.core.fab.plane l.plane)))).setLoad
              { l.wrote l.done w r.isSome with done := l.done + 1, crc := bs.foldl crcByte l.crc }
            if l.done + 1 = l.count then t else loadWrites n t)

/-- PLANE_LOAD_WRITE (R209, R228): up to 16 writes; at a quiescence request the loader stops (R106). -/
def execPlaneLoadWrite (s : State) : Out :=
  match s.core.fab.loads with
  | [] => .next s
  | l :: _ => if l.started ∧ s.core.qreq.isNone then .next (loadWrites 16 s) else .next s

/-! ### The trailer and the check (R222, R223) -/

/-- The table's entries from its bytes. -/
def tableEntries (bs : List Byte) : Nat → List Word
  | 0 => []
  | n + 1 => BitVec.ofNat 64 (leValue (bs.take 8)) :: tableEntries (bs.drop 8) n

/-- Whether two entries name one TARGET, and which. -/
def twiceNamed : List Word → Option Nat
  | [] => none
  | e :: t => if t.any (fun x => x.toNat / 2 ^ 56 == e.toNat / 2 ^ 56) then some (e.toNat / 2 ^ 56) else twiceNamed t

/-- The table after the load (R223). -/
def Plane.setNodes (p : Plane) (full : Bool) (es : List Word) : Plane :=
  { p with nodes := es.foldl (fun m e => Map.set m (e.toNat / 2 ^ 56) e) (if full then [] else p.nodes) }

/-- The last check: the first write that named no field, then the plane as it stands against every refusal rule (R209; which goes first is
log 30's choice). -/
def State.checkPlane (l : PlaneLoad) (p : Plane) (s : State) : State :=
  let t := s.modFab (Fabric.setPlane l.plane p)
  match l.bad, p.refusal s.core.efnc s.core.rfence with
  | some x, _ => t.endLoad (some (cfgLoadValue x.1 x.2.1 x.2.2 l.plane))
  | none, some x => t.endLoad (some (cfgLoadValue noWrite x.1 x.2 l.plane))
  | none, none => t.endLoad none

/-- PLANE_LOAD_CHECK (R222, R209): after the last write, CHECK, LEN and the table, then the plane. -/
def execPlaneLoadCheck (s : State) : Out :=
  match s.core.fab.loads with
  | [] => .next s
  | l :: _ =>
    if !l.started ∨ l.done < l.count ∨ s.core.qreq.isSome then .next s
    else
      let p := s.core.fab.plane l.plane
      if l.bare then .next (s.checkPlane l p)
      else match s.loadRead l (0x20 + 4 * l.count) (8 + 8 * l.ns) with
        | .waits => .next s
        | .paged va => .next (s.loadFault va)
        | .fails => .next (s.endLoad (some (cfgLoadValue noWrite 0 0 l.plane)))
        | .bytes bs => s.loaderBank l (0x20 + 4 * l.count) (8 + 8 * l.ns) .next (fun s =>
          let table := bs.drop 8
          let es := tableEntries table l.ns
          if ((table.foldl crcByte l.crc) ^^^ 0xFFFFFFFF).toNat ≠ leValue (bs.take 4) ∨
              leValue ((bs.drop 4).take 4) ≠ 0x28 + 4 * l.count + 8 * l.ns then
            .next (s.endLoad (some (cfgLoadValue noWrite 0 0 l.plane)))
          else match twiceNamed es with
            | some t => .next (s.endLoad (some (cfgLoadValue noWrite t 0 l.plane)))
            | none => .next (s.checkPlane l (p.setNodes l.full es)))

end Sys2Proof.Machine
end

