-- ==== Sys2Proof/Machine/StreamRun.lean ====
section
/-! DEFINITION. Streams at work (spec/08_stream_instructions.md R187, R188, R192 to R197, R213, R216, R218 to R220,
spec/17_fibre_instructions.md R358 to R361): their starts, the tokens a generator delivers, the writes, gathers, probes and scans, their
ends and their failures. -/

namespace Sys2Proof.Machine

/-! ### Positions (R192) -/

/-- The product of the lengths of some dimensions. -/
def Pattern.prod (p : Pattern) (ks : List Nat) : Nat := (ks.map p.len).foldl (· * ·) 1

/-- Positions of a row, and rows. -/
def Pattern.inner (p : Pattern) : Nat := p.prod (List.range p.rho)
def Pattern.outer (p : Pattern) : Nat := p.prod ((List.range (p.ndm + 1)).drop p.rho)

/-- Index `k` of the position numbered `n`, i0 fastest. -/
def Pattern.index (p : Pattern) (n k : Nat) : Nat := n / p.prod (List.range k) % p.len k

/-- The sum of i_k × STR_k over some dimensions, in 64-bit arithmetic. -/
def Pattern.offset (p : Pattern) (ks : List Nat) (n : Nat) : Word :=
  (ks.map (fun k => BitVec.ofNat 64 (p.index n k) * (p.strs.getD k 0).signExtend 64)).foldl (· + ·) 0

/-- The byte address of a DENSE position. -/
def Pattern.address (p : Pattern) (n : Nat) : Word := p.base + p.offset (List.range (p.ndm + 1)) n

/-- The exponent halfword of the block of a bx32 address (R194). -/
def Pattern.expAddress (p : Pattern) (a : Word) : Word :=
  p.xbase + 2 * BitVec.ofInt 64 (((a - p.base).toInt) / 32)

/-- The position, counted over the whole pattern, at which a stream stands. -/
def Stream.position (t : Stream) : Nat := t.row * t.cmd.pat.inner + t.pos

/-! ### Failures (R218 to R220, R361) -/

/-- TVAL of TYPE raised by a stream (R218). -/
def streamType (addr : Nat) (space : BitVec 3) (e slot : Nat) : Word :=
  BitVec.ofNat 64 (addr / 128 * 128 % 2 ^ 32 * 2 ^ 32 + 2 ^ 30 + space.toNat * 2 ^ 16 + e % 4 * 4 + slot % 4)

/-- Cancel the stream of a slot and every command queued behind it on its engine (R220). -/
def Core.cancelStream (e slot : Nat) (c : Core) : Core :=
  { c.modEngine e (fun g => { g with queue := [], slots := Map.erase g.slots slot, can := true }) with
    flights := c.flights.filter (fun x => !(x.unit == 0 && x.a == e && x.b == slot))
    faults := c.faults.filter (fun x => x.unit != .stream e slot) }

/-- A stream's command belongs to the active plane, or to the incoming one (R220, R231). A stream on a port that its plane does not use is no
stream of that plane (DESIGN CHOICE, log 110). -/
def Core.stopFor (q : StreamCmd) (c : Core) : Core :=
  let f := c.fab
  match f.switch with
  | none => if q.epoch = f.epoch ∧ f.active.isSome ∧ (f.plane f.act).portUsed q.port then c.stopPlane false false else c
  | some w =>
    if q.epoch = f.epoch then (if (f.plane w.out).portUsed q.port then c.stopPlane false false else c)
    else if (f.plane w.inc).portUsed q.port then c.stopPlane true false else c

/-- A generator trap (R220): the commands are cancelled, the plane stops, the trap is held. -/
def State.failStream (e slot cause : Nat) (value : Word) (s : State) : State :=
  match Map.find (s.core.engine e).slots slot with
  | none => s
  | some t => (s.modCore (fun c => (c.cancelStream e slot).stopFor t.cmd)).raiseAsync cause value

/-- Where a record of Hythen's goes in a process: its page, read-only, is PRESENT (log 141), and its stack within reach (R393, R402). -/
def State.recordLeaf (s : State) (va : Nat) : Option (TlbEntry × Nat) :=
  (s.leafFor s.core.proc va).bind (fun e =>
    if pteState e.pte = 0 ∧ pteW e.pte = false ∧ s.stackGone (paStack (e.paOf va)) = false then some (e, e.paOf va) else none)

/-- Write a fault record into the next slot of the task's ring of records; the answer is its address (R219). -/
def State.faultRecord (va : Word) (record : Word) (dims : List Nat) (unit port reason : Nat) (moved : Nat) (index : Nat) (s : State) : Word × State :=
  match (s.procAt s.core.proc).faultVa with
  | none => (0, s)
  | some page =>
    let a := page + 64 * (s.taskAt s.taskNum).faultSlot
    let bs := leBytes 8 va.toNat ++ leBytes 8 record.toNat ++ (dims.flatMap (leBytes 4)) ++ leBytes 4 unit ++ leBytes 4 port ++
      leBytes 4 reason ++ leBytes 4 0 ++ leBytes 8 moved ++ leBytes 8 index
    let t := s.modOwnTask (fun k => { k with faultSlot := (k.faultSlot + 1) % 64 })
    match s.recordLeaf (va57 (BitVec.ofNat 64 a)) with
    | some (x, pa) => (BitVec.ofNat 64 a, ((t.markUse x true).setMem pa bs).dropLines (fun l => l.line == pa / 64))
    | none => (BitVec.ofNat 64 a, t)

/-- The index word of the run that a SIND gathers from. -/
def Stream.runIndex (t : Stream) (n : Nat) : Nat := (Map.get 0 t.indices (n / t.cmd.pat.len 0)).toNat

/-- STREAMFAULT of a stream (R219, R220). Offset 0x30 of an SWR stream's record holds the bytes that it has written (DESIGN CHOICE, log 108). -/
def State.streamFault (e slot : Nat) (va : Word) (reason : Nat) (s : State) : State :=
  match Map.find (s.core.engine e).slots slot with
  | none => s
  | some t =>
    let p := t.cmd.pat
    let ind := p.kind == 1
    let r := s.faultRecord va p.addr ((List.range 4).map (p.index t.spot)) (slot % 4 * 16 + e % 4 * 4 + (if ind then 2 else 0)) t.cmd.port reason
      t.count (if ind then t.runIndex t.spot else 0)
    r.2.failStream e slot causeStreamFault r.1

/-- The header's address of a fibre stream. -/
def Pattern.header (p : Pattern) : Word := if p.kind = 3 then p.xbase else p.base

/-- A failure at a fibre's home (R361): POOL, or STREAMFAULT with the header's address. -/
def State.fibreFault (e slot reason : Nat) (s : State) : State :=
  match Map.find (s.core.engine e).slots slot with
  | none => s
  | some t =>
    let va := t.cmd.pat.header
    if reason = 1 then s.failStream e slot causePool (fibValue va 1)
    else s.streamFault e slot va (if reason = 5 then 4 else 2)

/-- A generator stops on a fault at a position (R219, R327); under a quiescence request the ports of its plane close at once (R105). -/
def State.stopStream (e slot : Nat) (va : Word) (access reason spot : Nat) (s : State) (fibre : Bool := false) : State :=
  ((s.modCore (Core.modStream e slot (fun t => { t with fault := some (faultVa va), spot := spot }))).modCore Core.shutPorts).threadFault (.stream e slot) va
    access reason fibre

/-! ### Accesses of a generator -/

/-- What an access answers: a value, a line still empty, an estimate that an exact stream meets, a fault, damage in the cluster
store. -/
inductive GenAccess where
  | ok (v : Nat) (s : State)
  | waits
  | type (a : Nat)
  | fault (va : Word) (reason : Nat)
  | damaged

/-- Read `n` bytes at an address of a space (R194, R199, R324). -/
def State.genRead (s : State) (sp : BitVec 3) (a : Word) (n : Nat) (est : Bool) : GenAccess :=
  if sp = 0 then
    if canonical a = false then .fault a 1
    else if s.isUnitPage (va57 a) then .fault a 2
    else match s.translate s.core.proc 0 false (va57 a) with
      | .right => .fault a 2
      | .fault r => .fault a r
      | .zeros x => .ok 0 (s.touch x false)
      | .frame pa x => if s.memBad pa n then .fault a 4 else .ok (s.memNat pa n) ((s.touch x false).openRow pa)
  else if sp = 4 then
    if s.clsBad a.toNat n then .damaged else .ok (leValue (s.clsRead a.toNat n)) s
  else
    let b := s.core.buf sp
    if !b.allFull a.toNat n then .waits
    else if !est && b.anyEst a.toNat n then .type a.toNat
    else .ok (leValue (b.read a.toNat n)) s

/-- Write `n` bytes in mem: or cls: (R194). -/
def State.genWrite (sp : BitVec 3) (a : Word) (n v : Nat) (s : State) : GenAccess :=
  if sp = 4 then .ok 0 (s.clsWrite a.toNat (leBytes n v))
  else if canonical a = false then .fault a 1
  else if s.isUnitPage (va57 a) then .fault a 2
  else match s.translate s.core.proc 1 false (va57 a) with
    | .right => .fault a 2
    | .fault r => .fault a r
    | .zeros _ => .fault a 0
    | .frame pa x => if s.memBad pa n then .fault a 4 else .ok 0 ((s.touch x true).unitWrite pa (leBytes n v))

/-- Go on with an access's value, or stop the stream as the access says. -/
def onAccess (e slot access spot : Nat) (sp : BitVec 3) (r : GenAccess) (s : State) (k : Nat → State → Out) : Out :=
  match r with
  | .ok v t => k v t
  | .waits => .next s
  | .type a => .next (s.failStream e slot causeType (streamType a sp e slot))
  | .fault va reason => .next (s.stopStream e slot va access reason spot)
  | .damaged => .next ((s.modCore (Core.modStream e slot (fun t => { t with spot := spot }))).streamFault e slot 0 4)

/-- A read of a stream at an address: what it may access, then, in a buffer, its bank (R99). -/
def streamRead (e slot spot : Nat) (sp : BitVec 3) (a : Word) (n : Nat) (est : Bool) (s : State) (k : Nat → State → Out) : Out :=
  onAccess e slot 0 spot sp (s.genRead sp a n est) s (fun v s =>
    s.atBank (.stream e slot) (((Map.find (s.core.engine e).slots slot).map (fun t => t.cmd.hasp.order)).getD 0) sp a.toNat n .next (k v))

/-! ### Starts (R187, R188, R216) -/

/-- The oldest command that no stream has started from (R187 rule 1). -/
def Core.nextStream (c : Core) : Option (Nat × StreamCmd) :=
  ((List.range 4).filterMap (fun e => ((c.engine e).queue.head?).map (fun q => (e, q)))).foldl (fun m x =>
    match m with
    | some y => if x.2.hasp.order < y.2.hasp.order then some x else some y
    | none => some x) none

/-- Whether a fence of the command's epoch is not over yet: accesses are still to be performed, or the switch to the plane still to complete
(R26, R231); the launch that the stream begins is a new one. -/
def Fabric.fenceStands (q : StreamCmd) (f : Fabric) : Bool :=
  match f.switch with
  | some w => w.cut && q.epoch != f.epoch
  | none => f.fencing

/-- Rules 3 and 4 of R187, and what quiescence (R105 rule 5) and a fence (R26) hold back. -/
def Core.mayStart (c : Core) (q : StreamCmd) : Bool :=
  !c.portHeld q.port && !c.fab.fenceStands q &&
  (decide (16 ≤ q.port) ||
    (c.qreq.isNone &&
      match c.fab.switch with
      | some w => q.epoch == c.fab.epoch || !(c.fab.plane w.out).inUsed q.port || w.entered.contains q.port
      | none => true))

/-- A launch begins at a start of the current epoch on a used port of a plane with input ports (R216); a start of the incoming epoch is kept
for the switch's end. Of a plane without them a fence leaves
no later launch to begin but at an activation: R26 and R216 differ there (DESIGN CHOICE, log 84). -/
def Fabric.launchStart (q : StreamCmd) (f : Fabric) : Fabric :=
  if q.epoch ≠ f.epoch then
    { f with switch := f.switch.map (fun w => { w with started := w.started || (f.plane w.inc).portUsed q.port }) }
  else match f.current with
  | none => f
  | some n =>
    let p := f.plane n
    if f.launch ≠ 1 ∧ p.portUsed q.port ∧ (List.range 16).any p.inUsed then
      { f with launch := 1, trace := { f.trace with firings := 0 } }
    else f

/-- The indirect streams that run on the cluster's engine of the base die (R326). -/
def Core.indirect (c : Core) : Nat := (c.engines.map (fun e => (e.2.slots.filter (fun t => t.2.cmd.pat.kind == 1)).length)).sum
def State.indirect (s : State) : Nat := ((List.range 16).map (fun i => (s.coreAt (s.core.clusterKey * 16 + i)).indirect)).sum

/-- STREAM_START (R187); an indirect stream waits while its cluster's engine runs 8 (R326). -/
def execStreamStart (s : State) : Out :=
  match s.core.nextStream with
  | none => .next s
  | some (e, q) =>
    match (List.range 4).find? (fun k => (Map.find (s.core.engine e).slots k).isNone) with
    | none => .next s
    | some k =>
      if s.core.mayStart q = false ∨ (q.pat.kind = 1 ∧ 8 ≤ s.indirect) then .next s
      else
        .next (s.modCore (fun c =>
          let d := c.modEngine e (fun g => { g with queue := g.queue.drop 1, slots := Map.set g.slots k { cmd := q, acquired := !q.hasp.acq } })
          { d with
            fab := d.fab.launchStart q
            flights := if q.hasp.acq then d.flights ++ [{ ref := q.hasp.ref, hid := q.hasp.hid, order := q.hasp.order, a := e, b := k }] else d.flights }))

/-! ### The next token of a generator (R192, R193, R197) -/

/-- What a generator owes next. -/
inductive Due where
  | eos
  | bubble
  | tile
  | value (n : Nat) (sb : BitVec 2)
  | index (n : Nat)
  deriving DecidableEq, Repr

/-- The sideband of a row's value. -/
def sideband (lastInner lastOuter : Bool) : BitVec 2 := if lastInner then (if lastOuter then 3 else 1) else 0

/-- The length of run `j` of a SIND, once its index is read (R197). -/
def Stream.runLen (t : Stream) (j : Nat) : Option Nat :=
  (Map.find t.indices j).map (fun x => if x = 0xFFFFFFFF then 0 else t.cmd.pat.len 0)

/-- The first run from `j` to `hi` that is not empty: its number; hi where all are empty; none before an unread index. -/
def Stream.nextRun (t : Stream) (hi : Nat) : Nat → Nat → Option Nat
  | 0, _ => some hi
  | n + 1, j =>
    if hi ≤ j then some hi
    else match t.runLen j with
      | none => none
      | some 0 => t.nextRun hi n (j + 1)
      | some _ => some j

/-- What a SIND owes in its row: its runs are `m` a row. -/
def Stream.dueRun (t : Stream) (len0 m : Nat) (lastOuter : Bool) : Due :=
  let lo := t.row * m
  let hi := lo + m
  let j := lo + t.pos / len0
  match t.nextRun hi m j with
  | none => .index (j * len0)
  | some r =>
    if hi ≤ r then .bubble
    else
      let n := if r = j then t.row * (m * len0) + t.pos else r * len0
      let lastOfRun := n % len0 + 1 == len0
      match t.nextRun hi m (r + 1) with
      | none => if lastOfRun then .index n else .value n 0
      | some r' => .value n (sideband (lastOfRun && decide (hi ≤ r')) lastOuter)

/-- What a DENSE, IND or PROBE stream owes next. -/
def Stream.due (t : Stream) : Due :=
  let p := t.cmd.pat
  if t.tile then .tile
  else if p.outer ≤ t.row then .eos
  else if p.inner = 0 then .bubble
  else if p.kind = 1 then t.dueRun (p.len 0) (p.inner / p.len 0) (t.row + 1 == p.outer)
  else .value t.position (sideband (t.pos + 1 == p.inner) (t.row + 1 == p.outer))

/-- A row is done (R190). With ETM the end-of-tile marker of the last row stands between its 0b11 token and EOS, as ReadStream has it (R192),
though R10 has EOS follow that token directly (DEDUCED, log 121). -/
def Stream.rowDone (t : Stream) : Stream :=
  let p := t.cmd.pat
  { t with row := t.row + 1, pos := 0, tile := p.etm && decide ((t.row + 1) % p.len p.rho = 0) }

/-- The stream after it delivered what it owed. -/
def Stream.delivered (d : Due) (t : Stream) : Stream :=
  let u := { t with count := t.count + 1 }
  match d with
  | .eos => { u with eos := true }
  | .tile => { u with tile := false }
  | .bubble => u.rowDone
  | .index _ => t
  | .value n sb =>
    let v := { u with gathered := Map.erase u.gathered n, buffer := [] }
    if sb = 0 then { v with pos := n - t.row * t.cmd.pat.inner + 1 } else v.rowDone

/-- What a SCAN owes next (R358): a bubble for an empty scan, EOS, or the token of its first entry; none while the next step may still
show that the entry is the last. -/
def Stream.dueScan (t : Stream) : Option (Token × Stream) :=
  let u := { t with count := t.count + 1, row := 1 }
  match t.buffer with
  | [] => if !t.done then none else if t.row = 0 then some (bubble, u) else some (eosToken, { u with eos := true })
  | x :: rest =>
    if rest.isEmpty && !t.done then none
    else
      let fin : BitVec 2 := if rest.isEmpty then 3 else 0
      match t.cmd.pat.emit with
      | 1 => some (dataToken fin x.1, { u with buffer := rest })
      | 2 => some (dataToken fin x.2, { u with buffer := rest })
      | m =>
        let first := if m = 0 then x.1 else x.2
        let second := if m = 0 then x.2 else x.1
        if t.second then some (dataToken fin second, { u with buffer := rest, second := false })
        else some (dataToken 0 first, { u with second := true })

/-- Whether EOS is what the stream owes next. -/
def Stream.eosDue (t : Stream) : Bool :=
  if t.cmd.pat.kind = 2 then t.done && t.buffer.isEmpty && t.row != 0 else t.due == .eos

/-- Whether the port of a generator is open to it (R105 rules 1 and 2): without a request always; else in the active plane, up to the
row ends it may still deliver. -/
def Core.genOpen (c : Core) (t : Stream) : Bool :=
  let f := c.fab
  let k := t.cmd.port
  c.qreq.isNone || f.switch.isSome ||
  ((f.plane f.act).inUsed k && t.cmd.epoch == f.epoch && !(f.port f.epoch k).shut &&
    match (f.port f.epoch k).limit with
    | none => true
    | some n =>
      let q := Map.get [] f.inq k
      decide ((f.port f.epoch k).rowEnds + (q.filter (fun x => x.tok.rowEnd)).length < n) ||
      (t.eosDue && match q.getLast? with
        | some x => x.tok.rowEnd
        | none => (f.port f.epoch k).lastRow))

/-- Whether a started stream may go on: acquired, not stopped, not failed, its EOS not passed. -/
def Stream.runs (t : Stream) : Bool := t.acquired && t.fault.isNone && t.failed.isNone && !t.eos
def Core.genRuns (c : Core) (t : Stream) : Bool := t.runs && decide (t.cmd.port < 16) && c.genOpen t

/-- Put a token into the port queue; the stream becomes `u`. -/
def State.deliver (e slot : Nat) (k : Token) (u : Stream) (s : State) : State :=
  s.modCore (fun c =>
    let d := c.modStream e slot (fun _ => u)
    let p := u.cmd.port
    { d with fab := { d.fab with
      inq := Map.set d.fab.inq p (Map.get [] d.fab.inq p ++ [{ tok := k, born := s.cyc, came := s.cyc, epoch := u.cmd.epoch }]) } })

/-- The value of a DENSE position (R194). -/
def denseValue (e slot n : Nat) (p : Pattern) (s : State) (k : W32 → State → Out) : Out :=
  let a := p.address n
  let lay := fun (v : Nat) => match fmtOf p.fmt with
    | some fm => tokenLayout fm v
    | none => 0
  streamRead e slot n p.space a p.size p.est s (fun v s =>
    if p.fmt = 5 then
      streamRead e slot n p.space (p.expAddress a) 2 p.est s (fun x s => k (lay (v + 256 * x)) s)
    else k (lay v) s)

/-- STREAM_DELIVER (R192): a generator delivers its next token. -/
def execStreamDeliver (e slot : Nat) (s : State) : Out :=
  match Map.find (s.core.engine e).slots slot with
  | none => .next s
  | some t =>
    if s.core.genRuns t = false ∨ 16 ≤ (Map.get [] s.core.fab.inq t.cmd.port).length then .next s
    else
      let p := t.cmd.pat
      if p.kind = 2 then
        match t.dueScan with
        | some (k, u) => .next (s.deliver e slot k u)
        | none => .next s
      else
        let d := t.due
        match d with
        | .eos => .next (s.deliver e slot eosToken (t.delivered d))
        | .bubble => .next (s.deliver e slot bubble (t.delivered d))
        | .tile => .next (s.deliver e slot tileToken (t.delivered d))
        | .index _ => .next s
        | .value n sb =>
          if p.kind = 1 then
            match Map.find t.gathered n with
            | some v => .next (s.deliver e slot (dataToken sb v) (t.delivered d))
            | none => .next s
          else if p.kind = 3 then
            match t.buffer with
            | x :: _ => .next (s.deliver e slot (dataToken sb x.2) (t.delivered d))
            | [] => .next s
          else denseValue e slot n p s (fun v s => .next (s.deliver e slot (dataToken sb v) (t.delivered d)))

/-! ### Gathers (R197, R326) -/

/-- The address of an index, and of a gather; one that ISCALE leaves misaligned to Size(FMT) is read where it lies (DESIGN CHOICE, log 135). -/
def Pattern.indexAddress (p : Pattern) (n : Nat) : Word := p.xbase + p.offset ((List.range (p.ndm + 1)).drop 1) n
def Pattern.gatherAddress (p : Pattern) (x : W32) (n : Nat) : Word :=
  p.base + (if p.ifmt = 8 then x.signExtend 64 else x.zeroExtend 64) * p.iscale.zeroExtend 64 + p.offset [0] n

/-- Whether an engine reads an index or gathers at position `n` now (R197, R326): not past the index entries ahead that PFD allows, but where
the sideband of the next token asks for a later run of its row; with at most 64 gathers in flight. -/
def Stream.gatherOpen (t : Stream) (n : Nat) : Bool :=
  let p := t.cmd.pat
  let len := p.len 0
  let m := p.inner / len
  let j := n / len
  let cur := t.position / len
  let flight := (List.range (n - t.position)).filter (fun d =>
    (Map.find t.gathered (t.position + d)).isNone && t.runLen ((t.position + d) / len) != some 0)
  decide (cur ≤ j) && decide (j < p.outer * m) && (decide (j ≤ cur + p.pfd) || t.due == .index (j * len)) && decide (flight.length < 64)

/-- A read of an indirect-stream engine: through the last-level TLB alone (R326). -/
def State.indirectRead (s : State) (a : Word) (n : Nat) : GenAccess :=
  match ({ s with core := { s.core with utlb := [] } } : State).genRead 0 a n true with
  | .ok v t => .ok v (t.modCore (fun c => { c with utlb := s.core.utlb }))
  | r => r

/-- GATHER_COMPLETE (R197, R326): an index, or the gather of position `n` once its index is known, comes back. A fault stops the stream. -/
def execGatherComplete (e slot n : Nat) (s : State) : Out :=
  match Map.find (s.core.engine e).slots slot with
  | none => .next s
  | some t =>
    let p := t.cmd.pat
    if p.kind ≠ 1 ∨ s.core.genRuns t = false ∨ p.inner = 0 ∨ t.gatherOpen n = false then .next s
    else
      let j := n / p.len 0
      match Map.find t.indices j with
      | none =>
        onAccess e slot 0 n 0 (s.indirectRead (p.indexAddress n) 4) s (fun v s =>
          .next (s.modCore (Core.modStream e slot (fun u => { u with indices := Map.set u.indices j (BitVec.ofNat 32 v) }))))
      | some x =>
        if x = 0xFFFFFFFF ∨ n < t.position ∨ (Map.find t.gathered n).isSome then .next s
        else
          onAccess e slot 0 n 0 (s.indirectRead (p.gatherAddress x n) p.size) s (fun v s =>
            let w := match fmtOf p.fmt with
              | some fm => tokenLayout fm v
              | none => 0
            .next (s.modCore (Core.modStream e slot (fun u => { u with gathered := Map.set u.gathered n w }))))

/-! ### Fibre reads (R358, R360) -/

/-- A stored value on a token (R358): converted from VFMT to FMT by RM and SAT. -/
def fibToken (vfmt : Nat) (p : Pattern) (w : W32) : W32 :=
  let src : Fmt := if vfmt = 0 then .flt fp32Fmt else if vfmt = 1 then .int ⟨true, 32⟩ else .int ⟨false, 32⟩
  match fmtOf p.fmt with
  | some dst => tokenLayout dst (convert src dst p.fibRm p.fibSat (if vfmt = 3 then 0 else w.toNat))
  | none => 0

/-- The header's frame, then the home's checks, after the thread's earlier operations on the fibre (R360, R361); a failure names the position
(R219). -/
def fibreStep (e slot : Nat) (t : Stream) (r : FibReach) (s : State) (k : Nat → State → Out) : Out :=
  let va := t.cmd.pat.header
  match s.translate s.core.proc 0 true (va57 va) with
  | .frame pa x =>
    if s.fibUsed s.taskNum pa t.cmd.hasp.order then .next s
    else
      let u := (s.touch x false).fibMark pa r
      match u.fibCheck pa u.core.tenant none false with
      | some r => .next ((u.modCore (Core.modStream e slot (fun t => { t with spot := t.position }))).fibreFault e slot r)
      | none => k pa u
  | .fault r => .next (s.stopStream e slot va 0 r t.position (fibre := true))
  | _ => .next (s.stopStream e slot va 0 2 t.position (fibre := true))

/-- PROBE (R340): the home answers the probe of the stream's next key; the reserved key is a miss (R358). -/
def execProbe (e slot : Nat) (s : State) : Out :=
  match Map.find (s.core.engine e).slots slot with
  | none => .next s
  | some t =>
    let p := t.cmd.pat
    if p.kind ≠ 3 ∨ s.core.genRuns t = false ∨ t.buffer ≠ [] then .next s
    else match t.due with
      | .value n _ =>
        streamRead e slot n p.space (p.address n) 4 p.est s (fun key s =>
          fibreStep e slot t (.key (if key = 0xFFFFFFFF then 0 else key)) s (fun pa s =>
            let v := if key = 0xFFFFFFFF then none else s.fibProbe pa (BitVec.ofNat 32 key)
            let w := match v with
              | some w => fibToken (s.fhdr pa).vfmt p w
              | none => p.aux
            .next (s.modCore (Core.modStream e slot (fun u => { u with buffer := [(BitVec.ofNat 32 key, w)] })))))
      | _ => .next s

/-- A scan's next step for a SCAN stream (R341, R358): at most one entry waits for it. -/
def scanStream (e slot : Nat) (s : State) : Out :=
  match Map.find (s.core.engine e).slots slot with
  | none => .next s
  | some t =>
    let p := t.cmd.pat
    if p.kind ≠ 2 ∨ s.core.genRuns t = false ∨ t.done ∨ 2 ≤ t.buffer.length then .next s
    else
      let lo := p.xbase.toNat % 2 ^ 32
      let hi := p.xbase.toNat / 2 ^ 32
      let from' := match t.cursor with
        | some c => some c
        | none => if lo = 0 then none else some (lo - 1)
      fibreStep e slot t (.scan from') s (fun pa s =>
      let all := s.scanStep pa from'
      let kept := all.filter (fun x => hi == 0 || decide (x.1.toNat < hi))
      let vf := (s.fhdr pa).vfmt
      .next (s.modCore (Core.modStream e slot (fun u =>
        { u with buffer := u.buffer ++ kept.map (fun x => (x.1, fibToken vf p x.2)), done := all.isEmpty || decide (kept.length < all.length),
                 cursor := match all.getLast? with
                   | some x => some x.1.toNat
                   | none => from' }))))

/-- SCAN_STEP (R341). -/
def execScanStep (src : ScanSource) (s : State) : Out :=
  match src with
  | .stream e slot => scanStream e slot s
  | .merge issuer => fmrgfScan issuer s

/-! ### Writes (R195, R196, R199) -/

/-- Issue the write buffer of a stream as one access (R196): whole lines set F and E; a partial write of estimates to an exact line is
none. -/
def State.flushLine (t : Stream) (s : State) : Option State :=
  match t.line with
  | [] => some s
  | (a, _) :: _ =>
    let p := t.cmd.pat
    let n := a / 128
    let whole := decide (128 ≤ t.line.length)
    if !whole && p.est && !(s.core.buf p.space).isEst n then none
    else some (s.modBuf p.space (fun b =>
      let c := { b with bytes := t.line.foldl (fun m x => Map.put 0 m x.1 x.2) b.bytes }
      if whole then (c.setFull n true).setEst n p.est else c))

/-- The write buffer of a stream at its banks (R99): a whole line takes all of its banks. -/
def lineBank (e slot : Nat) (t : Stream) (s : State) (k : State → Out) : Out :=
  match t.line, t.line.getLast? with
  | x :: _, some y => s.atBank (.stream e slot) t.cmd.hasp.order t.cmd.pat.space x.1 (y.1 - x.1 + 1) .next k
  | _, _ => k s

/-- Bytes at consecutive addresses into a write buffer. -/
def gatherBytes (l : List (Nat × Byte)) (a : Nat) : List Byte → List (Nat × Byte)
  | [] => l
  | b :: t => gatherBytes (Map.set l a b) (a + 1) t

/-- Write bytes of one line through the write buffer (R196). -/
def putLine (e slot : Nat) (t : Stream) (a n v : Nat) (s : State) (k : Stream → State → Out) : Out :=
  let other := match t.line with
    | (b, _) :: _ => b / 128 != a / 128
    | [] => false
  if other then
    lineBank e slot t s (fun s =>
      match s.flushLine t with
      | none => .next (s.failStream e slot causeType (streamType ((t.line.headD (0, 0)).1) t.cmd.pat.space e slot))
      | some u => k { t with line := gatherBytes [] a (leBytes n v) } u)
  else k { t with line := gatherBytes t.line a (leBytes n v) } s

/-- Write one value at a position (R194): mem: and cls: directly, buffers through the write buffer. -/
def writeValue (e slot : Nat) (t : Stream) (sp : BitVec 3) (a : Word) (n v : Nat) (s : State) (k : Stream → State → Out) : Out :=
  if sp = 0 ∨ sp = 4 then onAccess e slot 1 t.position sp (s.genWrite sp a n v) s (fun _ s => k t s)
  else putLine e slot t a.toNat n v s k

/-- The position after a data token (R195), and the next row start. -/
def Stream.nextRow (t : Stream) : Stream := { t with row := t.row + 1, pos := 0 }
def Stream.afterWrite (sb : BitVec 2) (t : Stream) : Stream :=
  let p := t.cmd.pat
  let u := if t.pos + 1 = p.inner then t.nextRow else { t with pos := t.pos + 1 }
  if p.sbp ≠ 1 ∧ (sb = 1 ∨ sb = 3) ∧ u.row < p.outer ∧ u.pos ≠ 0 then u.nextRow else u

/-- No position is left. -/
def Stream.exhausted (t : Stream) : Bool := t.cmd.pat.noPositions || decide (t.cmd.pat.outer ≤ t.row)

/-- The token at the head of the port queue is taken; the stream becomes `u`; OVR where it was discarded. -/
def State.takeToken (e slot : Nat) (ovr : Bool) (u : Stream) (s : State) : State :=
  s.modCore (fun c =>
    let d := (c.modStream e slot (fun _ => u)).modEngine e (fun g => { (g : Engine) with ovr := g.ovr || ovr })
    let k := u.cmd.port - 16
    { d with fab := { d.fab with outq := Map.set d.fab.outq k ((Map.get [] d.fab.outq k).drop 1) } })

/-- The issuer of a stream's merges at a home: it stays the same where its task goes to another core (R360). -/
def State.streamIssuer (s : State) (e slot : Nat) : Nat := 2 ^ 40 + s.taskNum * 16 + e * 4 + slot

/-- A token of a MERGE stream (R359); a home out of reach fails it (R361, R393, R402). -/
def mergeToken (e slot : Nat) (t : Stream) (k : Token) (s : State) : Out :=
  if !k.isData then .next (s.takeToken e slot false t)
  else match t.key with
    | none => .next (s.takeToken e slot false { t with key := some k.data })
    | some key =>
      let u := { t with key := none }
      if key = 0xFFFFFFFF then .next (s.takeToken e slot true u)
      else
        let va := t.cmd.pat.base
        match s.translate s.core.proc 1 true (va57 va) with
        | .frame pa x =>
          if s.stackGone (paStack pa) then
            .next ((s.modCore (Core.modStream e slot (fun t => { t with spot := t.position }))).fibreFault e slot 5)
          else if s.fibUsed s.taskNum pa t.cmd.hasp.order then .next s
          else
            .next (((s.touch x true).postFib (s.streamIssuer e slot)
              { va := va, hdr := pa, key := key, val := k.data, fmt := t.cmd.pat.fmt, proc := s.core.proc, core := s.core.id, task := s.taskNum,
                tenant := s.core.tenant, seq := t.cmd.hasp.order, stream := some (e, slot) }).takeToken e slot false u)
        | .fault r => .next (s.stopStream e slot va 1 r t.position (fibre := true))
        | _ => .next (s.stopStream e slot va 1 2 t.position (fibre := true))

/-- Whether both writes of a bx32 element in mem: can be made, the element's and its exponent's (R194), or what the first that cannot meets: no
byte of the position is written before its fault is resolved (R329). -/
def State.blockAccess (s : State) (p : Pattern) (a : Word) : GenAccess :=
  if p.fmt ≠ 5 ∨ p.space ≠ 0 then .ok 0 s
  else match s.genWrite 0 a p.size 0 with
    | .ok _ t => t.genWrite 0 (p.expAddress a) 2 0
    | r => r

/-- A data token of a DENSE write stream (R195, R194). Of a bx32 token the element goes first; where the exponent's access is refused, or stops the
stream, the token waits for it alone, so that neither is written twice (FS-31). -/
def denseToken (e slot : Nat) (t : Stream) (k : Token) (s : State) : Out :=
  let p := t.cmd.pat
  if t.exhausted then .next (s.takeToken e slot true t)
  else
    let a := p.address t.position
    let done := fun (t : Stream) (s : State) => Host.Outcome.next (s.takeToken e slot false ({ t with count := t.count + p.size }.afterWrite k.sb))
    let exponent := fun (t : Stream) (s : State) =>
      writeValue e slot t p.space (p.expAddress a) 2 (k.data.toNat / 256 % 65536) s (fun t s => done { t with second := false } s)
    if p.fmt = 5 ∧ t.second then exponent t s
    else onAccess e slot 1 t.position p.space (s.blockAccess p a) s (fun _ _ =>
      writeValue e slot t p.space a p.size (k.data.toNat % 2 ^ (8 * p.size)) s (fun t s =>
        if p.fmt = 5 then
          let u := { t with second := true }
          exponent u (s.modCore (Core.modStream e slot (fun _ => u)))
        else done t s))

/-- STREAM_WRITE_TOKEN (R195): a write stream takes the next token of its port. -/
def execStreamWriteToken (e slot : Nat) (s : State) : Out :=
  match Map.find (s.core.engine e).slots slot with
  | none => .next s
  | some t =>
    let p := t.cmd.pat
    match t.failed with
    | some r => .next (s.fibreFault e slot r)
    | none =>
      match Map.get [] s.core.fab.outq (t.cmd.port - 16) with
      | [] => .next s
      | x :: _ =>
        if !t.runs ∨ t.cmd.port < 16 ∨ x.epoch ≠ t.cmd.epoch then .next s
        else if x.tok.isCtl 1 then .next (s.takeToken e slot t.key.isSome { t with eos := true, key := none })
        else if p.kind = 4 then mergeToken e slot t x.tok s
        else if x.tok.ctl then .next (s.takeToken e slot false t)
        else if x.tok.isBubble then .next (s.takeToken e slot false (if p.sbp ≠ 1 ∧ !t.exhausted then t.nextRow else t))
        else denseToken e slot t x.tok s

/-! ### Ends (R188, R198, R202, R213) -/

/-- The byte count that the release of a stream reports (R294, R359). -/
def Stream.released (t : Stream) : Nat :=
  if t.cmd.sub ≠ 1 then 0 else if t.cmd.pat.kind = 4 then 8 * t.merges else t.count

/-- The release of an ended stream on its way (R198). -/
def Stream.release (e slot : Nat) (t : Stream) : HaspFlight :=
  { ref := t.cmd.hasp.ref, hid := t.cmd.hasp.hid, rel := true, bytes := t.released, order := t.cmd.hasp.order, a := e, b := slot }

/-- Whether merges of a stream are still to be applied. -/
def State.streamMerges (s : State) (e slot : Nat) (t : Stream) : Bool :=
  s.dies.any (fun d => (d.2.fibQueue (s.streamIssuer e slot)).any (fun o => o.ofStream t))

/-- An ended stream leaves: it counts as completed (R202). -/
def Engine.complete (g : Engine) : Engine := { g with completed := g.completed + 1 }

/-- The end of the first stream that was ended in its queue (R213). -/
def endQueued (e : Nat) (s : State) : Out :=
  match (s.core.engine e).ending with
  | [] => .next s
  | t :: rest =>
    if t.cmd.hasp.rel then
      if t.relSent then .next s
      else .next (s.modCore (fun c =>
        { c.modEngine e (fun g => { g with ending := { t with relSent := true } :: rest }) with flights := c.flights ++ [t.release e 4] }))
    else .next (s.modCore (fun c => c.modEngine e (fun g => { g.complete with ending := rest })))

/-- STREAM_END (R188): an input stream after its EOS, an output stream once its writes are performed; its release goes out; then it
counts as completed. Slot 4 is the queue of streams ended before they started. -/
def execStreamEnd (e slot : Nat) (s : State) : Out :=
  if slot = 4 then endQueued e s
  else match Map.find (s.core.engine e).slots slot with
    | none => .next s
    | some t =>
      match t.failed with
      | some r => .next (s.fibreFault e slot r)
      | none =>
        if !t.eos ∨ !t.acquired ∨ t.fault.isSome ∨ s.streamMerges e slot t then .next s
        else if !t.ended then
          lineBank e slot t s (fun s =>
            match s.flushLine t with
            | none => .next (s.failStream e slot causeType (streamType ((t.line.headD (0, 0)).1) t.cmd.pat.space e slot))
            | some u => .next (u.modCore (Core.modStream e slot (fun t => { t with ended := true, line := [] }))))
        else if t.cmd.hasp.rel then
          if t.relSent then .next s
          else .next (s.modCore (fun c =>
            { c.modStream e slot (fun t => { t with relSent := true }) with flights := c.flights ++ [t.release e slot] }))
        else .next (s.modCore (fun c => c.modEngine e (fun g => { g.complete with slots := Map.erase g.slots slot })))

end Sys2Proof.Machine
end

