-- ==== Sys2Proof/Machine/CopyRun.lean ====
section
/-! DEFINITION. Copies at work (spec/08_stream_instructions.md R204, R205, R218 to R220): start, landing of words, completion, failure. -/

namespace Sys2Proof.Machine

/-- Change the copy at the head of a channel. -/
def Core.modCopy (ch : Nat) (f : Copy → Copy) (c : Core) : Core :=
  c.modChan ch (fun g => match g.queue with
    | x :: t => { g with queue := f x :: t }
    | [] => g)

/-- The target lines of a cancelled MMUL are full, their contents unchanged (R205, R296). -/
def Core.fillLines (m : MatCmd) (c : Core) : Core :=
  if m.load then c else { c with acc := c.acc.markRange true m.lines.1 m.lines.2 }

/-- Cancel every copy of a channel: no release, CAN, the follow-ons discarded (R205, R220); WPWAIT counts them as ended (R294). -/
def Core.cancelChannel (ch : Nat) (c : Core) : Core :=
  let d := (c.chan ch).queue.foldl (fun d x => match x.mcmd with
    | some m => d.fillLines m
    | none => d) c
  { d.modChan ch (fun g =>
      { g with queue := [], can := true, gone := g.gone + (g.queue.map (fun x => x.len - x.landed)).sum }) with
    flights := c.flights.filter (fun x => !(x.unit == 1 && x.a == ch)), faults := c.faults.filter (fun x => x.unit != .copy ch) }

/-- A trap of a copy channel stops that channel only (R220). -/
def State.failCopy (ch cause : Nat) (value : Word) (s : State) : State := (s.modCore (Core.cancelChannel ch)).raiseAsync cause value

/-- TVAL of TYPE raised by a channel (R218). -/
def copyType (addr : Nat) (space : BitVec 3) (ch : Nat) : Word :=
  BitVec.ofNat 64 (addr / 128 * 128 % 2 ^ 32 * 2 ^ 32 + 2 ^ 30 + space.toNat * 2 ^ 16 + 16 + ch % 4 * 4)

/-- STREAMFAULT of a copy (R219); i0 is the byte offset of the access that failed, of a read behind what is read and not landed yet. -/
def State.copyFault (ch : Nat) (va : Word) (access reason : Nat) (s : State) : State :=
  match (s.core.chan ch).queue with
  | [] => s
  | x :: _ =>
    let r := s.faultRecord va x.src [if access = 1 then x.landed else x.landed + x.staged.length, 0, 0, 0] (ch % 4 * 4 + 1) 0xFF reason x.landed 0
    r.2.failCopy ch causeStreamFault r.1

/-- A channel stops on a fault (R327). -/
def State.stopCopy (ch : Nat) (va : Word) (access reason : Nat) (s : State) : State :=
  (s.modCore (Core.modCopy ch (fun x => { x with fault := some (faultVa va) }))).threadFault (.copy ch) va access reason

/-- COPY_START (R204): the channel's next copy begins; its acquire goes first. -/
def execCopyStart (ch : Nat) (s : State) : Out :=
  match (s.core.chan ch).queue with
  | [] => .next s
  | x :: _ =>
    if x.started then .next s
    else
      .next (s.modCore (fun c =>
        let d := c.modCopy ch (fun x => { x with started := true, acquired := !x.hasp.acq })
        if x.hasp.acq then { d with flights := d.flights ++ [{ ref := x.hasp.ref, hid := x.hasp.hid, order := x.hasp.order, unit := 1, a := ch }] } else d))

/-- What an access of a copy answers: the state after it, a wait, or the state after a stop, a failure or a bank's refusal. -/
inductive Landing where
  | landed (s : State)
  | waits
  | ends (s : State)

/-- Whether a copy covers a line of one of its two buffers whole, from its first address there (R99). -/
def Copy.wholeLine (x : Copy) (first : Word) (line : Nat) : Bool :=
  decide (first.toNat ≤ line * 128) && decide (line * 128 + 128 ≤ first.toNat + x.len)

/-- The bytes of a copy's access on one of its two sides, `k` bytes behind the side's first address: a line of a buffer that the copy covers whole
goes in one access, which no other access sees in part (R99, R100); anything else in words of 8 bytes (R204). -/
def Copy.unit (x : Copy) (sp : BitVec 3) (first : Word) (k : Nat) : Nat :=
  let a := (first + BitVec.ofNat 64 k).toNat
  if bufferSpace sp && decide (a % 128 = 0) && x.wholeLine first (a / 128) then 128 else 8

/-- Land bytes in a buffer (R98, R204): a whole line gets F ← 1 and E ← EST with the one access that writes it; a line written in part keeps both, and
takes no estimate where its E is 0. -/
def landBuffer (ch : Nat) (x : Copy) (a : Nat) (bs : List Byte) (s : State) : Landing :=
  let n := a / 128
  if bs.length = 128 then .landed (s.modBuf x.dsp (fun b => ((b.write a bs).setFull n true).setEst n x.est))
  else if x.est && !(s.core.buf x.dsp).isEst n then .ends (s.failCopy ch causeType (copyType a x.dsp ch))
  else .landed (s.modBuf x.dsp (Buffer.write a bs))

/-- Land 8 bytes in mem: (R204): on a launch page the mailbox unit takes the word (R364, R367), on a send page the transport unit (R418). -/
def landMem (ch : Nat) (a : Word) (v : Nat) (s : State) : Landing :=
  let pr := s.procAt s.core.proc
  let page := some (va57 a / 65536 * 65536)
  match s.translate s.core.proc 1 false (va57 a) with
  | .right => .ends (s.stopCopy ch a 1 2)
  | .fault r => .ends (s.stopCopy ch a 1 r)
  | .zeros _ => .ends (s.stopCopy ch a 1 0)
  | .frame pa e =>
    let t := s.touch e true
    if s.memBad pa 8 then .ends (s.stopCopy ch a 1 4)
    else if pr.launchVa = page then .landed (t.launchWrite s.core.proc (va57 a % 65536) (BitVec.ofNat 64 v))
    else if pr.sendVa = page then
      match t.sendStore s.core.proc (va57 a % 65536) (BitVec.ofNat 64 v) with
      | some u => .landed u
      | none => .waits
    else .landed (t.unitWrite pa (leBytes 8 v))

/-- Read the next bytes of a copy, which then wait to land (R204). -/
def copyRead (ch : Nat) (x : Copy) (s : State) (k : Copy → State → Landing) : Landing :=
  let pos := x.landed + x.staged.length
  let src := x.src + BitVec.ofNat 64 pos
  let n := x.unit x.ssp x.src pos
  match s.genRead x.ssp src n x.est with
  | .waits => .waits
  | .type a => .ends (s.failCopy ch causeType (copyType a x.ssp ch))
  | .fault va r => .ends (s.stopCopy ch va 0 r)
  | .damaged => .ends (s.copyFault ch src 0 4)
  | .ok v t =>
    let y := { x with staged := x.staged ++ leBytes n v }
    t.atBank (.copy ch) x.hasp.order x.ssp src.toNat n .ends (fun t => k y (t.modCore (Core.modCopy ch (fun _ => y))))

/-- Land the bytes of a copy that go next (R204); WP counts them (R103). -/
def copyWrite (ch : Nat) (x : Copy) (s : State) : Landing :=
  let dst := x.dst + BitVec.ofNat 64 x.landed
  let n := x.unit x.dsp x.dst x.landed
  let bs := x.staged.take n
  let r :=
    if x.dsp = 0 then landMem ch dst (leValue bs) s
    else if x.dsp = 4 then .landed (s.clsWrite dst.toNat bs)
    else s.atBank (.copy ch) x.hasp.order x.dsp dst.toNat n .ends (landBuffer ch x dst.toNat bs)
  match r with
  | .landed t => .landed (t.modCore (fun c =>
      (c.modCopy ch (fun y => { y with landed := y.landed + n, staged := y.staged.drop n })).modChan ch (fun g => { g with wp := g.wp + BitVec.ofNat 64 n })))
  | r => r

/-- The next move of a copy (R204): where the bytes that land next are not read yet, a read goes before. -/
def copyMove (ch : Nat) (x : Copy) (s : State) : Landing :=
  let n := x.unit x.dsp x.dst x.landed
  if x.staged.length < n then copyRead ch x s (fun y t => if y.staged.length < n then .landed t else copyWrite ch y t)
  else copyWrite ch x s

/-- Up to `n` moves. -/
def copyMoves (ch : Nat) : Nat → State → State
  | 0, s => s
  | n + 1, s =>
    match (s.core.chan ch).queue with
    | [] => s
    | x :: _ =>
      if !x.acquired ∨ x.fault.isSome ∨ x.len ≤ x.landed then s
      else match copyMove ch x s with
        | .waits => s
        | .ends t => t
        | .landed t => copyMoves ch n t

/-- COPY_LAND (R204): bytes land, in ascending order. -/
def execCopyLand (ch words : Nat) (s : State) : Out := .next (copyMoves ch (min words 8) s)

/-- The follow-on enters its command stream (R205); where the stream holds its 8 commands (R266) it waits for a place, and its copy with it
(DESIGN CHOICE, log 139). -/
def State.followOnWaits (x : Copy) (s : State) : Bool :=
  x.mcmd.isSome && x.mmul.any (fun m => decide (8 ≤ (s.cluster.mstream (s.core.streamKey m.s.toNat)).length))
def enterFollowOn (ch : Nat) (x : Copy) (s : State) : State :=
  match x.mmul, x.mcmd with
  | some m, some cmd =>
    (s.modCluster (fun k => k.setMstream (s.core.streamKey m.s.toNat) (k.mstream (s.core.streamKey m.s.toNat) ++ [cmd]))).modCore
      (Core.modCopy ch (fun y => { y with mmul := none, mcmd := none }))
  | _, _ => s

/-- COPY_COMPLETE (R204, R205): after the last byte, the follow-on enters its stream, the release goes out, the copy ends. -/
def execCopyComplete (ch : Nat) (s : State) : Out :=
  match (s.core.chan ch).queue with
  | [] => .next s
  | x :: rest =>
    if !x.acquired ∨ x.fault.isSome ∨ x.landed < x.len ∨ x.relSent ∨ s.followOnWaits x then .next s
    else
      let t := enterFollowOn ch x s
      if x.hasp.rel then
        .next (t.modCore (fun c =>
          let d := c.modCopy ch (fun y => { y with relSent := true })
          { d with flights := d.flights ++
              [{ ref := x.hasp.ref, hid := x.hasp.hid, rel := true, bytes := x.len, order := x.hasp.order, unit := 1, a := ch }] }))
      else .next (t.modCore (fun c => c.modChan ch (fun g => { g with queue := rest, completed := g.completed + 1 })))

end Sys2Proof.Machine
end

