-- ==== Sys2Proof/Machine/MatrixRun.lean ====
section
/-! DEFINITION. The matrix array at work (spec/12_engines.md R261 to R268, spec/13_cluster_instructions.md R296, R297): the next command, weight
tiles, products, failures, slots passing to another tenant. -/

namespace Sys2Proof.Machine

/-- The core that a command stream belongs to, by the core whose cluster it is. -/
def Core.issuer (c : Core) (key : Nat) : Nat := c.clusterKey * 16 + key / 4

/-- Raise an asynchronous trap on a core. -/
def State.raiseOnCore (n cause : Nat) (value : Word) (s : State) : State :=
  s.modCoreAt n (fun c => { c with asyncs := c.asyncs ++ [{ cause := cause, value := value }] })

/-- Cancel every command of a stream (R296): target lines full, no release. -/
def State.cancelMatrix (key : Nat) (s : State) : State :=
  let t := s.modCoreAt (s.core.issuer key) (fun c =>
    let d := (s.cluster.mstream key).foldl (fun d m => d.fillLines m) c
    { d with flights := d.flights.filter (fun x => !(x.unit == 2 && x.a == key)) })
  t.modCluster (fun c =>
    { c.setMstream key [] with
      loading := if c.loading = some key then none else c.loading
      multiplying := if c.multiplying = some key then none else c.multiplying })

/-- A trap of a matrix command (R296, R297). -/
def State.failMatrix (key cause : Nat) (value : Word) (s : State) : State :=
  (s.cancelMatrix key).raiseOnCore (s.core.issuer key) cause value

/-- TVAL of TYPE raised by a matrix command or a fire (R218, R297, R300). -/
def unitType (line : Nat) (space : BitVec 3) (kind unit : Nat) : Word :=
  BitVec.ofNat 64 (line * 128 % 2 ^ 32 * 2 ^ 32 + 2 ^ 30 + space.toNat * 2 ^ 16 + kind * 16 + unit * 4)

/-- The first line of estimates that a range touches. -/
def Buffer.firstEst (b : Buffer) (a n : Nat) : Option Nat :=
  ((List.range ((a + n - 1) / 128 - a / 128 + 1)).map (fun k => a / 128 + k)).find? b.isEst

/-! ### Starting (R266, R296) -/

/-- Whether the array may take a stream's next command (R266 rules 1, 3). -/
def State.matrixReady (s : State) (key : Nat) : Bool :=
  let c := s.cluster
  let slotOf := fun (k : Option Nat) => (k.bind (fun k => (c.mstream k).head?)).map (fun m => m.slot)
  match c.mstream key with
  | [] => false
  | m :: _ =>
    c.loading != some key && c.multiplying != some key && !(s.coreAt (s.core.issuer key)).qpt &&
    (if m.load then c.loading.isNone && slotOf c.multiplying != some m.slot else c.multiplying.isNone && slotOf c.loading != some m.slot)

/-- The next stream, round-robin by core and then stream (R266 rule 2). -/
def State.matrixNext (s : State) : Option Nat :=
  let l := (List.range 64).filter s.matrixReady
  match l.find? (fun k => decide (s.cluster.mturn < k)) with
  | some k => some k
  | none => l.head?

/-- Whether an MMUL adds to what its target lines hold (R265). -/
def MatCmd.adds (m : MatCmd) : Bool := !m.load && opndAcc m.opnd && m.m != 0

/-- The first line of estimates among the target lines that an MMUL with ACC adds to: it reads exact data only (R6, R297). -/
def MatCmd.accEst (m : MatCmd) (acc : Buffer) : Option Nat :=
  if m.adds then acc.firstEst m.dst (4 * m.m * m.n) else none

/-- Read the words that an MMUL adds to, at their banks (R99, R265); estimates there cancel its stream with TYPE (R6, R297). -/
def withPrior (key : Nat) (m : MatCmd) (s : State) (k : List Byte → State → Out) : Out :=
  let core := s.core.issuer key
  let n := 4 * m.m * m.n
  match m.accEst (s.coreAt core).acc with
  | some l => .next (s.failMatrix key causeType (unitType l 3 2 (key % 4)))
  | none =>
    if m.adds then s.atBankOf core (.matrix key false) m.hasp.order 3 m.dst n .next (fun s => k ((s.coreAt core).acc.read m.dst n) s)
    else k [] s

/-- The array runs a command; its acquire, if any, is on its way. -/
def State.matrixBegin (key : Nat) (m : MatCmd) (rest : List MatCmd) (prior : List Byte) (s : State) : State :=
  let t := s.modCluster (fun c =>
    { c.setMstream key ({ m with acquired := !m.hasp.acq, prior := prior } :: rest) with
      mturn := key
      loading := if m.load then some key else c.loading, multiplying := if m.load then c.multiplying else some key })
  if m.hasp.acq then
    t.modCoreAt (s.core.issuer key) (fun c =>
      { c with flights := c.flights ++ [{ ref := m.hasp.ref, hid := m.hasp.hid, order := m.hasp.order, unit := 2, a := key }] })
  else t

/-- MATRIX_COMMAND_START (R266, R296): the array takes a command; an MMUL whose shape is not the slot's latched one is cancelled, also one with
M = 0, of which R264 says that it completes (DESIGN CHOICE, log 140). One with ACC reads its target lines now, or, where it acquires, behind its
acquire (R265, R266 rule 4); refused at its bank, it keeps its turn. -/
def execMatrixCommandStart (s : State) : Out :=
  match s.matrixNext with
  | none => .next s
  | some key =>
    match s.cluster.mstream key with
    | [] => .next s
    | m :: rest =>
      let w := s.cluster.wslot m.slot
      if !m.load ∧ (m.k ≠ w.k ∨ m.n ≠ w.n) then .next ((s.modCluster (fun c => { c with mturn := key })).failMatrix key causeProt (BitVec.ofNat 64 m.dst))
      else if m.hasp.acq then .next (s.matrixBegin key m rest [])
      else withPrior key m s (fun prior s => .next (s.matrixBegin key m rest prior))

/-! ### Values (R263 to R265) -/

/-- The raw value number `i` of a block at `a` with `total` values, bx32 exponents behind them. -/
def blockValue (byte : Nat → Byte) (fmt : BitVec 4) (a total i : Nat) : Nat :=
  if fmt = 5 then
    (byte (a + i)).toNat + 256 * (byte (a + total + 2 * (i / 32))).toNat + 65536 * (byte (a + total + 2 * (i / 32) + 1)).toNat
  else if fmtSize fmt = 2 then (byte (a + 2 * i)).toNat + 256 * (byte (a + 2 * i + 1)).toNat
  else (byte (a + i)).toNat

/-- A value as ChunkSum takes it, subnormals flushed (R41, R265). -/
def matrixValue (fmt : BitVec 4) (raw : Nat) : FVal :=
  match fmtOf fmt with
  | some fm => flushSub fm (decodeFmt fm raw)
  | none => .nan

/-- The signed value of an i8. -/
def i8Value (raw : Nat) : Int := ((BitVec.ofNat 8 raw).toInt)

/-- One result (R265): `act` and `wgt` give raw values by k; `prior` is the start of the sum. -/
def matrixResult (fa fw : BitVec 4) (k : Nat) (act wgt : Nat → Nat) (prior : W32) : W32 :=
  (List.range (k / 32)).foldl (fun acc c =>
    let ks := (List.range 32).map (fun i => 32 * c + i)
    if fa = 6 ∧ fw = 6 then acc + BitVec.ofInt 32 ((ks.map (fun i => i8Value (act i) * i8Value (wgt i))).sum)
    else
      toF32 (roundF fp32Fmt 0 false false
        (fAdd 0 (f32 acc) (chunkSum (ks.map (fun i => (matrixValue fa (act i), matrixValue fw (wgt i))))))))
    prior

/-- What a column of a failed slot word gives (R268). -/
def failedResult (fa fw : BitVec 4) : W32 := if fa = 6 ∧ fw = 6 then 0x80000000 else nan32

/-- The results of an MMUL as bytes in address order (R264, R265); `bad` is the column of a lasting fault. -/
def MatCmd.results (m : MatCmd) (act : Buffer) (w : WSlot) (bad : Option Nat) : List Byte :=
  let wb := fun (a : Nat) => Map.get 0 w.bytes a
  (List.range (m.m * m.n)).flatMap (fun i =>
    let row := i / m.n
    let col := i % m.n
    let v :=
      if bad = some col then failedResult m.fmt w.fmt
      else matrixResult m.fmt w.fmt m.k (fun k => blockValue act.byte m.fmt m.src (m.m * m.k) (row * m.k + k))
        (fun k => blockValue wb w.fmt 0 (w.n * w.k) (col * w.k + k)) (BitVec.ofNat 32 (leValue ((m.prior.drop (4 * i)).take 4)))
    leBytes 4 v.toNat)

/-! ### Completing (R263, R264, R267) -/

/-- The command of a stream has done its work: its release goes out, or it leaves its stream. -/
def State.matrixDone (key bytes : Nat) (s : State) : State :=
  match s.cluster.mstream key with
  | [] => s
  | m :: rest =>
    if m.hasp.rel then
      (s.modCluster (fun c => c.setMstream key ({ m with relSent := true } :: rest))).modCoreAt (s.core.issuer key) (fun c =>
        { c with flights := c.flights ++
            [{ ref := m.hasp.ref, hid := m.hasp.hid, rel := true, bytes := bytes, order := m.hasp.order, unit := 2, a := key }] })
    else
      s.modCluster (fun c =>
        { c.setMstream key rest with
          loading := if c.loading = some key then none else c.loading
          multiplying := if c.multiplying = some key then none else c.multiplying })

/-- An MLDW completes (R263): the slot is replaced and its format and shape latched. -/
def completeLoad (key : Nat) (m : MatCmd) (s : State) : Out :=
  let b := (s.coreAt (s.core.issuer key)).wgt
  let n := blockBytes m.fmt (m.n * m.k)
  if !b.allFull m.src n then .next s
  else match b.firstEst m.src n with
    | some l => .next (s.failMatrix key causeType (unitType l 2 2 (key % 4)))
    | none =>
      s.atBankOf (s.core.issuer key) (.matrix key false) m.hasp.order 2 m.src n .next (fun s =>
      let bs := b.read m.src n
      .next ((s.modCluster (fun c =>
        c.modWslot m.slot (fun w => { w with bytes := putBytes [] 0 bs, fmt := m.fmt, k := m.k, n := m.n }))).matrixDone key 0))

/-- An MMUL completes (R264, R265, R268): its lines are written, full and exact; a slot with a lasting fault leaves its grant. -/
def completeMul (key : Nat) (m : MatCmd) (bad : Option Nat) (s : State) : Out :=
  let core := s.core.issuer key
  let b := (s.coreAt core).act
  let n := blockBytes m.fmt (m.m * m.k)
  if m.m = 0 then .next (s.matrixDone key 0)
  else if !b.allFull m.src n then .next s
  else match b.firstEst m.src n with
    | some l => .next (s.failMatrix key causeType (unitType l 1 2 (key % 4)))
    | none =>
      s.atBankOf core (.matrix key false) m.hasp.order 1 m.src n .next (fun s =>
      s.atBankOf core (.matrix key true) m.hasp.order 3 m.dst (4 * m.m * m.n) .next (fun s =>
      let fails := bad.filter (fun c => decide (c < m.n))
      let bs := m.results b (s.cluster.wslot m.slot) fails
      let t := s.modCoreAt core (fun c =>
        { c with acc := (List.range m.lines.2).foldl (fun b k => (b.setFull (m.lines.1 + k) true).setEst (m.lines.1 + k) false) (c.acc.write m.dst bs) })
      let u := if fails.isSome then
          ({ (t.modCluster (fun c => c.modWslot m.slot (fun w => { w with bad := true, owner := none }))) with free := t.free + 1 }).raiseOnCore core causeProt
            (Config.weightFaultValue t.free)
        else t
      .next (u.matrixDone key (4 * m.m * m.n))))

/-- The column of a lasting fault, and the count of an error that was corrected or gone at the re-read (R268, R401). -/
def weightColumn : WeightOutcome → Option Nat
  | .lasting c => some c
  | _ => none
def State.countWeight (ecc : WeightOutcome) (s : State) : State :=
  match ecc with
  | .corrected => s.modCluster (fun c => { c with weightCorrected := c.weightCorrected + 1 })
  | .transient => s.modCluster (fun c => { c with weightCorrected := c.weightCorrected + 1 })
  | _ => s

/-- MATRIX_COMMAND_COMPLETE (R267): the running MLDW or MMUL completes; `ecc` is what the check bits of the weights that an MMUL reads find
(R268). An MMUL that acquired reads the words that it adds to first. -/
def execMatrixCommandComplete (load : Bool) (ecc : WeightOutcome) (s : State) : Out :=
  match (if load then s.cluster.loading else s.cluster.multiplying) with
  | none => .next s
  | some key =>
    match s.cluster.mstream key with
    | [] => .next s
    | m :: rest =>
      if !m.acquired ∨ m.relSent then .next s
      else if m.hasp.acq ∧ m.adds ∧ m.prior.length < 4 * m.m * m.n then
        withPrior key m s (fun prior s => .next (s.modCluster (fun c => c.setMstream key ({ m with prior := prior } :: rest))))
      else if load then completeLoad key m s else completeMul key m (weightColumn ecc) (s.countWeight ecc)

/-- SLOT_REASSIGN (R261): the slot is zeroed and set to bf16, 128 × 128; a slot with a lasting fault is granted no more (R268). -/
def execSlotReassign (slot tenant : Nat) (s : State) : Out :=
  let busy := s.cluster.mstreams.any (fun e => e.2.any (fun m => m.slot == slot))
  if 64 ≤ slot ∨ busy ∨ (s.cluster.wslot slot).bad then .next s
  else .next (s.modCluster (fun c => { c with wslots := Map.set c.wslots slot { owner := some tenant } }))

end Sys2Proof.Machine
end

