-- ==== Sys2Proof/Machine/CrossbarRun.lean ====
section
/-! DEFINITION. The crossbar bank at work (spec/12_engines.md R269 to R280, spec/13_cluster_instructions.md R300 to R302): fires, drift,
calibration, programming, erasure on reassignment. -/

namespace Sys2Proof.Machine

/-! ### Commands of an array -/

/-- Change the command at the head of an array's queue, and drop it. -/
def XArray.modHead (f : XbarCmd → XbarCmd) (a : XArray) : XArray :=
  match a.queue with
  | x :: t => { a with queue := f x :: t }
  | [] => a
def XArray.pop (a : XArray) : XArray := { a with queue := a.queue.drop 1 }

/-- The target lines of a fire are full, their contents unchanged. -/
def Core.fillTarget (dst : Nat) (c : Core) : Core := { c with acc := c.acc.markRange true (dst / 128) 16 }

/-- The command at an array's head has done its work: its release goes out, or it leaves the queue (R273 rule 5, R301). -/
def State.xbarDone (arr bytes : Nat) (s : State) : State :=
  match (s.cluster.array arr).queue with
  | [] => s
  | x :: _ =>
    if x.hasp.rel then
      (s.modCluster (fun c => c.modArray arr (XArray.modHead (fun x => { x with relSent := true })))).modCoreAt x.core (fun c =>
        { c with flights := c.flights ++
            [{ ref := x.hasp.ref, hid := x.hasp.hid, rel := true, bytes := bytes, order := x.hasp.order, unit := 3, a := arr }] })
    else s.modCluster (fun c => c.modArray arr XArray.pop)

/-- The acquire of the command at an array's head goes out (R273 rule 5, R301). -/
def sendAcquire (arr : Nat) (x : XbarCmd) (s : State) : State :=
  (s.modCluster (fun c => c.modArray arr (XArray.modHead (fun x => { x with acqSent := true })))).modCoreAt x.core (fun c =>
    { c with flights := c.flights ++ [{ ref := x.hasp.ref, hid := x.hasp.hid, order := x.hasp.order, unit := 3, a := arr }] })

/-- The shim record of an array is the one its lane's cache of 64 used last (R273). -/
def Cluster.useShim (arr : Nat) (c : Cluster) : Cluster :=
  let l := arr :: c.shimCache.filter (fun x => x != arr)
  let own := (l.filter (fun x => laneOf x == laneOf arr)).take 64
  { c with shimCache := l.filter (fun x => laneOf x != laneOf arr || own.contains x) }

/-! ### Shim records (R276) -/

/-- A shim record's bytes with a value of CHECK. -/
def XArray.shimBytes (id : Nat) (check : Nat) (a : XArray) : List Byte :=
  leBytes 4 id ++ leBytes 4 a.progs ++ leBytes 4 a.sw.toNat ++ leBytes 4 a.state.code ++ leBytes 8 a.calCyc.toNat ++ leBytes 4 a.drf.toNat ++
  leBytes 2 a.refA.toNat ++ leBytes 2 a.refB.toNat ++ leBytes 4 check ++ List.replicate 28 0 ++
  (List.range 256).flatMap (fun j => leBytes 2 (Map.get 0 a.ofs j % 64 * 1024 + Map.get 0 a.gain j % 1024))

/-- CHECK over a record with this field zero (R276, R222). -/
def shimCheck (bs : List Byte) : Nat := ((bs.take 0x20 ++ List.replicate 4 0 ++ bs.drop 0x24).foldl crcByte 0xFFFFFFFF ^^^ 0xFFFFFFFF).toNat
def XArray.shimRecord (id : Nat) (a : XArray) : List Byte := a.shimBytes id (shimCheck (a.shimBytes id 0))

/-- ID of an array of a cluster, and the place of its record in its stack's region (DESIGN CHOICE, log 98: in the order of ID). -/
def shimId (cluster arr : Nat) : Nat := cluster / 16 % 16 * 2 ^ 17 + cluster % 16 * 2 ^ 13 + arr % 2 ^ 13
def State.shimAt (s : State) (cluster arr : Nat) : Nat := s.shimBase (cluster / 16) + 576 * (cluster % 16 * 8192 + arr)

/-- The lane writes an array's record to DRAM (R276, R277). -/
def State.writeShim (arr : Nat) (s : State) : State :=
  s.setMem (s.shimAt s.core.clusterKey arr) ((s.cluster.array arr).shimRecord (shimId s.core.clusterKey arr))

/-- An erased array's record: zero apart from ID and PROGS (R280). -/
def State.clearShim (arr : Nat) (s : State) : State :=
  s.setMem (s.shimAt s.core.clusterKey arr)
    (leBytes 4 (shimId s.core.clusterKey arr) ++ leBytes 4 (s.cluster.array arr).progs ++ List.replicate 568 0)

/-- Whether a record that a lane reads from DRAM fails its CHECK (R276, R304). -/
def State.shimBad (s : State) (arr : Nat) : Bool :=
  let pa := s.shimAt s.core.clusterKey arr
  s.memBad pa 576 || decide (shimCheck (s.memBytes pa 576) ≠ s.memNat (pa + 0x20) 4)

/-! ### Starting a fire (R273) -/

/-- The fires of a core to a lane that have not started, oldest first: (acceptance number, array). -/
def Cluster.firesOf (c : Cluster) (lane core : Nat) : List (Nat × Nat) :=
  c.arrays.flatMap (fun e =>
    if laneOf e.1 = lane then (e.2.queue.filter (fun x => x.kind == 1 && x.core == core && !x.started)).map (fun x => (x.hasp.order, e.1)) else [])

/-- The array of a core's oldest fire to the lane (R273 rule 1). -/
def Cluster.nextFire (c : Cluster) (lane core : Nat) : Option Nat :=
  ((c.firesOf lane core).foldl (fun (m : Option (Nat × Nat)) x => match m with
    | some y => if x.1 < y.1 then some x else some y
    | none => some x) none).map (fun x => x.2)

/-- Whether a core's oldest fire to the lane may start: at its array's head, acquired, its five input lines full (R273). -/
def State.fireReady (s : State) (lane core : Nat) : Option Nat :=
  match s.cluster.nextFire lane core with
  | none => none
  | some arr =>
    match (s.cluster.array arr).queue with
    | x :: _ =>
      if x.kind = 1 ∧ x.core = core ∧ !x.started ∧ (x.acquired ∨ (x.hasp.acq ∧ !x.acqSent)) ∧
          ((x.hasp.acq ∧ !x.acquired) ∨ (s.coreAt core).act.allFull x.src 640) then some arr else none
    | [] => none

/-- FIRE_START (R273): the lane takes the next ready fire, round-robin by core; with ACQ its acquire goes first. An input line of estimates
raises TYPE (R300). -/
def execFireStart (lane : Nat) (s : State) : Out :=
  let base := s.core.clusterKey * 16
  let turn := Map.get 15 s.cluster.laneTurn lane
  let ready := (List.range 16).filter (fun k => (s.fireReady lane (base + k)).isSome)
  let next := match ready.find? (fun k => decide (turn < k)) with
    | some k => some k
    | none => ready.head?
  if (Map.find s.cluster.lanes lane).isSome then .next s
  else match next with
    | none => .next s
    | some k =>
      match s.fireReady lane (base + k) with
      | none => .next s
      | some arr =>
        match (s.cluster.array arr).queue with
        | [] => .next s
        | x :: _ =>
          if x.hasp.acq ∧ !x.acquired then .next (sendAcquire arr x s)
          else
            let b := (s.coreAt x.core).act
            let t := s.modCluster (fun c => { c with laneTurn := Map.set c.laneTurn lane k })
            match b.firstEst x.src 640 with
            | some l =>
              .next (((t.modCoreAt x.core (Core.fillTarget x.dst)).modCluster (fun c => c.modArray arr XArray.pop)).raiseOnCore x.core causeType
                (unitType l 1 3 0))
            | none =>
              t.atBankOf x.core (.fire arr false) x.hasp.order 1 x.src 640 .next (fun t =>
              let cached := s.cluster.shimCache.contains arr
              let bad := !cached && s.shimBad arr
              .next ((if cached then t else t.openRows (s.shimAt s.core.clusterKey arr) 576).modCluster (fun c =>
                  (c.modArray arr (XArray.modHead (fun x => { x with started := true, input := b.read x.src 516, badShim := bad }))).useShim arr)))

/-! ### A fire's values (R272, R274) -/

/-- Input p_i and scale s_x of a fire's input lines (R270). -/
def fireInput (bs : List Byte) (i : Nat) : Int := ((bs.getD i 0).toInt)
def fireScale (bs : List Byte) : W32 := BitVec.ofNat 32 (leValue ((bs.drop 512).take 4))

/-- The exact dot product of a column and its pair sum, with levels `q`. -/
def dotOf (q : Nat → Int) (bs : List Byte) : Int := ((List.range 512).map (fun i => q i * fireInput bs i)).sum
def pairSum (q : Nat → Int) (bs : List Byte) : Nat := ((List.range 512).map (fun i => (q i).natAbs * (fireInput bs i).natAbs)).sum

/-- The levels of a data column, of REFA and of REFB (R269, R274). -/
def XArray.column (a : XArray) (j i : Nat) : Int := Map.get 0 a.levels (256 * i + j)
def refLevel (r i : Nat) : Int := if r = 0 then 8 else if i % 2 = 0 then 15 else -15

/-- OFS, i6, and GAIN of a column entry or of a reference's entry (R276). -/
def XArray.colOfs (a : XArray) (j : Nat) : Int := (BitVec.ofNat 6 (Map.get 0 a.ofs j)).toInt
def XArray.colGain (a : XArray) (j : Nat) : Nat := Map.get 0 a.gain j % 1024
def entryOfs (e : W32) : Int := (BitVec.ofNat 6 (e.toNat / 1024)).toInt
def entryGain (e : W32) : Nat := e.toNat % 1024

/-- A raw reading corrected by OFS, GAIN and DRF (R272): (c − OFS / 8) × (1 + (GAIN − 512) / 8192) × DRF. -/
def corrected (raw : Int × Int) (ofs : Int) (gain : Nat) (drf : W32) : FVal :=
  let c : Dy := ⟨decide (raw.1 < 0), raw.1.natAbs, raw.2⟩
  let o : Dy := ⟨decide (0 < ofs), ofs.natAbs, -3⟩
  let g : Dy := ⟨false, 8192 + gain - 512, -13⟩
  fMul (fMul (fAdd 0 (.fin c) (.fin o)) (.fin g)) (f32 drf)

/-- 0.25 + Σ |q||p| / 256, as a number of 256ths (R272, R274). -/
def marginOf (sum : Nat) : Dy := ⟨false, 64 + sum, -8⟩

/-- Whether a reference's reading drifts (R274). -/
def refDrifts (ref : FVal) (exact : Int) (sum : Nat) : Bool :=
  match ref with
  | .fin r =>
    let m := marginOf sum
    dyLt { m with exp := m.exp - 1 } (dyAbs (dyAdd 0 r (dyNeg (dyOfInt exact))))
  | _ => true

/-- The reading of reference r in a fire: free, corrected by the entry of r. -/
def XArray.refReading (a : XArray) (n r : Nat) : FVal :=
  let e := if r = 0 then a.refA else a.refB
  corrected (Config.referenceReading n r) (entryOfs e) (entryGain e) a.drf

/-- The reason of a drift (R274, R304), if drift is declared: the injection, which a READY array takes whatever else it finds (R94), the
shim record, REFA, REFB. -/
def XArray.driftReason (a : XArray) (x : XbarCmd) (n : Nat) : Option Nat :=
  let bad := fun r => refDrifts (a.refReading n r) (dotOf (refLevel r) x.input) (pairSum (refLevel r) x.input)
  if x.inject then some 4 else if x.badShim then some 3 else if bad 0 then some 1 else if bad 1 then some 2 else none

/-- Value and bound of output j (R272). The raw reading is free; the written value keeps within the bound of the exact product, as
R272 promises of a fire without drift. -/
def XArray.output (a : XArray) (x : XbarCmd) (n j : Nat) : W32 × W32 :=
  let scale := fMul (f32 a.sw) (f32 (fireScale x.input))
  let exact : FVal := .fin (dyOfInt (dotOf (a.column j) x.input))
  let bound := roundF fp32Fmt 3 false false (fMul (match scale with
    | .fin d => .fin (dyAbs d)
    | .inf _ => .inf false
    | .nan => .nan) (.fin (marginOf (pairSum (a.column j) x.input))))
  let v := roundF fp32Fmt 0 false false (fMul scale (corrected (Config.columnReading n j) (a.colOfs j) (a.colGain j) a.drf))
  let near := match decodeF fp32Fmt v, decodeF fp32Fmt bound, fMul scale exact with
    | .fin y, .fin b, .fin e => dyLe (dyAbs (dyAdd 0 y (dyNeg e))) b
    | .inf _, .fin _, .fin _ => false
    | .nan, .fin _, .fin _ => false
    | _, _, _ => true
  (toF32 (if near then v else roundF fp32Fmt 0 false false (fMul scale exact)), toF32 bound)

/-- The 16 lines of a fire: the value row, then the bound row (R271). -/
def fireLines (vs : List (W32 × W32)) : List Byte :=
  vs.flatMap (fun v => leBytes 4 v.1.toNat) ++ vs.flatMap (fun v => leBytes 4 v.2.toNat)

/-- Write a fire's 16 lines, full and estimates (R271). -/
def Core.writeFire (dst : Nat) (vs : List (W32 × W32)) (c : Core) : Core :=
  { c with acc := (List.range 16).foldl (fun b k => (b.setFull (dst / 128 + k) true).setEst (dst / 128 + k) true) (c.acc.write dst (fireLines vs)) }

/-- The values of a drifting fire (R275). -/
def driftRow : List (W32 × W32) := List.replicate 256 (nan32, inf32)

/-- A lane that suffers a lasting fault is fenced (R279, R401). -/
def Cluster.fenceLane (lane : Nat) (c : Cluster) : Cluster :=
  if c.lanesFenced.contains lane then c else { c with lanesFenced := c.lanesFenced ++ [lane] }

/-- FIRE_COMPLETE (R273, R275, R300): the lines are written by the state the array had at the start; drift is declared; the release goes
out. A lane that proves lastingly faulty in this fire is fenced. -/
def execFireComplete (lane : FireEnd) (s : State) : Out :=
  match s.cluster.arrays.find? (fun e => laneOf e.1 == lane.lane && (e.2.queue.head?).any (fun x => x.kind == 1 && x.started && !x.relSent)) with
  | none => .next s
  | some (arr, a) =>
    match a.queue with
    | [] => .next s
    | x :: _ =>
      s.atBankOf x.core (.fire arr true) x.hasp.order 3 x.dst 2048 .next (fun s =>
      let s := if lane.fault then s.modCluster (Cluster.fenceLane lane.lane) else s
      let write := fun (vs : List (W32 × W32)) (t : State) => t.modCoreAt x.core (Core.writeFire x.dst vs)
      let worn := fun (reason : Nat) => Host.Outcome.next
        (((write driftRow s).raiseOnCore x.core causeXworn (wornValue a.progs reason arr)).xbarDone arr 2048)
      if s.cluster.fencedLane arr then worn 4
      else match a.state with
        | .zero => .next ((write (List.replicate 256 (0, 0)) s).xbarDone arr 2048)
        | .worn => worn 3
        | .drift => .next ((write driftRow s).xbarDone arr 2048)
        | _ =>
          let t := { s with free := s.free + 1 }
          match a.driftReason x s.free with
          | some r =>
            .next ((((write driftRow t).modCluster (fun c => c.modArray arr (fun a => { a with state := .drift, drs := r }))).raiseOnCore x.core
              causeDrift (driftValue x.dst r arr)).xbarDone arr 2048)
          | none => .next ((write ((List.range 256).map (a.output x s.free)) t).xbarDone arr 2048))

/-! ### Calibration (R277, R302) -/

/-- CALIBRATION (R277, R302): an XCAL at its array's head starts, holding its lane, and then ends by the state found at the start. -/
def execCalibration (arr : Nat) (s : State) : Out :=
  let a := s.cluster.array arr
  let lane := laneOf arr
  match a.queue with
  | [] => .next s
  | x :: _ =>
    if x.kind ≠ 2 then .next s
    else if !x.started then
      if (Map.find s.cluster.lanes lane).isSome then .next s
      else if s.cluster.fencedLane arr ∨ a.state = .worn then
        .next ((s.modCluster (fun c => c.modArray arr XArray.pop)).raiseOnCore x.core causeXworn
          (wornValue a.progs (if s.cluster.fencedLane arr then 4 else 3) arr))
      else if a.state = .zero then .next (s.modCluster (fun c => c.modArray arr XArray.pop))
      else
        .next (s.modCluster (fun c =>
          { c.modArray arr (fun a => { a.modHead (fun x => { x with started := true }) with state := .programming }) with
            lanes := Map.set c.lanes lane arr }))
    else
      .next ({ (s.modCluster (fun c =>
          let d := (c.modArray arr (fun a => (a.calibrated s.free (BitVec.ofNat 64 s.cyc)).pop)).useShim arr
          { d with lanes := Map.erase d.lanes lane })) with free := s.free + 1 }.writeShim arr)

/-! ### Programming (R278, R279, R301) -/

/-- A source byte, as the store holds it: the bank is outside the core (R85, R247). Its level, and the offset of the first that lies outside −15 to
+15. -/
def State.sourceByte (s : State) (o : Nat) : Byte := Map.get 0 s.cluster.store (s.core.clsb.toNat + o)
def State.sourceLevel (s : State) (src k : Nat) : Int := ((s.sourceByte (src + k)).toInt)
def State.badLevel (s : State) (src : Nat) : Option Nat :=
  (List.range 131072).find? (fun k => let q := s.sourceLevel src k; decide (q < -15) || decide (15 < q))

/-- An XPROG begins (R301): its acquire, its source, the check of the levels; the array is BUSY, PROGS counts, the cells are erased and
written. A source word with a lasting error is read as the store holds it (DESIGN CHOICE, log 114: R249 names no such read). -/
def programStart (arr : Nat) (x : XbarCmd) (s : State) : State :=
  let v := s.focus x.core
  match v.badLevel x.src with
  | some k =>
    (s.modCluster (fun c => c.modArray arr XArray.pop)).raiseOnCore x.core causeProt (BitVec.ofNat 64 ((x.src + k) % 2 ^ 32 * 2 ^ 32 + arr))
  | none =>
    let levels := (List.range 131072).foldl (fun m k => Map.put 0 m k (v.sourceLevel x.src k)) []
    let sw := BitVec.ofNat 32 (leValue ((List.range 4).map (fun i => v.sourceByte (x.src + 131072 + i))))
    s.modCluster (fun c => c.modArray arr (fun a =>
      { a.modHead (fun x => { x with started := true }) with state := .programming, progs := a.progs + 1, levels := levels, sw := sw }))

/-- PROGRAMMING (R278, R279): an XPROG at its array's head starts, and then ends: calibrated and READY, or, where a cell failed to
verify, WORN. One that the limit of PROGS refuses leaves the array's state (DESIGN CHOICE, log 138). -/
def execProgramming (arr : Nat) (verified : Bool) (s : State) : Out :=
  let a := s.cluster.array arr
  match a.queue with
  | [] => .next s
  | x :: _ =>
    if x.kind ≠ 0 ∨ x.relSent then .next s
    else if !x.started then
      if x.hasp.acq ∧ !x.acquired then (if x.acqSent then .next s else .next (sendAcquire arr x s))
      else if s.cluster.fencedLane arr ∨ a.state = .worn ∨ 1000000 ≤ a.progs then
        let reason := if s.cluster.fencedLane arr then 4 else if a.state = .worn then 3 else 1
        .next ((s.modCluster (fun c => c.modArray arr XArray.pop)).raiseOnCore x.core causeXworn (wornValue a.progs reason arr))
      else .next (programStart arr x s)
    else if (Map.find s.cluster.lanes (laneOf arr)).isSome then .next s
    else if verified = false then
      .next ((((s.modCluster (fun c => c.modArray arr (fun a => { a with state := .worn }))).writeShim arr).raiseOnCore x.core causeXworn
        (wornValue a.progs 2 arr)).xbarDone arr 0)
    else
      .next (({ (s.modCluster (fun c =>
        (c.modArray arr (fun a => { a.calibrated s.free (BitVec.ofNat 64 s.cyc) with state := .ready, drs := 0 })).useShim arr)) with
          free := s.free + 1 }.writeShim arr).xbarDone arr 0)

/-- ARRAY_ERASE (R280): an array without commands passes to another tenant: every cell erased, the record cleared, ZERO; the erase counts
in PROGS. An array in WORN, which R275 and R279 never let leave it, is neither erased nor passed on (DESIGN CHOICE, log 129). -/
def execArrayErase (arr tenant : Nat) (s : State) : Out :=
  let a := s.cluster.array arr
  if 8192 ≤ arr ∨ a.queue ≠ [] ∨ a.state = .worn then .next s
  else .next ((s.modCluster (fun c =>
    { c with arrays := Map.set c.arrays arr { owner := some tenant, progs := a.progs + 1 }, shimCache := c.shimCache.filter (fun x => x != arr) })).clearShim arr)

end Sys2Proof.Machine
end

