-- ==== Sys2Proof/Machine/Fetch.lean ====
section
/-! DEFINITION. Instruction fetch (R96, R119): the instruction cache, its refill through the translation, and the bytes of the
instruction at PC. -/

namespace Sys2Proof.Machine

/-- The cached line of a process's address (R96). -/
def Core.iline (c : Core) (va : Nat) : Option ILine :=
  c.icache.find? (fun l => l.proc == c.proc && l.line == va / 64)

/-- The instruction word at an address, if its line is cached; an address that breaks the sign rule has none (R95, R96). -/
def Core.iword (c : Core) (va : Word) : Option Nat :=
  if canonical va = false then none
  else match c.iline (va57 va) with
    | some l => some (leValue ((l.bytes.drop (va57 va % 64)).take 4))
    | none => none

/-- Put a line into the instruction cache. -/
def Core.putIline (va : Nat) (bs : List Byte) (c : Core) : Core :=
  { c with icache := { proc := c.proc, line := va / 64, bytes := bs } :: c.icache }

/-- Fetch the line that holds an address (R96): an address that breaks the sign rule and a fatal fault trap PROT with the address; a page
that does not translate, or without execute right, stalls the thread until then. DISCARDED pages give zero words (R324). -/
def fetchLine (va : Word) (s : State) : Out :=
  if canonical va = false then trap causeProt va s
  else match s.translate s.core.proc 2 false (va57 va) with
    | .right => threadFails .fetch va 2 2 s
    | .fault r => threadFails .fetch va 2 r s
    | .zeros e => .next ((s.touch e false).modCore (Core.putIline (va57 va) (List.replicate 64 0)))
    | .frame pa e =>
      if s.memBad (pa / 64 * 64) 64 then threadFails .fetch va 2 4 s
      else .next (((s.touch e false).openRow (pa / 64 * 64)).modCore (Core.putIline (va57 va) (s.memBytes (pa / 64 * 64) 64)))

/-- FETCH_MISS (R96): the line of the word is fetched. PC does not move. -/
def execFetchMiss (va : Word) (s : State) : Out := fetchLine va s

/-- What stands at PC: the address of a word whose line is not cached, or the words of the instruction (R119, R133). -/
inductive Fetched where
  | miss (va : Word)
  | words (ws : List Nat)
  deriving DecidableEq, Repr

/-- The `n` words from an address, up to the first whose line is not cached, and that word's address. -/
def Core.iwords (c : Core) (va : Word) : Nat → List Nat × Option Word
  | 0 => ([], none)
  | n + 1 =>
    match c.iword va with
    | none => ([], some va)
    | some w => (w :: (c.iwords (va + 4) n).1, (c.iwords (va + 4) n).2)

/-- Whether four words begin with an instruction (R119 to R136), its fields legal (R122). -/
def legalWords (w lit w2 lit2 : Nat) : Bool :=
  match decodeWords w lit w2 lit2 with
  | .ok i => i.wellFormed
  | .error _ => false

/-- The words of an MMUL that a CPYM may be followed by, and literals one of which suits every word that has some legal literal. -/
def fusedWord : Nat := 0x3C * 2 ^ 26 + 2 ^ 12 + 2 ^ 9 + 1
def fusedLiteral : Nat := 2 ^ 23
def sampleLiterals : List Nat := [0, 2 ^ 23, 2 ^ 24]

/-- Whether the words fetched so far are no instruction whatever follows them: ILLEGAL comes before every trap and wait of the fetch of the
next word (R133, R137). -/
def alreadyIllegal : List Nat → Bool
  | [w] => !sampleLiterals.any (fun l => legalWords w l fusedWord fusedLiteral)
  | [w, l] => !legalWords w l fusedWord fusedLiteral
  | [w, l, w2] => !legalWords w l w2 fusedLiteral
  | _ => false

/-- Fetch the instruction at PC: its first word says how many words it has. A literal counts as fetched where its line is cached (DEDUCED,
log 94). -/
def Core.fetch (c : Core) : Fetched :=
  match c.iword c.pc with
  | none => .miss c.pc
  | some w =>
    match c.iwords c.pc (wordsNeeded w) with
    | (ws, none) => .words ws
    | (ws, some va) => if alreadyIllegal ws then .words ws else .miss va

/-- The bytes of the words at PC. -/
def fetchedBytes (ws : List Nat) : List Byte := (ws.map bytesOfWord).flatten

/-- Whether the thread is held between instructions: a quiescence request is pending (R105), the task's bound images load (R369), or a trigger
fires, which is ordered before the next instruction (R214). -/
def Core.threadHeld (c : Core) : Bool := c.qreq.isSome || c.fab.loads.any (fun l => l.image.isSome) || c.triggerDue

/-- Whether the thread issues the instruction at PC in its next step: it runs, no asynchronous trap comes first (R182), nothing holds it. -/
def Core.issues (c : Core) : Bool := c.run == .running && (c.asyncs.isEmpty || c.ta) && !c.threadHeld

end Sys2Proof.Machine
end

