-- ==== Sys2Proof/Machine/HaspRun.lean ====
section
/-! DEFINITION. Hasps at work (spec/11_cluster.md R249, R256, spec/13_cluster_instructions.md R293, R294, spec/22_model.md R411): the acquires
and releases of commands, the delivery of wakes, an access of the cluster store with its check bits. -/

namespace Sys2Proof.Machine

/-! ### The home (R251) -/

/-- The operation that a hasp instruction issues to the home, the reference it names, and its meaning (R282, R285). -/
def haspIssue (i : Instr) (s : State) : Option (HaspOp × Word × Out) :=
  match i with
  | .hinit h mode b => some (.init mode.toNat ((s.reg b).toNat / 4096) ((s.reg b).toNat % 4096), s.reg h, execHinit h mode b s)
  | .hacq h => some (.acquire, s.reg h, execHacq h s)
  | .hrel h => some (.release, s.reg h, execHrel h s)
  | .harr h => some (.arrive, s.reg h, execHarr h s)
  | .hsig h b => some (.signal (s.reg b), s.reg h, execHsig h b s)
  | .hwait h => some (.wait, s.reg h, execHwait h s)
  | .join h => some (.join, s.reg h, execJoin h s)
  | .leave h => some (.leave, s.reg h, execLeave h s)
  | _ => none

/-- HASP_OPERATION (R251, R282): the home checks and applies one operation: that of the hasp instruction at which a task's control thread
stands, with the write-back or invalidation that goes with it; its refusal is that instruction's trap. Where the thread issues no such
operation, none reaches the home. -/
def execHaspOperation (task : Nat) (op : HaspOp) (ref : Word) (s : State) : Out :=
  match s.coreOfTask task with
  | none => .next s
  | some c =>
    let t := s.focus c
    if t.core.issues = false then .next s
    else match t.core.fetch with
      | .miss _ => .next s
      | .words ws =>
        match decode (fetchedBytes ws) with
        | .error _ => .next s
        | .ok (i, _) =>
          match haspIssue i t with
          | some (o, r, out) => if o = op ∧ r = ref then out else .next s
          | none => .next s

/-! ### Engine commands (R294) -/

/-- A performed acquire or release of a stream. -/
def Core.streamHasp (x : HaspFlight) (c : Core) : Core :=
  if x.rel = false then c.modStream x.a x.b (fun t => { t with acquired := true })
  else if x.b = 4 then c.modEngine x.a (fun g => { g.complete with ending := g.ending.drop 1 })
  else c.modEngine x.a (fun g => { g.complete with slots := Map.erase g.slots x.b })

/-- A performed acquire or release of a copy. -/
def Core.copyHasp (x : HaspFlight) (c : Core) : Core :=
  if x.rel = false then c.modCopy x.a (fun y => { y with acquired := true })
  else c.modChan x.a (fun g => { g with queue := g.queue.drop 1, completed := g.completed + 1 })

/-- A performed acquire or release of the command at the head of a matrix stream. -/
def Cluster.matrixHasp (x : HaspFlight) (c : Cluster) : Cluster :=
  match c.mstream x.a with
  | [] => c
  | m :: rest =>
    if x.rel = false then c.setMstream x.a ({ m with acquired := true } :: rest)
    else { c.setMstream x.a rest with
           loading := if c.loading = some x.a then none else c.loading
           multiplying := if c.multiplying = some x.a then none else c.multiplying }

/-- A performed acquire or release of the command at the head of an array. -/
def Cluster.arrayHasp (x : HaspFlight) (c : Cluster) : Cluster :=
  c.modArray x.a (fun a => if x.rel then a.pop else a.modHead (fun y => { y with acquired := true }))

/-- The command goes on after its acquire or release. -/
def State.haspPerformed (x : HaspFlight) (s : State) : State :=
  match x.unit with
  | 0 => s.modCore (Core.streamHasp x)
  | 1 => s.modCore (Core.copyHasp x)
  | 2 => s.modCluster (Cluster.matrixHasp x)
  | _ => s.modCluster (Cluster.arrayHasp x)

/-- The stream of a slot, or the first one ended in the queue, is cancelled, with the commands queued behind it. -/
def Core.cancelHasp (x : HaspFlight) (c : Core) : Core :=
  if x.b = 4 then c.modEngine x.a (fun g => { g with queue := [], ending := [], can := true }) else c.cancelStream x.a x.b

/-- The commands of a core on an array are cancelled from its head on: the targets of fires full (R294). -/
def State.cancelArray (arr core : Nat) (s : State) : State :=
  let mine := (s.cluster.array arr).queue.filter (fun y => y.core == core)
  let t := s.modCoreAt core (fun c => mine.foldl (fun c y => if y.kind = 1 then c.fillTarget y.dst else c) c)
  (t.modCoreAt core (fun c => { c with flights := c.flights.filter (fun y => !(y.unit == 3 && y.a == arr)) })).modCluster
    (fun c => c.modArray arr (fun a => { a with queue := a.queue.filter (fun y => y.core != core) }))

/-- A failure at the home cancels the command and what is queued behind it on its unit (R294). -/
def State.haspFailed (x : HaspFlight) (s : State) : State :=
  match x.unit with
  | 0 => s.modCore (Core.cancelHasp x)
  | 1 => s.modCore (Core.cancelChannel x.a)
  | 2 => s.cancelMatrix x.a
  | _ => s.cancelArray x.a s.core.id

/-- ENGINE_HASP_OPERATION (R294): the k-th acquire or release on its way from the core's commands is performed at its home, which reads the
hasp's row (R321); an acquire
waits for the releases of the same hasp accepted before it (R411). -/
def execEngineHaspOperation (k : Nat) (s : State) : Out :=
  match s.core.flights[k]? with
  | none => .next s
  | some x =>
    if x.rel = false ∧ s.relPending x.hid x.order then .next s
    else
      let t := s.modCore (fun c => { c with flights := c.flights.eraseIdx k })
      match t.homeEngine x.hid s.core.tenant x.rel x.bytes with
      | .done u => .next ((u.homeRow x.hid).haspPerformed x)
      | .fail r => .next (((t.homeRow x.hid).haspFailed x).raiseAsync causeHasp (haspValue x.ref r))
      | _ => .next s

/-! ### Wakes (R256, R293, R374) -/

/-- Run a change on a core's turn, then give the turn back. -/
def State.onCore (n : Nat) (f : State → State) (s : State) : State := (f (s.focus n)).focus s.core.id

/-- A waiting core's HWAIT or HACQ completes: an acquire first drops the lines with the key that the hasp had at the grant (R288). -/
def completeWait (key : Option (BitVec 12)) (s : State) : State := (s.acquireGranted key).finish 4

/-- WAKE_DELIVERY (R256, R293): the wake reaches a waiting task on its core, or completes the wait in its saved context; a parked task
joins the tail of its queue (R374). -/
def execWakeDelivery (task : Nat) (s : State) : Out :=
  match (s.taskAt task).wake with
  | none => .next s
  | some hid =>
    let t := s.modTask task (fun k => { k with wake := none, granted := none })
    match s.coreOfTask task with
    | some c => .next (if (s.coreAt c).wait = .hasp hid then t.onCore c (completeWait (s.taskAt task).granted) else t)
    | none =>
      let u := t.modTask task (fun k => { k with saved := k.saved.map (fun v =>
        if v.core.wait = .hasp hid then { v with core := v.core.complete 4 (v.core.pc + 4) } else v) })
      .next (if (s.taskAt task).status = .parked then u.enqueue task false else u)

/-! ### The cluster store (R249) -/

/-- The bank of an offset of the store (R246). -/
def storeBank (off : Nat) : Nat := off / 64 % 32

/-- Hythen reports a lasting fault of a line to the tenant whose partition holds it (R249): the package keeps the reports, of which the spec gives
no form (DESIGN CHOICE, log 115). -/
def State.reportLine (cluster line : Nat) (s : State) : State :=
  match s.tenants.find? (fun t => let p := Map.get (0, 0) t.2.cls cluster; decide (p.1 ≤ 64 * line) && decide (64 * line < p.1 + p.2)) with
  | some t => { s with pkg := { s.pkg with lineReports := s.pkg.lineReports ++ [(t.1, cluster, line)] } }
  | none => s

/-- CLUSTER_STORE_ACCESS (R249): what the check bits find on an access at an offset of the store: a corrected or transient error counts at
its bank (R401); a lasting one fails its 8-byte word from then on, its line is left out of partitions, and its tenant is told. -/
def execClusterStoreAccess (off : Nat) (ecc : EccOutcome) (s : State) : Out :=
  let counted := s.modCluster (fun c => { c with corrected := Map.modify 0 c.corrected (storeBank off) (fun n => n + 1) })
  match ecc with
  | .clean => .next s
  | .transient => .next counted
  | .corrected => .next counted
  | .lasting =>
    if 2 ^ 23 ≤ off ∨ s.cluster.badWords.contains (off / 8) then .next s
    else
      let t := s.modCluster (fun c =>
        { c with badWords := c.badWords ++ [off / 8], badLines := if c.badLines.contains (off / 64) then c.badLines else c.badLines ++ [off / 64] })
      .next (t.reportLine s.core.clusterKey (off / 64))

end Sys2Proof.Machine
end

