-- ==== Sys2Proof/Machine/Sched.lean ====
section
/-! DEFINITION. The stalled plane (spec/01_element.md R25, spec/05_idioms.md R113), quiescence, context switch and scheduling at work
(spec/04_core.md R105, R106, spec/09_bitstream.md R233 to R236, R239, spec/18_scheduling.md R367 to R380). -/

namespace Sys2Proof.Machine

/-! ### Quiescence (R105, R106) -/

/-- QUIESCENCE_REQUEST (R105): for a running task; a precise stop that a debugger asks for names itself as cause 3 (R239), also where a
request is pending already. A held tenant's task is not pre-empted (R377). -/
def execQuiescenceRequest (why : QuiesceCause) (s : State) : Out :=
  let c := s.core
  if c.run ≠ .running then .next s
  else match why with
    | .stop =>
      if (s.taskAt s.taskNum).debug = false ∨ c.stop.isSome then .next s
      else .next (s.modCore (fun c =>
        { (if c.qreq.isSome then c else c.request .stop s.cyc) with stop := some (3, 0xFF, 0xFFFFFF, []) }))
    | .save => if c.qreq.isSome then .next s else .next (s.modCore (Core.request .save s.cyc))
    | w => if c.qreq.isSome ∨ s.tenantHeld c.stack c.tenant then .next s else .next (s.modCore (Core.request w s.cyc))

/-- A wait that a request abandons for good (R105, R356): a YIELD whose hand-over is withdrawn is complete, a PDISCARD runs its whole range again, an
LMARK marks its lines again (R164). -/
def Wait.withdrawn : Wait → Wait
  | .yielded => .none
  | .pages _ => .none
  | .marks _ => .none
  | w => w

/-- A request is withdrawn (R105): the thread issues on at the same PC. A precise stop that is due keeps the request for itself (R239). -/
def Core.withdrawRequest (c : Core) : Core :=
  let d : Core := { c with wait := c.wait.withdrawn }
  if c.stop.isSome ∧ c.qreq ≠ some .stop then { d with qreq := some .stop } else { d.unrequest with stop := none }

/-- QUIESCENCE_WITHDRAWAL (R105). A request made for a kill stands. -/
def execQuiescenceWithdrawal (s : State) : Out :=
  if s.core.qreq.isNone ∨ (s.taskAt s.taskNum).killing then .next s else .next (s.modCore Core.withdrawRequest)

/-- Rule 1 of R106: every generator has stopped, every copy is done or stopped on a fault. -/
def Core.generatorsDone (c : Core) : Bool :=
  c.engines.all (fun e => e.2.slots.all (fun t =>
    decide (16 ≤ t.2.cmd.port) || t.2.eos || t.2.fault.isSome || !t.2.acquired || !c.genOpen t.2)) &&
  c.chans.all (fun e => match e.2.queue with
    | [] => true
    | x :: _ => x.fault.isSome)

/-- Rules 3 and 4: no operation of the thread, the fabric or a unit is under way; a PDISCARD under way has its pages' invalidations
acknowledged (R356). -/
def State.unitsDone (s : State) : Bool :=
  !s.boundaryWaits && s.core.flights.isEmpty && s.core.posted == 0 && !s.core.fab.fencing &&
  !s.xbarPending &&
  (List.range 4).all (fun k =>
    s.cluster.loading != some (s.core.streamKey k) && s.cluster.multiplying != some (s.core.streamKey k))

/-- Whether a step of the fabric leaves it as it is. -/
def sameFabric (s : State) : Out → Bool
  | .next t => decide (t.core.fab = s.core.fab)
  | _ => true

/-- Whether no firing and no hop is possible any more, however long the fabric takes: with a generator stopped on a fault it fires until then
(R107). -/
def State.fabricStill (s : State) : Bool :=
  let t := { s with cyc := s.cyc + 4096 }
  (List.range 192).all (fun n => sameFabric t (fireTarget n t)) &&
  t.core.fab.stages.all (fun e => sameFabric t (execTokenHop (.stage (e.1 / 30) (e.1 % 30)) t)) &&
  (List.range 192).all (fun n => sameFabric t (execTokenHop (.pipe n) t)) &&
  (List.range 16).all (fun k => sameFabric t (execTokenHop (.inPort k) t))

/-- A quiescent point (R106, R107); a switch that a trigger starts now goes before (R214). -/
def State.quiescent (s : State) : Bool :=
  s.core.fab.switch.isNone && !s.core.triggerDue && s.core.generatorsDone && s.core.unheld.isEmpty && (!s.core.heldTokens || s.fabricStill) && s.unitsDone

/-- QUIESCENT_POINT (R106). -/
def execQuiescentPoint (s : State) : Out :=
  if s.core.qreq.isNone ∨ s.core.run = .idle ∨ s.core.qpt ∨ s.quiescent = false then .next s
  else .next (s.modCore (fun c => { c with qpt := true, held := c.heldTokens }))

/-! ### The stalled plane (R25, R113) -/

/-- The lines of a buffer that an access touches. -/
def linesOf (a n : Nat) : List Nat := (List.range ((a + n - 1) / 128 - a / 128 + 1)).map (fun k => a / 128 + k)

/-- The bytes of a buffer that a generator reads for its next token: space, first byte, length. -/
def Stream.reads (t : Stream) : List (BitVec 3 × Nat × Nat) :=
  let p := t.cmd.pat
  match t.due with
  | .value n _ =>
    let a := p.address n
    if p.kind = 3 then (if t.buffer.isEmpty then [(p.space, a.toNat, 4)] else [])
    else if p.kind ≠ 0 then []
    else (p.space, a.toNat, p.size) :: (if p.fmt = 5 then [(p.space, (p.expAddress a).toNat, 2)] else [])
  | _ => []

/-- The bytes of a buffer that a copy reads next. -/
def Copy.reads (x : Copy) : List (BitVec 3 × Nat × Nat) :=
  let k := x.landed + x.staged.length
  if x.acquired ∧ x.fault.isNone ∧ k < x.len then [(x.ssp, (x.src + BitVec.ofNat 64 k).toNat, x.unit x.ssp x.src k)] else []

/-- The bytes of the core's buffers that its units read next: generators, copies, the running matrix commands, the fires at their arrays'
heads. -/
def State.unitReads (s : State) : List (BitVec 3 × Nat × Nat) :=
  let c := s.core
  let matrix : Option Nat → List (BitVec 3 × Nat × Nat) := fun key => match key.bind (fun k => if k / 4 = c.id % 16 then (s.cluster.mstream k).head? else none) with
    | some m => if m.acquired && !m.relSent then
        [if m.load then (2, m.src, blockBytes m.fmt (m.n * m.k)) else (1, m.src, blockBytes m.fmt (m.m * m.k))] else []
    | none => []
  c.engines.flatMap (fun g => g.2.slots.flatMap (fun t => if c.genRuns t.2 then t.2.reads else [])) ++
  c.chans.flatMap (fun g => (g.2.queue.head?.map Copy.reads).getD []) ++ matrix s.cluster.loading ++ matrix s.cluster.multiplying ++
  s.cluster.arrays.flatMap (fun e =>
    (e.2.queue.take 1).flatMap (fun x => if x.kind == 1 && x.core == c.id && x.acquired && !x.started then [(1#3, x.src, 640)] else []))

/-- Whether a command that the core has accepted will write a line of a buffer: a copy, an output stream, a matrix command or a follow-on, a fire. -/
def State.lineFilled (s : State) (sp : BitVec 3) (n : Nat) : Bool :=
  let c := s.core
  let covers := fun (a len : Nat) => decide (a < n * 128 + 128) && decide (n * 128 < a + len)
  let result := fun (m : MatCmd) => !m.load && decide (sp = 3) && covers m.dst (4 * m.m * m.n)
  c.chans.any (fun g => g.2.queue.any (fun x => (x.dsp == sp && covers (x.dst.toNat + x.landed) (x.len - x.landed)) || x.mcmd.any result)) ||
  c.engines.any (fun g => g.2.queue.any (fun q => decide (16 ≤ q.port) && q.pat.space == sp) ||
    g.2.slots.any (fun t => decide (16 ≤ t.2.cmd.port) && t.2.cmd.pat.space == sp)) ||
  (List.range 4).any (fun k => (s.cluster.mstream (c.streamKey k)).any result) ||
  s.cluster.arrays.any (fun e => e.2.queue.any (fun x => x.kind == 1 && x.core == c.id && decide (sp = 3) && covers x.dst 2048))

/-- Whether a unit of the core reads a line that is empty and that no accepted command fills (R113). -/
def State.starved (s : State) : Bool :=
  s.unitReads.any (fun r => bufferSpace r.1 && decide (r.2.2 ≠ 0) && (linesOf r.2.1 r.2.2).any (fun n => !(s.core.buf r.1).full n && !s.lineFilled r.1 n))

/-- STALLED_PLANE (R25): 4,096 cycles without a firing after a quiescence request while some token is neither resident nor held; the oldest
token in the plane is named. A unit that reads a line which no command fills ends in it too (R113): with no token in the plane, element 0 and port
code 7 are named, and one that the fence does not cancel is named no second time while that trap is held (DESIGN CHOICE, log 48). -/
def execStalledPlane (s : State) : Out :=
  let c := s.core
  let ends := fun (e q : Nat) (s : State) => Host.Outcome.next
    ((s.modCore (Core.stopPlane false false)).raiseAsync causeElem (elemValue c.fab.act 5 q e))
  if c.qreq.isNone ∨ c.fab.switch.isSome ∨ s.cyc < max c.qcyc c.fab.lastFiring + 4096 then .next s
  else match c.unheld, oldest c.fab.waiting with
    | _ :: _, some x => ends x.2.1 x.2.2.1 s
    | _, o =>
      if c.fab.active.isSome ∧ s.starved ∧ !c.asyncs.any (fun a => a.cause == causeElem) then
        ends (o.getD (0, 0, 7, 0)).2.1 (o.getD (0, 0, 7, 0)).2.2.1 (s.modFab (fun f => { f with lastFiring := s.cyc }))
      else .next s

/-! ### Saving and restoring (R233 to R235) -/

/-- A stream or copy stopped on a fault issues its access again on restore (R235); a hint's faults are no unit's and stay with the core (R363). -/
def Core.dropFaults (c : Core) : Core :=
  { c with
    faults := [], fatal := none
    engines := c.engines.map (fun e => (e.1, { e.2 with slots := e.2.slots.map (fun t => (t.1, { t.2 with fault := none })) }))
    chans := c.chans.map (fun e => (e.1, { e.2 with queue := e.2.queue.map (fun x => { x with fault := none }) })) }

/-- The load that a save interrupts starts again from its first write (R106). -/
def PlaneLoad.again (l : PlaneLoad) : PlaneLoad := { l with started := false, done := 0, crc := 0xFFFFFFFF, bad := none, lost := false }

/-- What a save keeps of the core (R89, R106, R233): caches and TLB not; a wait with a home stays, every other is abandoned (R164); a reported
failure of a posted operation is due at the first boundary after the restore (R348). -/
def Core.toSave (c : Core) : Core :=
  let d := c.unrequest.dropFaults
  { d with
    icache := [], dcache := [], utlb := [], stalled := false, stop := none, postFails := []
    asyncs := d.asyncs ++ d.postFails.map (fun f => { cause := f.1, value := f.2, fibre := true })
    fab := { d.fab with loads := d.fab.loads.map PlaneLoad.again }
    wait := match c.wait with
      | .hasp h => .hasp h
      | _ => .none }

/-- What of a fabric belongs to the core's hardware (R401; R11, log 106). -/
def Fabric.ofHardware (f : Fabric) : Fabric := { seenElem := f.seenElem, seenRouter := f.seenRouter, transient := f.transient }

/-- The core without its task: what belongs to the hardware, the buffers and the trap frame as the task left them, and
the hints' faults that its pagers have not taken yet (R327, R363). -/
def Core.vacated (c : Core) : Core :=
  { id := c.id, regs := c.regs, etag := c.etag, tcause := c.tcause, tpc := c.tpc, tval := c.tval, act := c.act, wgt := c.wgt, acc := c.acc,
    icache := c.icache, utlb := c.utlb, efnc := c.efnc, rfence := c.rfence, owner := c.owner, last := some c.tenant, proc := c.proc
    tenant := c.tenant, fab := c.fab.ofHardware, faults := c.hintFaults }

/-- Clear the command streams of the core. -/
def State.clearMatrix (s : State) : State :=
  s.modCluster (fun k => (List.range 4).foldl (fun k i => k.setMstream (s.core.streamKey i) []) k)

/-- The save area that a tenant's next saved context takes on a die (R233): the first of its areas that no task holds. -/
def State.areaFor (s : State) (die tenant : Nat) : Option Nat :=
  match Map.find (Map.get {} s.tenants tenant).save die with
  | some (base, n) => ((List.range n).map (fun k => base + 0x60000 * k)).find? (fun a => !s.tasks.any (fun e => e.2.area == some a))
  | none => none

/-- The F bit (or the E bit) of line `n` of the 2,560 lines of a core (R89, R233): 1,536 of act:, 512 of wgt:, 512 of acc:. -/
def lineBit (c : Core) (est : Bool) (n : Nat) : Bool :=
  let of := fun (b : Buffer) (n : Nat) => if est then b.isEst n else b.full n
  if n < 1536 then of c.act n else if n < 2048 then of c.wgt (n - 1536) else of c.acc (n - 2048)

/-- Byte `k` of the 640 bytes at 0x5_0000 of a save area (R233): the F bits of the lines and then their E bits, in the lines' order
(log 95). -/
def lineByte (c : Core) (k : Nat) : Byte :=
  (List.range 8).foldl (fun b i => bif lineBit c (decide (320 ≤ k)) (8 * (k % 320) + i) then b ||| (1#8 <<< i) else b) 0

/-- The bytes of a save area (R233): the three buffers, the F and E bits, zeros behind 0x5_A000, and free values in the regions whose
layout the part fixes and in the bytes of which the table says nothing (log 95). -/
def areaBytes (m : Map Byte) (a : Nat) (c : Core) (free : Nat) : Map Byte :=
  let put := fun (off : Nat) (m : Map Byte) (b : Buffer) => b.bytes.foldl (fun m e => Map.put 0 m (a + off + e.1) e.2) m
  let clear := m.filter (fun e => decide (e.1 < a) || decide (a + 0x60000 ≤ e.1))
  let lines := (List.range 640).foldl (fun m k => Map.put 0 m (a + 0x50000 + k) (lineByte c k))
    (put 0x40000 (put 0x30000 (put 0 clear c.act) c.wgt) c.acc)
  (List.range 0x9D80).foldl (fun m k => Map.put 0 m (a + 0x50280 + k) (Config.saveByte free k)) lines

/-- Write a context into its save area (R233, R321). -/
def State.writeArea (a : Nat) (s : State) : State :=
  { s with mem := areaBytes s.mem a s.core s.free, free := s.free + 1
           dies := (List.range 384).foldl (fun d k => useRowAt d (a + 1024 * k)) s.dies }

/-- Save the context of the task on the core; the data cache is written back (R234). Where the tenant has no free save area on the die, the
context is saved and no area written (DESIGN CHOICE, log 128). -/
def State.saveContext (s : State) : State :=
  let n := s.taskNum
  let area := s.areaFor s.core.stack s.core.tenant
  let u := match area with
    | some a => s.writeBackAll.writeArea a
    | none => s.writeBackAll
  let v : Saved := { core := u.core.toSave, mstreams := (List.range 4).map (fun i => u.cluster.mstream (u.core.streamKey i)) }
  ((u.modTask n (fun t => { t with saved := some v, area := area })).clearMatrix).modCore Core.vacated

/-- Where a saved task goes (R172, R373, R374): parked where it waits for a hasp, else to the tail after a YIELD or a long wait, else
to the head of its queue. -/
def State.requeue (n : Nat) (why : QuiesceCause) (wait : Wait) (s : State) : State :=
  let die := (s.taskAt n).die
  match wait with
  | .hasp _ => (s.modTask n (fun t => { t with status := .parked })).placeEntry die n
  | .yielded => (s.enqueue n false).placeEntry die n
  | _ => (s.enqueue n (why != .waiting)).placeEntry die n

/-- CONTEXT_SAVE (R233): at a quiescent point the context is saved and the core freed, unless the task is to be killed or stopped there
(R239). A request that finds its tenant held is withdrawn: none of its tasks is pre-empted, and a YIELD is complete (R377). -/
def execContextSave (s : State) : Out :=
  match s.core.qreq with
  | none => .next s
  | some .stop => .next s
  | some why =>
    if s.core.qpt = false ∨ s.quiescent = false ∨ s.core.task.isNone ∨ s.core.stop.isSome ∨ (s.taskAt s.taskNum).killing then .next s
    else if why ≠ .save ∧ s.tenantHeld s.core.stack s.core.tenant then .next (s.modCore Core.withdrawRequest)
    else .next (s.saveContext.requeue s.taskNum why s.core.wait)

/-- The tenant's partition in the core's cluster (R92, R246). -/
def State.partition (s : State) (tenant : Nat) : Nat × Nat := Map.get (0, 0) (Map.get {} s.tenants tenant).cls s.core.clusterKey

/-- A saved context on a core (R184, R234): every saved field returns, of the trap frame only under TA = 1; the core's own identity, fences,
TLB, hints' faults and a request that it got meanwhile stay, and so do the fault-seen bits, which mark the core's hardware (DESIGN CHOICE, log 106). -/
def Core.restored (c v : Core) (part : Nat × Nat) : Core :=
  let d : Core := { v with
    id := c.id, efnc := c.efnc, rfence := c.rfence, owner := c.owner, last := c.last, utlb := c.utlb, dispatched := c.dispatched, run := .running
    tcause := if v.ta then v.tcause else c.tcause
    tpc := if v.ta then v.tpc else c.tpc
    tval := if v.ta then v.tval else c.tval
    clsb := BitVec.ofNat 64 part.1, clsz := BitVec.ofNat 64 part.2, faults := v.faults ++ c.hintFaults
    fab := { v.fab with seenElem := c.fab.seenElem, seenRouter := c.fab.seenRouter, transient := c.fab.transient } }
  match c.qreq with
  | some w => d.request w c.qcyc
  | none => d

/-- CONTEXT_RESTORE (R234, R235): the context returns to the core that the scheduler gave its task; its save area, whose rows it opens (R321), is
free. Its started indirect
streams wait for room on the cluster's engine, which runs 8 (R326). -/
def execContextRestore (task : Nat) (s : State) : Out :=
  let c := s.core
  if c.task ≠ some task ∨ c.run ≠ .idle ∨ c.scrub then .next s
  else match (s.taskAt task).saved with
    | none => .next s
    | some v =>
      if v.core.indirect ≠ 0 ∧ 8 < s.indirect + v.core.indirect then .next s
      else
      let d := c.restored v.core (s.partition (s.taskAt task).tenant)
      let r := match (s.taskAt task).area with
        | some a => s.openRows a 0x60000
        | none => s
      let t := (r.modCore (fun _ => d)).modTask task (fun k => { k with saved := none, area := none, status := .running })
      .next (t.modCluster (fun k =>
        (List.range 4).foldl (fun k i => k.setMstream (c.streamKey i) (v.mstreams.getD i [])) k))

/-- The record of a precise stop (R239). EPOCH and the plane are those at the stop, also where the breakpoint fired on the plane that a switch was
taking out (DESIGN CHOICE, log 111). -/
def stopRecord (c : Core) (x : Nat × Nat × Nat × List Nat) : List Byte :=
  leBytes 8 c.pc.toNat ++ leBytes 4 x.1 ++ leBytes 4 c.fab.epoch.toNat ++ leBytes 4 (x.2.1 % 256 * 2 ^ 24 + x.2.2.1 % 2 ^ 24) ++
  leBytes 4 c.fab.act ++ (List.range 4).flatMap (fun i => leBytes 4 (x.2.2.2.getD i 0xFFFFFFFF)) ++ leBytes 8 0

/-- PRECISE_STOP (R239): at the quiescent point, whatever the request was made for, the context is saved and the stop reported with its
record. -/
def execPreciseStop (s : State) : Out :=
  match s.core.qreq, s.core.stop with
  | some _, some x =>
    if s.core.qpt = false ∨ s.quiescent = false ∨ (s.taskAt s.taskNum).killing then .next s
    else .next (s.saveContext.modTask s.taskNum (fun t => { t with status := .stopped, stopRecord := stopRecord s.core x }))
  | _, _ => .next s

/-- INSTRUCTION_PAGE_INVALIDATE (R236): the core discards the cached lines of the page. -/
def execInstructionPageInvalidate (proc : Nat) (va : Word) (s : State) : Out :=
  let page := match s.walk proc (va57 va) with
    | some e => (e.va, e.size)
    | none => (va57 va / 65536 * 65536, 65536)
  .next (s.modCore (fun c => { c with icache := c.icache.filter (fun l =>
    !(l.proc == proc && decide (page.1 / 64 ≤ l.line) && decide (l.line < (page.1 + page.2) / 64))) }))

/-! ### Dispatch (R369, R372, R379) -/

/-- A core is free (R371). -/
def Core.free (c : Core) : Bool := c.task.isNone && !c.scrub && c.run == .idle

/-- Whether a core is eligible for a tenant (R370, R371): its own guaranteed core or a shared one; never the pager core. -/
def Core.eligible (tenant : Nat) (c : Core) : Bool := c.id % 256 != 255 && (c.owner == some tenant || c.owner == none)

/-- The cores of a die that tenants use. -/
def State.coresOf (s : State) (die : Nat) : List Core := (List.range 255).map (fun k => s.coreAt (die * 256 + k))

/-- TID (R92). -/
def tidOf (n prio tenant : Nat) : Word := BitVec.ofNat 64 (n % 2 ^ 32 * 2 ^ 32 + prio % 4 * 256 + tenant % 64)

/-- The bound images as loads (R369). -/
def imageLoads : Nat → List Word → List PlaneLoad
  | _, [] => []
  | k, va :: t => { plane := k, image := some va } :: imageLoads (k + 1) t

/-- A task's first state on a core (R369); asynchronous traps held until it runs come with it (R259), a request that the core got since the
dispatch stays. -/
def Core.firstState (t : Task) (part : Nat × Nat) (c : Core) : Core :=
  let v := c.vacated
  let loads := imageLoads 0 (t.images.take 4)
  { v with
    regs := (Vector.replicate 32 0).set 1 t.arg, etag := Vector.replicate 32 false, pc := t.entry, run := .running, task := some t.num,
    proc := t.proc, tenant := t.tenant, tid := tidOf t.num t.prio t.tenant, icache := [], last := c.last, dispatched := c.dispatched
    qreq := c.qreq, qcyc := c.qcyc, asyncs := t.asyncs, tcause := 0, tpc := 0, tval := 0
    clsb := BitVec.ofNat 64 part.1, clsz := BitVec.ofNat 64 part.2
    fab := { v.fab with loads := loads, planes := loads.map (fun l => (l.plane, { state := .loading })) } }

/-- The reserved task begins on the core: from its first state; a saved one waits for its restore. -/
def State.beginTask (n : Nat) (s : State) : State :=
  let t := s.taskAt n
  if t.saved.isSome then s
  else (s.modCore (Core.firstState t (s.partition t.tenant))).modTask n (fun k => { k with asyncs := [] })

/-- DISPATCH (R372): a free core takes the task that Choose gives it; a core that another tenant used last is scrubbed first. -/
def execDispatch (s : State) : Out :=
  let c := s.core
  if c.free = false ∨ c.id % 256 = 255 ∨ s.die.fenced then .next s
  else match s.choose c with
    | none => .next s
    | some (n, turn, used) =>
      let k := s.taskAt n
      let t := ((s.modDie (fun d =>
        { d.setQueue k.tenant k.prio ((d.queue k.tenant k.prio).erase n) with turn := turn, used := used })).freeEntry k.die n).modTask n
          (fun k => { k with status := .running, asked := none })
      let dirty := match c.last with
        | some x => x != k.tenant
        | none => false
      let u := t.modCore (fun c => { c with task := some n, scrub := dirty, dispatched := s.cyc })
      .next (if dirty then u else u.beginTask n)

/-- SCRUB (R379): every state of R89 takes its after-scrub value, the caches and the micro-TLB are emptied, the command streams
cleared; the core's identity, fences, hints' faults, dispatch and request stay; then the task begins. -/
def execScrub (s : State) : Out :=
  if s.core.scrub = false then .next s
  else
    let t := s.clearMatrix.modCore (fun c =>
      { id := c.id, task := c.task, efnc := c.efnc, rfence := c.rfence, owner := c.owner, dispatched := c.dispatched, qreq := c.qreq, qcyc := c.qcyc
        fab := c.fab.ofHardware, faults := c.hintFaults })
    .next (match s.core.task with
      | some n => t.beginTask n
      | none => t)

/-- LAUNCH (R367): the mailbox unit performs a write to the ARG word of a slot. -/
def execLaunch (proc slot : Nat) (arg : Word) (s : State) : Out :=
  if 64 ≤ slot ∨ (Map.find s.procs proc).isNone then .next s else .next (s.mailboxLaunch proc slot arg)

/-! ### Pre-emption (R373, R374) -/

/-- The head of a queue. -/
def State.headOf (s : State) (die tenant prio : Nat) : Option Nat := ((s.dieAt die).queue tenant prio).head?

/-- Whether a request stands for a task. -/
def State.requested (s : State) (n : Nat) : Bool :=
  match (s.taskAt n).asked with
  | some c => (s.coreAt c).qreq.isSome
  | none => false

/-- Whether a free core of the die takes the task. -/
def State.coreFor (s : State) (die n : Nat) : Bool :=
  (s.coresOf die).any (fun c => c.free && c.eligible (s.taskAt n).tenant && s.admits c n)

/-- The cores that may make room for a task of priority `p` (R373): for the scheduler a task runs from its dispatch (R369). -/
def State.victims (s : State) (die n p : Nat) : List Core :=
  (s.coresOf die).filter (fun c =>
    (c.run == .running || c.run == .idle) && c.qreq.isNone && c.eligible (s.taskAt n).tenant && s.admits c n &&
    match c.task with
    | some m => decide ((s.taskAt m).prio < p) && !s.tenantHeld die (s.taskAt m).tenant
    | none => false)

/-- Whether the scheduler prefers core `a` to core `b` (R373): a guaranteed one, then the lower priority, then the older dispatch. -/
def State.prefers (s : State) (a b : Core) : Bool :=
  let prio := fun (c : Core) => (s.taskAt (c.task.getD 0)).prio
  if a.owner.isSome ≠ b.owner.isSome then a.owner.isSome
  else if prio a ≠ prio b then decide (prio a < prio b)
  else decide (a.dispatched < b.dispatched)

/-- The first queue head, from the highest priority down, for which a running core makes room. -/
def State.preemptChoice (s : State) (die : Nat) : Nat → Option (Nat × Nat)
  | 0 => none
  | p + 1 =>
    let heads := (s.dieAt die).weights.filterMap (fun e => s.headOf die e.1 p)
    let found := heads.findSome? (fun n =>
      if s.requested n ∨ s.coreFor die n then none
      else ((s.victims die n p).foldl (fun (m : Option Core) c => match m with
        | some b => if s.prefers c b then some c else some b
        | none => some c) none).map (fun c => (n, c.id)))
    match found with
    | some x => some x
    | none => s.preemptChoice die p

/-- PREEMPTION (R373): the scheduler of the core's die sends one quiescence request for a queued task of higher priority. -/
def execPreemption (s : State) : Out :=
  match s.preemptChoice s.core.stack 4 with
  | none => .next s
  | some (n, c) => .next ((s.modCoreAt c (Core.request .preempt s.cyc)).modTask n (fun t => { t with asked := some c }))

/-- Whether the thread has waited 2^16 cycles in one of the waits that R374 lists. -/
def Core.longWait (cyc : Nat) (c : Core) : Bool := c.stalled && c.stallCyc.any (fun n => decide (n + 65536 ≤ cyc))

/-- WAIT_PREEMPTION (R374): after 2^16 cycles in one wait, for a task of the same or a higher priority that finds no free core. -/
def execWaitPreemption (s : State) : Out :=
  let c := s.core
  let p := (s.taskAt s.taskNum).prio
  if c.run ≠ .running ∨ c.qreq.isSome ∨ !c.longWait s.cyc ∨ s.tenantHeld c.stack c.tenant then .next s
  else
    let heads := (List.range 4).flatMap (fun q =>
      if q < p then [] else (s.dieAt c.stack).weights.filterMap (fun e => s.headOf c.stack e.1 q))
    if heads.any (fun n => c.eligible (s.taskAt n).tenant && s.admits c n && !s.coreFor c.stack n) then
      .next (s.modCore (Core.request .waiting s.cyc))
    else .next s

/-! ### Queue slots and spill (R376, R377) -/

/-- Where the next record of a tenant's spill region goes, by which leaf (R376): none where the region is full, does not translate, or is not readable
memory (R377). -/
def State.spillAt (s : State) (die tenant : Nat) : Option (Nat × TlbEntry) :=
  let t := Map.get {} s.tenants tenant
  match Map.find t.spill die with
  | none => none
  | some (proc, base, n) =>
    if n ≤ ((s.dieAt die).spilled.filter (fun k => s.entryTenant k == tenant)).length then none
    else match s.translate proc 1 false (base + 64 * (Map.get 0 t.spillNext die % n)) with
      | .frame pa e => if s.memBad pa 64 then none else some (pa, e)
      | _ => none

/-- SPILL (R376, R377): the oldest entry on its way to the spill region is written there, a record of 64 bytes whose layout the spec does not
give (free values, log 95); a write that fails holds the tenant and keeps the entry on chip. `ecc` is what the check bits of the record's words
find (R320). -/
def execSpill (ecc : EccOutcome) (s : State) : Out :=
  match s.die.spilling with
  | [] => .next s
  | n :: rest =>
    let tenant := s.entryTenant n
    let s := match s.spillAt s.core.stack tenant with
      | some (pa, _) => s.modDieAt (paStack pa) (Die.eccAt pa ecc)
      | none => s
    match s.spillAt s.core.stack tenant with
    | some (pa, e) =>
      let t := (s.agentUse e true).setMem pa ((List.range 64).map (Config.spillByte s.free))
      let u := t.modDie (fun d => { d with spilling := rest, spilled := d.spilled ++ [n] })
      .next { u with free := u.free + 1, tenants := Map.modify {} u.tenants tenant (fun x =>
        { x with spillNext := Map.modify 0 x.spillNext s.core.stack (fun k => k + 1) }) }
    | none =>
      .next (s.modDie (fun d =>
        { d with spilling := rest, onChip := d.onChip ++ [n]
                 heldTenants := if d.heldTenants.contains tenant then d.heldTenants else d.heldTenants ++ [tenant] }))

/-- The read of a tenant's oldest spill record on a die (R376): its row opens, and its page is used (R321, R323). -/
def State.readSpill (die tenant : Nat) (s : State) : State :=
  let t := Map.get {} s.tenants tenant
  match Map.find t.spill die with
  | none => s
  | some (proc, base, n) =>
    let m := ((s.dieAt die).spilled.filter (fun k => s.entryTenant k == tenant)).length
    match s.translate proc 0 false (base + 64 * ((Map.get 0 t.spillNext die - m) % n)) with
    | .frame pa e => (s.agentUse e false).openRow pa
    | _ => s

/-- SPILL_RETURN (R376): the oldest spilled entry that finds a slot is read and returns on chip. -/
def execSpillReturn (s : State) : Out :=
  match s.die.spilled.find? (fun n => s.slotFree s.core.stack (s.entryTenant n)) with
  | none => .next s
  | some n => .next ((s.readSpill s.core.stack (s.entryTenant n)).modDie (fun d => { d with spilled := d.spilled.erase n, onChip := d.onChip ++ [n] }))

/-- Hythen restores a tenant's spill region on a die (R377): where it names a new one (process, address, records), the spilled records stand
there from its start. -/
def State.restoreSpill (die tenant : Nat) (region : Option (Nat × Nat × Nat)) (s : State) : State :=
  match region with
  | none => s
  | some r =>
    let n := ((s.dieAt die).spilled.filter (fun k => s.entryTenant k == tenant)).length
    { s with tenants := Map.modify {} s.tenants tenant (fun x =>
      { x with spill := Map.set x.spill die r, spillNext := Map.put 0 x.spillNext die n }) }

/-- TENANT_HOLD_END (R377): Hythen has restored the region, so that a record finds its place there, and the tenant's entries on chip fit its
guaranteed count. -/
def execTenantHoldEnd (h : HoldEnd) (s : State) : Out :=
  let t := s.restoreSpill s.core.stack h.tenant h.region
  if s.slotsOf s.core.stack h.tenant < s.slotsUsed s.core.stack h.tenant ∨ (t.spillAt s.core.stack h.tenant).isNone then .next s
  else .next (t.modDie (fun d => { d with heldTenants := d.heldTenants.erase h.tenant }))

/-! ### Killing (R258, R378) -/

/-- The scheduler frees a killed holder's lock without a release and sets LOST (R258); of a hasp that fails the home's checks nothing changes
(R251). -/
def State.freeLock (n hid : Nat) (s : State) : State :=
  let h := s.hasp hid
  if h.mode = 0 ∧ h.p = n ∧ s.homeCheckFrom (s.taskAt n).die hid (s.taskAt n).tenant = none then
    let r := s.handLock hid { h with lost := true }
    r.2.2.watched hid r.1 r.2.1
  else s.homeRow hid

/-- A core that reserved itself for a task is free again. -/
def Core.unreserve (n : Nat) (c : Core) : Core := if c.task = some n ∧ c.run = .idle then { c with task := none } else c
def State.unreserve (n : Nat) (s : State) : State :=
  { s with core := s.core.unreserve n, others := s.others.map (fun e => (e.1, e.2.unreserve n)) }

/-- A killed task's registrations, groups, locks and queue entry (R378). -/
def State.killRecords (n : Nat) (s : State) : State :=
  let t := (s.dies.flatMap (fun d => (d.2.regs.filter (fun r => r.task == n)).map (fun r => r.hid))).foldl (fun u h => u.withdraw (s.taskAt n).die h n) s
  let u := t.leaveAll (s.taskAt n).die n true
  let v := (u.taskAt n).locks.foldl (fun w h => w.freeLock n h) u
  let k := v.taskAt n
  ((v.modDieAt k.die (fun d => d.setQueue k.tenant k.prio ((d.queue k.tenant k.prio).erase n))).freeEntry k.die n).modTask n
    (fun k => { k with status := .killed, killing := false, saved := none, notes := [], locks := [], request := none, reply := none, wake := none, granted := none })

/-- The running command of a core on an array stops: an XPROG or XCAL gives its lane up and leaves the array DRIFT (DESIGN CHOICE, log
100). -/
def Cluster.abandonArray (arr core : Nat) (c : Cluster) : Cluster :=
  match (c.array arr).queue with
  | x :: _ =>
    if x.core = core ∧ (c.array arr).state = .programming then
      { c.modArray arr (fun a => { a with state := .drift }) with lanes := c.lanes.filter (fun e => e.2 != arr) }
    else c
  | [] => c

/-- The core's commands, queued and running, are cancelled without release (R294, R296), and the core is freed (R378). -/
def State.killOnCore (s : State) : State :=
  let c := s.core
  let a := (List.range 4).foldl (fun t ch => t.modCore (Core.cancelChannel ch)) s
  let b := (List.range 4).foldl (fun t k => t.cancelMatrix (c.streamKey k)) a
  let d := (s.cluster.arrays.map (fun e => e.1)).foldl (fun t arr => (t.modCluster (Cluster.abandonArray arr c.id)).cancelArray arr c.id) b
  d.modCore Core.vacated

/-! ### Partitions (R380) -/

/-- PARTITION_ZERO (R380): a tenant that holds no core of the cluster any more loses its partition there, zeroed. -/
def execPartitionZero (tenant : Nat) (s : State) : Out :=
  let k := s.core.clusterKey
  let held := (List.range 16).any (fun i =>
    let c := s.coreAt (k * 16 + i)
    c.owner == some tenant || (c.task.isSome && (s.taskAt (c.task.getD 0)).tenant == tenant))
  let part := s.partition tenant
  if held ∨ part.2 = 0 then .next s
  else
    let t := s.modCluster (fun c => { c with store := c.store.filter (fun e => !(decide (part.1 ≤ e.1) && decide (e.1 < part.1 + part.2))) })
    .next { t with tenants := Map.modify {} t.tenants tenant (fun x => { x with cls := Map.erase x.cls k }) }

end Sys2Proof.Machine
end

