-- ==== Sys2Proof/Machine/DieRun.lean ====
section
/-! DEFINITION. The die at work (spec/16_die.md R318 to R330, spec/17_fibre_instructions.md R363): DRAM accesses and refresh, walks and
invalidations, the pagers, Hythen's escalations, migration, swapping and reclamation. -/

namespace Sys2Proof.Machine

/-! ### DRAM (R318 to R321) -/

/-- DRAM_ACCESS (R319, R320): one access of a controller: the row opens, the check bits answer. A bank that owes a refresh holds its
requests (R321). -/
def execDramAccess (pa : Nat) (_write : Bool) (ecc : EccOutcome) (s : State) : Out :=
  if paPresent pa = false then .fault (.absentAddress pa)
  else
    let u := paRow pa
    let d := s.dieAt (paStack pa)
    if d.fenced ∨ d.activations.any (fun e => decide (2048 ≤ e.2) && bankOf e.1 == bankOf u) then .next s
    else .next (s.modDieAt (paStack pa) (fun d => (d.openAt u).eccAt pa ecc))

/-- ROW_HAMMER_REFRESH (R321): at 2,048 activations the neighbours are refreshed, the counter is cleared, the bank's hold counts. -/
def execRowHammerRefresh (row : Nat) (s : State) : Out :=
  if Map.get 0 s.die.activations row < 2048 then .next s
  else .next (s.modDie (Die.refreshRow row))

/-- PERIODIC_REFRESH (R321): a row's own refresh clears its counter; where the row is at 2,048, the neighbours' refresh that its bank owes
is made first, with its hold. -/
def execPeriodicRefresh (row : Nat) (s : State) : Out :=
  .next (s.modDie (fun d =>
    if 2048 ≤ Map.get 0 d.activations row then d.refreshRow row else { d with activations := Map.put 0 d.activations row 0 }))

/-! ### Walks and invalidations (R325) -/

/-- TLB_MISS_WALK (R325, R323): a PRESENT or DISCARDED leaf enters the last-level TLB; the walk sets A, and opens the rows of the entries that
it reads (R321). A walk that cannot read its tables (R320, R393, R402) brings nothing. -/
def execTlbMissWalk (proc : Nat) (va : Word) (s : State) : Out :=
  if (tlbFind s.die.tlb proc (va57 va)).isSome ∨ (Map.find s.procs proc).isNone ∨ s.walkBad proc (va57 va) then .next s
  else match s.walk proc (va57 va) with
    | some e => .next (if pteState e.pte = 0 ∨ pteState e.pte = 4 then s.walkIn e else s.walkRows proc (va57 va))
    | none => .next (s.walkRows proc (va57 va))

/-- Change every core of the package. -/
def State.everyCore (f : Core → Core) (s : State) : State :=
  { s with core := f s.core, others := s.others.map (fun e => (e.1, f e.2)) }

/-- Whether an address of a process lies in a page. -/
def onPage (proc va size p a : Nat) : Bool := p == proc && decide (va ≤ a) && decide (a < va + size)

/-- A core without its translations and instruction lines of a page. -/
def Core.dropPage (proc va size : Nat) (c : Core) : Core :=
  { c with utlb := c.utlb.filter (fun e => !onPage proc va size e.proc e.va),
           icache := c.icache.filter (fun l => !onPage proc va size l.proc (64 * l.line)) }

/-- Drop the data-cache lines of a frame in every core, without write-back (R325). -/
def State.dropFrameLines (frame size : Nat) (s : State) : State :=
  s.everyCore (fun c => { c with dcache := c.dcache.filter (fun l => !inFrame frame size l) })

/-- Write back and drop the data-cache lines of a frame in every core: an eviction, which R408 allows at any time. -/
def State.evictFrame (frame size : Nat) (s : State) : State :=
  let ls := (s.core :: s.others.map (fun e => e.2)).flatMap (fun c =>
    if s.reaches c.stack (paStack frame) then c.dcache.filter (inFrame frame size) else [])
  ({ s with mem := flushLines s.mem ls, dies := openLines s.dies ls }).dropFrameLines frame size

/-- Invalidate a page in every TLB and every instruction cache; the data-cache lines of a DISCARDED one too (R325, R236). -/
def State.invalidate (proc va size : Nat) (s : State) : State :=
  let t : State := { s with dies := s.dies.map (fun e => (e.1, { e.2 with tlb := e.2.tlb.filter (fun x => !onPage proc va size x.proc x.va) })) }
  let u := t.everyCore (Core.dropPage proc va size)
  match u.walk proc va with
  | some e => if pteState e.pte = 4 then u.dropFrameLines (pteFrame e.pte) e.size else u
  | none => u

/-- INVALIDATION_BROADCAST (R325): the oldest change is acknowledged by every TLB. -/
def execInvalidationBroadcast (s : State) : Out :=
  match s.pkg.unacked with
  | [] => .next s
  | u :: rest => .next ({ s with pkg := { s.pkg with unacked := rest } }.invalidate u.1 u.2.1 u.2.2)

/-! ### Frames -/

/-- The tenant's free frames of a size on a stack (R328). -/
def freeKey (tenant size : Nat) : Nat := tenant * 2 + (if size = 65536 then 0 else 1)
def State.freeFrames (s : State) (stack tenant size : Nat) : List Nat := Map.get [] (s.dieAt stack).free (freeKey tenant size)

/-- Take a frame from its list. -/
def State.takeFrame (frame tenant size : Nat) (s : State) : State :=
  s.modDieAt (paStack frame) (fun d =>
    { d with free := Map.put [] d.free (freeKey tenant size) ((Map.get [] d.free (freeKey tenant size)).erase frame) })

/-- Give a frame back to its list, unless an error took part of it out of use (R320) or it is a 1 GiB frame, which has no list. -/
def State.giveFrame (frame tenant size : Nat) (s : State) : State :=
  if 2 ^ 21 < size ∨ (s.dieAt (paStack frame)).outOfUse.any (fun f => decide (frame ≤ f) && decide (f < frame + size)) then s
  else s.modDieAt (paStack frame) (fun d =>
    { d with free := Map.put [] d.free (freeKey tenant size) (Map.get [] d.free (freeKey tenant size) ++ [frame]) })

/-- Clear a frame row by row (R321): zero, and no cached line of it (R328, R404). -/
def State.clearFrame (frame size : Nat) (s : State) : State :=
  ({ s with mem := s.mem.filter (fun e => decide (e.1 < frame ∨ frame + size ≤ e.1)) }.openRows frame size).dropFrameLines frame size

/-- The bytes of one range of DRAM moved to another, in canonical form. -/
def moveBytes (old new size : Nat) (m : Map Byte) : Map Byte :=
  let part := m.filter (fun e => decide (old ≤ e.1) && decide (e.1 < old + size))
  let rest := m.filter (fun e => decide (e.1 < new ∨ new + size ≤ e.1))
  part.foldl (fun r e => Map.set r (new + (e.1 - old)) e.2) rest

/-- A number that follows a page from one frame to another. -/
def movedTo (old new size h : Nat) : Nat := if old ≤ h ∧ h < old + size then new + (h - old) else h

/-- Every number of a hasp that a command, a copy, a core, a task holds, changed by `f`. -/
def CmdHasp.rehid (f : Nat → Nat) (h : CmdHasp) : CmdHasp := { h with hid := f h.hid }
def StreamCmd.rehid (f : Nat → Nat) (q : StreamCmd) : StreamCmd := { q with hasp := q.hasp.rehid f }
def Stream.rehid (f : Nat → Nat) (t : Stream) : Stream := { t with cmd := t.cmd.rehid f }
def MatCmd.rehid (f : Nat → Nat) (m : MatCmd) : MatCmd := { m with hasp := m.hasp.rehid f }
def Copy.rehid (f : Nat → Nat) (x : Copy) : Copy := { x with hasp := x.hasp.rehid f, mcmd := x.mcmd.map (MatCmd.rehid f) }
def Engine.rehid (f : Nat → Nat) (g : Engine) : Engine :=
  { g with queue := g.queue.map (StreamCmd.rehid f), slots := g.slots.map (fun t => (t.1, t.2.rehid f)), ending := g.ending.map (Stream.rehid f) }
def Wait.rehid (f : Nat → Nat) : Wait → Wait
  | .hasp h => .hasp (f h)
  | w => w
def Core.rehid (f : Nat → Nat) (c : Core) : Core :=
  { c with
    wait := c.wait.rehid f
    engines := c.engines.map (fun e => (e.1, e.2.rehid f))
    chans := c.chans.map (fun e => (e.1, { e.2 with queue := e.2.queue.map (Copy.rehid f) }))
    flights := c.flights.map (fun x => { x with hid := f x.hid }) }
def Saved.rehid (f : Nat → Nat) (v : Saved) : Saved := { core := v.core.rehid f, mstreams := v.mstreams.map (fun l => l.map (MatCmd.rehid f)) }
def Task.rehid (f : Nat → Nat) (t : Task) : Task :=
  { t with
    notes := t.notes.map (fun n => (f n.1, n.2)), groups := t.groups.map f, arrived := t.arrived.map f, locks := t.locks.map f
    wake := t.wake.map f, watches := t.watches.map (fun w => (f w.1, w.2)), refs := t.refs.map (fun r => (f r.1, r.2)), saved := t.saved.map (Saved.rehid f) }
def Cluster.rehid (f : Nat → Nat) (k : Cluster) : Cluster :=
  { k with
    mstreams := k.mstreams.map (fun e => (e.1, e.2.map (MatCmd.rehid f)))
    arrays := k.arrays.map (fun e => (e.1, { e.2 with queue := e.2.queue.map (fun x => { x with hasp := x.hasp.rehid f }) })) }

/-- The registrations with hasps of a moved page go to the scheduler of its new home (R256), each from its queue slot or spilled record there to
one of the new die. -/
def State.moveRegs (old new size : Nat) (s : State) : State :=
  let f := movedTo old new size
  let here := fun (r : Registration) => decide (old ≤ r.hid) && decide (r.hid < old + size)
  let rs := (s.dieAt (paStack old)).regs.filter here
  let t := rs.foldl (fun u r => u.freeEntry (paStack old) (regEntry r.task))
    (s.modDieAt (paStack old) (fun d => { d with regs := d.regs.filter (fun r => !here r) }))
  rs.foldl (fun u r => u.placeEntry (paStack new) (regEntry r.task))
    (t.modDieAt (paStack new) (fun d => { d with regs := d.regs ++ rs.map (fun r => { r with hid := f r.hid }) }))

/-- Move a page's contents unchanged to another frame (R328, R404): its bytes, read and written row by row (R321), and the hasps in it with all
that names them. -/
def State.movePage (old new size : Nat) (s : State) : State :=
  let f := movedTo old new size
  let t := (((s.evictFrame old size).dropFrameLines new size).openRows old size).openRows new size
  let u : State := { t with
    mem := moveBytes old new size t.mem
    tasks := t.tasks.map (fun e => (e.1, e.2.rehid f))
    clusters := t.clusters.map (fun e => (e.1, e.2.rehid f)) }
  (u.everyCore (Core.rehid f)).moveRegs old new size

/-- Write a page's entry where no TLB holds it. -/
def State.putPte (e : TlbEntry) (pte : Word) (s : State) : State := { s with ptes := Map.put 0 s.ptes (e.ptePa / 8) pte }

/-! ### Faults (R324, R327 to R329) -/

/-- What a fault token meets when it is looked at (R324): the page is usable; reason 1, of an address without a leaf or outside the sign rule;
reason 2, also of a generator on a launch or send page (R364); a state for the pager; a memory error. -/
inductive FaultCase where
  | fine
  | noLeaf
  | right
  | paged (e : TlbEntry)
  | memory
  deriving DecidableEq, Repr

/-- The address of a fault as the 64-bit one that it is. -/
def wideFault (va : Nat) : Nat := if 2 ^ 64 ≤ va then va - 2 ^ 64 else wideVa va

def State.faultCase (s : State) (f : FaultTok) : FaultCase :=
  if f.reason = 4 then .memory
  else if 2 ^ 64 ≤ f.va then .noLeaf
  else if f.reason = 2 ∧ !f.fibre ∧ (s.procAt f.proc).unitPage f.va then .right
  else match s.walk f.proc f.va with
    | none => .noLeaf
    | some e =>
      match actOn e f.access f.fibre f.va with
      | .frame _ _ => .fine
      | .zeros _ => .fine
      | .right => .right
      | .fault _ => .paged e

/-- The stack of the pager that serves a fault (R327). -/
def State.serving (s : State) (f : FaultTok) : Nat :=
  match s.faultCase f with
  | .paged e => paStack (pteFrame e.pte)
  | _ => f.core / 256

/-- The unit's fault is over: it issues its access again (R329). -/
def Core.faultOver (f : FaultTok) (c : Core) : Core :=
  if c.proc ≠ f.proc then c
  else match f.unit with
    | .stream e slot => c.modStream e slot (fun t => if t.fault = some f.va then { t with fault := none } else t)
    | .copy ch => c.modCopy ch (fun x => if x.fault = some f.va then { x with fault := none } else x)
    | _ => c
def State.returnToken (f : FaultTok) (s : State) : State := s.modCoreAt f.core (Core.faultOver f)

/-- A fault as its token leaves the unit: one whose serving pager no path reaches is a lasting memory error, for the pager of the unit's own die
(R327, R393, R402). -/
def State.outgoing (s : State) (f : FaultTok) : FaultTok := if s.stackCut (f.core / 256) (s.serving f) then { f with reason := 4 } else f

/-- The tokens with pagers that their units' dies no longer reach return to their units, as lasting memory errors (R393, R402). -/
def State.recallTokens (s : State) : State :=
  s.dies.foldl (fun t d =>
    let cut := d.2.pager.filter (fun f => s.stackCut (f.core / 256) d.1)
    cut.foldl (fun u f => u.modCoreAt f.core (fun c => { c with faults := c.faults ++ [{ f with reason := 4 }] }))
      (if cut.isEmpty then t else t.modDieAt d.1 (fun x => { x with pager := x.pager.filter (fun f => !cut.contains f) }))) s

/-- FAULT_TOKEN (R327): a unit's fault goes to its serving pager, which holds 256; a fault that is over by then returns. -/
def execFaultToken (k : Nat) (s : State) : Out :=
  match s.core.faults[k]? with
  | none => .next s
  | some g =>
    let f := s.outgoing g
    let t := s.modCore (fun c => { c with faults := c.faults.eraseIdx k })
    if s.faultCase f = .fine then .next (t.returnToken f)
    else if 256 ≤ (s.dieAt (s.serving f)).pager.length then .next s
    else .next (t.modDieAt (s.serving f) (fun d => { d with pager := d.pager ++ [f] }))

/-- The tokens of a page on this pager that meet the same case as `f`: they are served together (R327). -/
def State.joined (s : State) (f : FaultTok) (size : Nat) : List FaultTok :=
  s.die.pager.filter (fun g => onPage f.proc (f.va / size * size) size g.proc g.va && (g == f || (s.faultCase g == s.faultCase f)))

/-- The size of the page that a fault lies in: its leaf's, or the smallest where it has none. -/
def State.faultSize (s : State) (f : FaultTok) : Nat :=
  match s.walk f.proc f.va with
  | some e => e.size
  | none => 65536

/-- Return tokens of the pager of a stack, all in one step (R327). -/
def State.returnFrom (k : Nat) (l : List FaultTok) (s : State) : State :=
  l.foldl (fun t f => t.returnToken f) (s.modDieAt k (fun d => { d with pager := d.pager.filter (fun g => !l.contains g) }))
def State.returnAll (l : List FaultTok) (s : State) : State := s.returnFrom s.core.stack l

/-- Whether a page holds a record page of Hythen's in its process, read-only: the page of fault records, or a task's trace ring (R219, R238). Hythen
keeps it PRESENT: it neither migrates nor swaps it (DESIGN CHOICE, log 141). -/
def State.recordPage (s : State) (e : TlbEntry) : Bool :=
  (s.procAt e.proc).faultVa.any (fun a => rangesMeet e.va e.size a 4096) ||
  s.tasks.any (fun k => k.2.proc == e.proc && k.2.ring.any (fun r => rangesMeet e.va e.size (va57 r.1) (64 * r.2)))

/-- The tokens that wait with the pager of a migrating page for the end of its migration (R327, R328). -/
def State.migrationTokens (s : State) (e : TlbEntry) : List FaultTok :=
  (s.dieAt (paStack (pteFrame e.pte))).pager.filter (fun g => onPage e.proc e.va e.size g.proc g.va && s.faultCase g == .paged e)

/-- The tenant of a process. -/
def State.tenantOf (s : State) (proc : Nat) : Nat := (s.procAt proc).tenant

/-- The page in a frame just taken, PRESENT (R328): cleared from ZERO, filled from the swap copy from SWAPPED. -/
def State.present (e : TlbEntry) (frame : Nat) (s : State) : State :=
  let t := if pteState e.pte = 2 then s.movePage (pteFrame e.pte) frame e.size else s.clearFrame frame e.size
  t.putPte e (pteSetFrame (pteSetState (s.pteAt e.ptePa) 0) frame)

/-- Whether a frame lies on a fenced die: nothing is read from it or written to it any more (R402). -/
def State.cutOff (s : State) (frame : Nat) : Bool := (s.dieAt (paStack frame)).fenced

/-- Whether a page can be copied from one frame to another: the source reads without a lasting memory error (R320, R328), both dies are in
service (R402), and their stacks reach each other (R393). -/
def State.copyOk (s : State) (old new size : Nat) : Bool :=
  !s.wordsBad old size && !s.cutOff old && !s.cutOff new && s.reaches (paStack old) (paStack new)

/-- Whether the swap copy of a SWAPPED page reads with a lasting memory error (R320, R328). -/
def State.swapBad (s : State) (e : TlbEntry) : Bool := pteState e.pte == 2 && s.wordsBad (pteFrame e.pte) e.size

/-- The pager's own work on a page (R328); none where the case waits or escalates, the swap copy fails, or the stack is out of reach (R402). A
write to a DISCARDED page ends with the invalidation acknowledged, so that no TLB answers it with zeros any more (R330, R407). -/
def State.pagerWork (e : TlbEntry) (s : State) : Option State :=
  let stack := paStack (pteFrame e.pte)
  if s.cutOff (pteFrame e.pte) then none
  else match pteState e.pte with
  | 4 => some (((s.clearFrame (pteFrame e.pte) e.size).putPte e (pteSetState (s.pteAt e.ptePa) 0)).invalidate e.proc e.va e.size)
  | 3 => none
  | _ =>
    if 2 ^ 21 < e.size ∨ s.swapBad e then none
    else match s.freeFrames stack (s.tenantOf e.proc) e.size with
      | [] => none
      | frame :: _ => some ((s.takeFrame frame (s.tenantOf e.proc) e.size).present e frame)

/-- PAGER_RESOLUTION (R328, R330): the pager of the core's stack resolves the fault of its `k`-th token and returns the page's tokens. -/
def execPagerResolution (k : Nat) (s : State) : Out :=
  match s.die.pager[k]? with
  | none => .next s
  | some f =>
    match s.faultCase f with
    | .fine => .next (s.returnAll (s.joined f (s.faultSize f)))
    | .paged e =>
      (match s.pagerWork e with
      | some t => .next (t.returnAll (s.joined f e.size))
      | none => .next s)
    | _ => .next s

/-- The stack a migration of a page goes to. -/
def State.migration (s : State) (proc va : Nat) : Option Nat :=
  (s.pkg.migrations.find? (fun m => m.1 == proc && m.2.1 == va)).map (fun m => m.2.2)

/-- Whether a case escalates to Hythen (R328); a MIGRATING page's where no migration of it is under way any more. -/
def State.escalates (s : State) : FaultCase → Bool
  | .fine => false
  | .paged e => if pteState e.pte = 3 then (s.migration e.proc e.va).isNone else (s.pagerWork e).isNone
  | _ => true

/-- The reason with which Hythen may declare a case fatal (R328): of a ZERO page, reason 1; of a swap copy with a lasting memory error, or of a
page on a fenced die (R402), reason 4. -/
def State.fatalReason (s : State) : FaultCase → Nat
  | .fine => 0
  | .noLeaf => 1
  | .right => 2
  | .paged e => if s.swapBad e ∨ (pteState e.pte ≠ 1 ∧ s.cutOff (pteFrame e.pte)) then 4 else if pteState e.pte = 1 then 1 else 3
  | .memory => 4

/-- A fatal fault reaches its unit: STREAMFAULT of a generator, PROT of the thread's access when it issues again (R328). -/
def State.fatalTo (reason : Nat) (s : State) (f : FaultTok) : State :=
  s.onCore f.core (fun t =>
    if t.core.proc ≠ f.proc then t
    else match f.unit with
      | .stream e slot =>
        if ((Map.find (t.core.engine e).slots slot).bind (fun x => x.fault)) = some f.va then
          t.streamFault e slot (BitVec.ofNat 64 (wideFault f.va)) reason else t
      | .copy ch =>
        if (((t.core.chan ch).queue.head?).bind (fun x => x.fault)) = some f.va then
          t.copyFault ch (BitVec.ofNat 64 (wideFault f.va)) f.access reason else t
      | .hint => t
      | .image => t.modFab (fun b => { b with loads := match b.loads with
          | l :: r => { l with lost := true } :: r
          | [] => [] })
      | _ => t.modCore (fun c => { c with fatal := some f.va }))

/-- Declare tokens fatal; before reason 3 or 4 the page's entry loses V (R328). -/
def State.fatalAll (reason : Nat) (l : List FaultTok) (f : FaultTok) (s : State) : State :=
  let t := if reason = 3 ∨ reason = 4 then
      match s.walk f.proc f.va with
      | some e => s.setPte f.proc e (s.pteAt e.ptePa &&& ~~~1#64)
      | none => s
    else s
  l.foldl (State.fatalTo reason) (t.modDie (fun d => { d with pager := d.pager.filter (fun g => !l.contains g) }))

/-- Whether Hythen may give a frame to a page: it exists, is aligned, is in use by no list, is sound, and is neither of the region of
shim records (R276) nor of a pool's rows (R342). -/
def State.frameOk (s : State) (e : TlbEntry) (frame : Nat) : Bool :=
  paPresent frame && frame % e.size == 0 && !s.keptBack frame e.size && !(s.dieAt (paStack frame)).free.any (fun l => l.2.contains frame) &&
  !(s.dieAt (paStack frame)).outOfUse.any (fun f => decide (frame ≤ f) && decide (f < frame + e.size))

/-- FAULT_ESCALATION (R328): Hythen resolves an escalated fault, with a frame where the page needs one, or declares it fatal. -/
def execFaultEscalation (k : Nat) (how : Escalation) (s : State) : Out :=
  match s.die.pager[k]? with
  | none => .next s
  | some f =>
    let fc := s.faultCase f
    let size := s.faultSize f
    if s.escalates fc = false then .next s
    else match how, fc with
      | .fatal r, _ => if r = s.fatalReason fc then .next (s.fatalAll r (s.joined f size) f) else .next s
      | .resolved (some frame), .paged e =>
        if pteState e.pte ≠ 3 ∧ s.frameOk e frame ∧ !s.cutOff frame ∧ (pteState e.pte = 2 → s.copyOk (pteFrame e.pte) frame e.size) then
          .next ((s.present e frame).returnAll (s.joined f size))
        else .next s
      | .resolved _, _ => .next (s.returnAll (s.joined f size))

/-! ### Migration, swapping, reclamation (R328, R330, R363) -/

def State.endMigration (proc va : Nat) (s : State) : State :=
  { s with pkg := { s.pkg with migrations := s.pkg.migrations.filter (fun m => !(m.1 == proc && m.2.1 == va)) } }

/-- Hythen has acted on the hints about a page (R363). -/
def State.dropHints (proc va : Nat) (s : State) : State :=
  { s with pkg := { s.pkg with hints := s.pkg.hints.filter (fun h => !(h.1 == proc && h.2.1 == va)) } }

/-- PAGE_MIGRATION (R328, R281): Hythen begins to move a PRESENT page; fibre pages never move (R324). -/
def execPageMigration (proc : Nat) (va : Word) (stack : Nat) (s : State) : Out :=
  match s.walk proc (va57 va) with
  | none => .next s
  | some e =>
    if pteState e.pte ≠ 0 ∨ pteFib e.pte ∨ s.recordPage e ∨ 16 ≤ stack ∨ s.haspBusy (pteFrame e.pte) e.size then .next s
    else
      let t := (s.dropHints proc e.va).setPte proc e (pteSetState (s.pteAt e.ptePa) 3)
      .next { t with pkg := { t.pkg with migrations := t.pkg.migrations ++ [(proc, e.va, stack)] } }

/-- MIGRATION_END (R328): on a free frame of the tenant on the stack chosen, contents unchanged; returned to the old frame; or fatal,
with V = 0 and reason 3. It follows the acknowledgement of the change to MIGRATING. Every waiting token returns in this step (R327). A page that
cannot be copied (R320, R393, R402) does not reach a new frame. -/
def execMigrationEnd (proc : Nat) (va : Word) (how : MigrationEnd) (s : State) : Out :=
  match s.walk proc (va57 va) with
  | none => .next s
  | some e =>
    let tenant := s.tenantOf proc
    match s.migration proc e.va with
    | none => .next s
    | some stack =>
      if pteState e.pte ≠ 3 ∨ s.pageUnacked proc e.va then .next s
      else
        let t := s.endMigration proc e.va
        match how with
        | .returned => .next ((t.setPte proc e (pteSetState (s.pteAt e.ptePa) 0)).returnFrom (paStack (pteFrame e.pte)) (s.migrationTokens e))
        | .fatal =>
          let l := s.migrationTokens e
          let u := t.setPte proc e (s.pteAt e.ptePa &&& ~~~1#64)
          .next (l.foldl (State.fatalTo 3) (u.modDieAt (paStack (pteFrame e.pte)) (fun d => { d with pager := d.pager.filter (fun g => !l.contains g) })))
        | .done frame =>
          if paStack frame ≠ stack ∨ !(s.freeFrames stack tenant e.size).contains frame ∨ s.copyOk (pteFrame e.pte) frame e.size = false then .next s
          else
            let u := ((t.takeFrame frame tenant e.size).movePage (pteFrame e.pte) frame e.size).setPte proc e
              (pteSetFrame (pteSetState (s.pteAt e.ptePa) 0) frame)
            .next ((u.giveFrame (pteFrame e.pte) tenant e.size).returnFrom (paStack (pteFrame e.pte)) (s.migrationTokens e))

/-- SWAP_OUT (R363, R324, R281): a PRESENT page goes to its swap copy, contents unchanged, and its frame to the free list; the invalidation
goes with it, since no write may reach the frame afterwards (R404). A page that cannot be copied stays (R320, R393, R402). -/
def execSwapOut (proc : Nat) (va : Word) (copy : Nat) (s : State) : Out :=
  match s.walk proc (va57 va) with
  | none => .next s
  | some e =>
    if pteState e.pte ≠ 0 ∨ pteFib e.pte ∨ s.recordPage e ∨ s.frameOk e copy = false ∨ s.copyOk (pteFrame e.pte) copy e.size = false ∨ s.haspBusy (pteFrame e.pte) e.size then
      .next s
    else
      let t := ((s.dropHints proc e.va).movePage (pteFrame e.pte) copy e.size).putPte e (pteSetFrame (pteSetState (s.pteAt e.ptePa) 2) copy)
      .next ((t.invalidate proc e.va e.size).giveFrame (pteFrame e.pte) (s.tenantOf proc) e.size)

/-- RECLAMATION (R330): a DISCARDED page becomes ZERO on its frame's stack and returns the frame, once its discard is acknowledged. -/
def execReclamation (proc : Nat) (va : Word) (s : State) : Out :=
  match s.walk proc (va57 va) with
  | none => .next s
  | some e =>
    if pteState e.pte ≠ 4 ∨ s.pageUnacked proc e.va ∨ s.haspBusy (pteFrame e.pte) e.size then .next s
    else
      let stack := paStack (pteFrame e.pte)
      let t := s.putPte e (pteSetFrame (pteSetState (s.pteAt e.ptePa) 1) (stack * 2 ^ 37))
      .next ((t.invalidate proc e.va e.size).giveFrame (pteFrame e.pte) (s.tenantOf proc) e.size)

/-! ### Killing (R232, R378) -/

/-- A fault of a generator is declared fatal (R232): its token leaves wherever it waits. -/
def State.fatalGenerator (s : State) (f : FaultTok) : State :=
  let r := s.fatalReason (s.faultCase f)
  let t := s.modCoreAt f.core (fun c => { c with faults := c.faults.filter (fun g => g != f) })
  let u : State := { t with dies := t.dies.map (fun d => (d.1, { d.2 with pager := d.2.pager.filter (fun g => g != f) })) }
  if r = 0 then u.returnToken f
  else
    let v := if r = 3 ∨ r = 4 then
        match u.walk f.proc f.va with
        | some e => u.setPte f.proc e (u.pteAt e.ptePa &&& ~~~1#64)
        | none => u
      else u
    v.fatalTo r f

/-- The faults of a core's generators, held by the core or by a pager. -/
def State.generatorFaults (s : State) (n : Nat) : List FaultTok :=
  ((s.coreAt n).faults ++ s.dies.flatMap (fun d => d.2.pager)).filter (fun f => f.core == n &&
    match f.unit with
    | .stream _ _ => true
    | .copy _ => true
    | _ => false)

/-- TASK_KILL (R378): a queued, parked or saved task at once; a task on a core at a quiescent point or stopped; otherwise the core is
asked for one first, after every fault of its generators is fatal where a switch is in progress (R232). -/
def execTaskKill (task : Nat) (s : State) : Out :=
  match Map.find s.tasks task with
  | none => .next s
  | some k =>
    if k.status = .retired ∨ k.status = .killed then .next s
    else match s.coreOfTask task with
      | none => .next ((s.killRecords task).unreserve task)
      | some c =>
        let x := s.coreAt c
        let stopped := match x.run with
          | .stopped _ _ => true
          | _ => false
        if stopped || x.qpt then .next ((s.killRecords task).onCore c State.killOnCore)
        else
          let t := if x.fab.switch.isSome then (s.generatorFaults c).foldl State.fatalGenerator s else s
          let u := t.modTask task (fun k => { k with killing := true })
          .next (if x.qreq.isSome then u else u.modCoreAt c (Core.request .save s.cyc))

end Sys2Proof.Machine
end

