-- ==== Sys2Proof/Machine/TraceRun.lean ====
section
/-! DEFINITION. The critical-path trace at work (spec/09_bitstream.md R237, R238). -/

namespace Sys2Proof.Machine

/-- A step of a record (R238): node, wait, target, code, port code, ENDP. -/
def traceStep (node wait target code port : Nat) (endp : Bool) : Word :=
  BitVec.ofNat 64 (node % 2 ^ 24 * 2 ^ 40 + wait % 256 * 2 ^ 32 + target % 256 * 2 ^ 24 + code % 8 * 2 ^ 21 + port % 32 * 2 ^ 16 +
    (if endp then 2 ^ 15 else 0))

/-- Where a note's code leads (R237): the target that feeds the port, an input port, or nowhere. -/
def Plane.leadsTo (p : Plane) (t code : Nat) : Source :=
  if 4 ≤ code then .none else p.origin (feedOf t code).1 (feedOf t code).2 32

/-- The walk records a target; then the step to take and where the walk goes on, if it does. A target without a note in the snapshot has code 5
and wait 0, and ends the walk (DESIGN CHOICE, log 112); ENDP and a port code stand only where a step ends at an input port (DESIGN CHOICE, log
127). -/
def Trace.walk (p : Plane) (t : Nat) (x : Trace) : Word × Option Nat :=
  let n := Map.get (5, 0) x.snapshot t
  let step := fun port endp => traceStep (p.nodeOf t) n.2 t n.1 port endp
  match p.leadsTo t n.1 with
  | .port k => (step k true, none)
  | .lane u _ => (step 0 false, if x.seen.contains t ∨ 127 ≤ x.steps.length then none else some u)
  | _ => (step 0 false, none)

/-- The bytes of a record (R238). -/
def traceRecord (x : Trace) (cont : Bool) (steps : List Word) (dropped : Nat) : List Byte :=
  leBytes 8 x.cyc ++ leBytes 4 x.epoch.toNat ++
  leBytes 4 ((if cont then 2 ^ 31 else 0) + steps.length % 128 * 2 ^ 24 + min dropped 255 * 2 ^ 16 + x.start % 256 * 256) ++
  (List.range 6).flatMap (fun i => leBytes 8 (steps.getD i 0).toNat)

/-- Put a record into the task's ring; a ring that is full, not there or out of reach (R393, R402), drops it and counts it (R238). A place is
written once: the ring is full after its last one, until a TRACERING makes a new one (DESIGN CHOICE, log 113). -/
def putRecord (x : Trace) (cont : Bool) (steps : List Word) (s : State) : State :=
  let tr := s.core.fab.trace
  let drop := s.modFab (fun f => { f with trace := { f.trace with dropped := f.trace.dropped + 1 } })
  match (s.taskAt s.taskNum).ring with
  | none => drop
  | some r =>
    let va := r.1 + BitVec.ofNat 64 (64 * tr.ring)
    if r.2 ≤ tr.ring then drop
    else match s.recordLeaf (va57 va) with
      | none => drop
      | some (e, pa) =>
        (((s.markUse e true).setMem pa (traceRecord x cont steps tr.dropped)).dropLines (fun l => l.line == pa / 64)).modFab (fun f =>
          { f with trace := { f.trace with ring := tr.ring + 1, dropped := 0 } })

/-- Put the records of a walk's steps, six to a record. -/
def putRecords (x : Trace) : Nat → List Word → State → State
  | 0, _, s => s
  | n + 1, l, s =>
    if l.isEmpty then s else putRecords x n (l.drop 6) (putRecord x (!(l.drop 6).isEmpty) (l.take 6) s)

/-- TRACE_WALK_STEP (R237, R238): one step of the walk; the step that ends it writes the records, after which a fence that waited for them is
over (R26). -/
def execTraceWalkStep (s : State) : Out :=
  let x := s.core.fab.trace
  match x.node with
  | none => .next s
  | some t =>
    let r := x.walk (s.core.fab.plane x.plane) t
    let steps := x.steps ++ [r.1]
    let u := s.modFab (fun f => { f with trace := { f.trace with node := r.2, steps := steps, seen := t :: x.seen } })
    .next (if r.2.isSome then u else (putRecords x 22 steps u).modFab Fabric.settle)

end Sys2Proof.Machine
end

