-- ==== Sys2Proof/Machine/Services.lean ====
section
/-! DEFINITION. Hythen's services to tasks (spec/21_package.md R395, R398, spec/11_cluster.md R259): each step serves the request that a
task's TRAP has made. -/

namespace Sys2Proof.Machine

/-! ### Accesses of Hythen and of receive agents, at the home -/

/-- What an access of an agent outside the cores finds: the address, the state after the pager's work where it was needed; zeros of a
DISCARDED page; a migration to wait for; no translation or right; a frame on a fenced die. -/
inductive AgentXlat where
  | frame (pa : Nat) (s : State)
  | zeros (s : State)
  | waits
  | no
  | gone

/-- Whether a table that translates an address lies on a fenced die or fails (R320, R402). -/
def State.tablesGone (s : State) (proc va : Nat) : Bool := (s.walkReads proc va).any (fun pa => s.cutOff pa || s.wordsBad pa 8)

/-- Translate for such an agent (R324, R328): what the pager resolves is resolved with the access. The access sets A, and D where it writes,
and a walk opens its tables' rows (R321, R323). Tables on a fenced die, and a page there in every STATE, are out of reach (R402, R423); tables or
a swap copy that fail are a memory error too (R320, R328). -/
def State.agentXlat (s : State) (proc access : Nat) (fibre : Bool) (va : Word) : AgentXlat :=
  if canonical va = false then .no
  else if s.tablesGone proc (va57 va) then .gone
  else match s.walk proc (va57 va) with
    | none => .no
    | some e =>
      let used := s.agentUse e (access == 1)
      match actOn e access fibre (va57 va) with
      | .right => .no
      | x =>
        if s.cutOff (pteFrame e.pte) ∨ s.swapBad e then .gone
        else match x with
          | .frame pa _ => .frame pa used
          | .zeros _ => .zeros used
          | .right => .no
          | .fault _ =>
            if pteState e.pte = 3 then .waits
            else match used.pagerWork e with
              | none => .no
              | some t => match t.walk proc (va57 va) with
                | some e' => .frame (e'.paOf (va57 va)) t
                | none => .no

/-- What a range of bytes gives; `gone` is a memory error. -/
inductive AgentData where
  | bytes (l : List Byte) (s : State)
  | waits
  | no
  | gone

/-- Read `n` bytes of a process. -/
def agentRead (proc : Nat) : Nat → Word → State → AgentData
  | 0, _, s => .bytes [] s
  | n + 1, va, s =>
    let go := fun (b : Byte) (t : State) =>
      match agentRead proc n (va + 1) t with
      | .bytes l u => AgentData.bytes (b :: l) u
      | x => x
    match s.agentXlat proc 0 false va with
    | .frame pa t => if t.wordsBad pa 1 then .gone else go (t.memByte pa) (t.openRow pa)
    | .zeros t => go 0 t
    | .waits => .waits
    | .gone => .gone
    | .no => .no

/-- Write bytes of a process; the answer's list is empty. -/
def agentWrite (proc : Nat) : List Byte → Word → State → AgentData
  | [], _, s => .bytes [] s
  | b :: l, va, s =>
    if (s.procAt proc).unitPage (va57 va) then .no
    else match s.agentXlat proc 1 false va with
      | .frame pa t => agentWrite proc l (va + 1) (t.setMem pa [b])
      | .waits => .waits
      | .gone => .gone
      | _ => .no

/-! ### Requests and replies (R170, R395) -/

/-- The reply to an argument out of range, or that names what the tenant does not own. -/
def badArgument : Word := 0xFFFFFFFFFFFFFFFE

/-- Hythen runs while a service core is left (R401). -/
def State.hythenRuns (s : State) : Bool := decide (s.pkg.serviceDown.length < 8)

/-- Serve a task's request of a code that is not yet answered. -/
def serve (task code : Nat) (s : State) (k : Task → List Word → Out) : Out :=
  match Map.find s.tasks task with
  | none => .next s
  | some t =>
    match t.request, t.reply with
    | some (c, args), none => if c = code ∧ s.hythenRuns then k t args else .next s
    | _, _ => .next s

/-- Reply to a task. -/
def State.answer (task : Nat) (v : Word) (s : State) : State := s.modTask task (fun t => { t with reply := some v })

/-- An argument register of a request: g1 is 0. -/
def argAt (args : List Word) (k : Nat) : Word := args.getD k 0

/-! ### DEFHASP, HANDLE, LAUNCHPAGE, SENDPAGE -/

/-- DEFHASP (R395, R253). -/
def execDefhasp (task : Nat) (s : State) : Out :=
  serve task 1 s (fun t _ => .next (s.answer task (s.procAt t.proc).hasp))

/-- HANDLE (R395, R366): the handle of a bound slot. -/
def execHandle (task : Nat) (s : State) : Out :=
  serve task 2 s (fun t args =>
    let slot := (argAt args 1).toNat
    match ((s.procAt t.proc).slot slot).binding with
    | some b => .next (s.answer task (if 64 ≤ slot then badArgument else handleOf t.proc b.gen slot))
    | none => .next (s.answer task badArgument))

/-- The address of a unit's page, as a reply. -/
def pageReply : Option Nat → Word
  | some va => BitVec.ofNat 64 (wideVa va)
  | none => badArgument

/-- LAUNCHPAGE (R395, R364). -/
def execLaunchpage (task : Nat) (s : State) : Out :=
  serve task 9 s (fun t _ => .next (s.answer task (pageReply (s.procAt t.proc).launchVa)))

/-- SENDPAGE (R395, R418). -/
def execSendpage (task : Nat) (s : State) : Out :=
  serve task 10 s (fun t _ => .next (s.answer task (pageReply (s.procAt t.proc).sendVa)))

/-! ### MAPMEM, UNMAPMEM, TRACERING -/

/-- Whether a table may be placed at an address: aligned, existing, with no entry in it. -/
def freshTable (m : Map Word) (t : Nat) : Bool :=
  t % 4096 == 0 && paPresent t && !m.any (fun e => decide (t / 8 ≤ e.1) && decide (e.1 < t / 8 + 512))

/-- Put a 64 KiB leaf into a page table, with new tables from Hythen's memory where they lack (R322); none where the page is mapped. -/
def mapAt (va : Nat) (leaf : Word) : Nat → Nat → List Nat → Map Word → Option (Map Word × List Nat)
  | 0, table, ts, m =>
    let pa := table + 8 * tableIndex va 0
    if pteV (Map.get 0 m (pa / 8)) then none else some (Map.put 0 m (pa / 8) leaf, ts)
  | l + 1, table, ts, m =>
    let pa := table + 8 * tableIndex va (l + 1)
    let e := Map.get 0 m (pa / 8)
    if pteV e = false then
      match ts with
      | [] => none
      | t :: rest => if freshTable m t then mapAt va leaf l t rest (Map.put 0 m (pa / 8) (BitVec.ofNat 64 (t + 1))) else none
    else if pteL e = false ∧ tableOk e (l + 1) then mapAt va leaf l (pteTable e) ts m
    else none

/-- Map pages of a process one after another from an address. -/
def mapPages (root va : Nat) : List Word → List Nat → Map Word → Option (Map Word)
  | [], _, m => some m
  | e :: l, ts, m =>
    match mapAt va e 4 root ts m with
    | some r => mapPages root (va + 65536) l r.2 r.1
    | none => none

/-- Whether new pages may lie at an address: aligned, canonical, within one half of the space (R95). -/
def roomAt (va : Word) (bytes : Nat) : Bool :=
  canonical va && va.toNat % 65536 == 0 && decide (va.toNat + bytes ≤ 2 ^ 64) && (decide (2 ^ 56 ≤ va.toNat) || decide (va.toNat + bytes ≤ 2 ^ 56))

/-- A leaf with V and L set, rights, FIB and STATE (R323). -/
def leafWord (rights : Nat) (fib : Bool) (st frame : Nat) : Word :=
  BitVec.ofNat 64 (3 + rights % 8 * 4 + (if fib then 32 else 0) + st % 8 * 256 + frame)

/-- Take `n` frames of 64 KiB of a tenant on a stack, cleared. -/
def State.takeFrames (stack tenant : Nat) : Nat → State → Option (List Nat × State)
  | 0, s => some ([], s)
  | n + 1, s =>
    match s.freeFrames stack tenant 65536 with
    | [] => none
    | f :: _ =>
      match State.takeFrames stack tenant n ((s.takeFrame f tenant 65536).clearFrame f 65536) with
      | some r => some (f :: r.1, r.2)
      | none => none

/-- Whether Hythen can write a process's tables over a range: none of them, nor a new one, lies on a fenced die (R402). -/
def State.tablesServe (s : State) (proc lo bytes : Nat) (tables : List Nat) : Bool :=
  tables.all (fun a => !s.cutOff a) && (entriesFrom s.ptes lo (lo + bytes) 4 0 (s.procAt proc).root).all (fun x => !s.cutOff x.2)

/-- MAPMEM (R395): new pages at an address that Hythen chooses, in STATE ZERO, or PRESENT and zeroed for fibre pages; bit 15 of g3, or 15 in
its stack field, leaves the stack to Hythen (log 62), which then takes a die that is in service and has the frames, where there is one. -/
def execMapmem (task : Nat) (va : Word) (die : Nat) (tables : List Nat) (s : State) : Out :=
  serve task 3 s (fun t args =>
    let bytes := (argAt args 1).toNat
    let g := (argAt args 2).toNat
    let any := g / 32768 % 2 == 1 || g / 16 % 16 == 15
    let stack := if any then die % 16 else g / 16 % 16
    let n := bytes / 65536
    let fib := g / 8 % 2 == 1
    let serves := fun (k : Nat) => !(s.dieAt k).fenced && (!fib || (s.takeFrames k t.tenant n).isSome)
    if bytes % 65536 ≠ 0 ∨ 256 ≤ g % 32768 ∨ 65536 ≤ g ∨ 2 ^ 56 < bytes then .next (s.answer task badArgument)
    else if serves stack = false then .next (if any && (List.range 16).any serves then s else s.answer task badArgument)
    else if roomAt va bytes = false ∨ s.tablesServe t.proc va.toNat bytes tables = false then .next s
    else
      let place := fun (l : List Word) (u : State) =>
        match mapPages (u.procAt t.proc).root (va57 va) l tables u.ptes with
        | some m => Host.Outcome.next ({ u with ptes := m }.answer task va)
        | none => .next s
      if fib then
        match s.takeFrames stack t.tenant n with
        | some r => place (r.1.map (fun f => leafWord g true 0 f)) r.2
        | none => .next (s.answer task badArgument)
      else place (List.replicate n (leafWord g false 1 (stack * 2 ^ 37))) s)

/-- Unmap a page: its entry goes, its translations are invalidated, its frame returns (R325). -/
def State.unmap (tenant : Nat) (s : State) (e : TlbEntry) : State :=
  let t := (s.putPte e 0).invalidate e.proc e.va e.size
  if pteState e.pte = 0 ∨ pteState e.pte = 4 then t.giveFrame (pteFrame e.pte) tenant e.size else t

/-- UNMAPMEM (R395): whole mapped pages of the process, but for its launch and send pages; a page that migrates is waited for. Tables on a fenced
die hold no page that the tenant may still name (R402; DESIGN CHOICE, log 142). -/
def execUnmapmem (task : Nat) (s : State) : Out :=
  serve task 4 s (fun t args =>
    let lo := (argAt args 1).toNat
    let bytes := (argAt args 2).toNat
    let es := s.leaves t.proc lo (lo + bytes)
    let whole := es.all (fun e => decide (lo ≤ wideVa e.va) && decide (wideVa e.va + e.size ≤ lo + bytes) && !(s.procAt t.proc).unitPage e.va)
    if lo % 65536 ≠ 0 ∨ bytes % 65536 ≠ 0 ∨ roomAt (argAt args 1) bytes = false ∨ whole = false ∨ s.tablesServe t.proc lo bytes [] = false ∨ (es.map (fun e => e.size)).sum ≠ bytes then
      .next (s.answer task badArgument)
    else if es.any (fun e => pteState e.pte == 3) then .next s
    else .next ((es.foldl (State.unmap t.tenant) s).answer task 0))

/-- TRACERING (R395, R238): a ring in frames of the tenant on the task's stack, mapped read-only; the trace begins at its start. -/
def execTracering (task : Nat) (va : Word) (tables : List Nat) (s : State) : Out :=
  serve task 5 s (fun t args =>
    let bytes := (argAt args 1).toNat
    let n := (bytes + 65535) / 65536
    if bytes = 0 ∨ bytes % 4096 ≠ 0 ∨ 2 ^ 24 < bytes then .next (s.answer task badArgument)
    else if roomAt va (n * 65536) = false ∨ s.tablesServe t.proc va.toNat (n * 65536) tables = false then .next s
    else match s.takeFrames t.die t.tenant n with
      | none => .next (s.answer task badArgument)
      | some r =>
        match mapPages (s.procAt t.proc).root (va57 va) (r.1.map (fun f => leafWord 1 false 0 f)) tables r.2.ptes with
        | none => .next s
        | some m =>
          let u := { r.2 with ptes := m }.modTaskCore task (fun c => { c with fab := { c.fab with trace := { c.fab.trace with ring := 0 } } })
          .next ((u.modTask task (fun k => { k with ring := some (va, bytes / 64) })).answer task va))

/-! ### TELEM, ATTEST, WATCH -/

/-- The telemetry counters of a stack (R395). -/
def State.counter (s : State) (stack k : Nat) : Option Nat :=
  match k with
  | 0 => some (s.dieAt stack).corrected
  | 1 => some ((s.dieAt stack).holds.map (fun e => e.2)).sum
  | 2 => some ((s.pkg.links.map (fun e => e.2.retries)).sum)
  | 3 => some s.pkg.throttleCyc
  | 4 => some s.pkg.droops.length
  | _ => none

/-- TELEM (R395). -/
def execTelem (task : Nat) (s : State) : Out :=
  serve task 6 s (fun t args =>
    match s.counter t.die (argAt args 1).toNat with
    | some v => .next (s.answer task (BitVec.ofNat 64 v))
    | none => .next (s.answer task badArgument))

/-- The links of the package in ascending order of their keys: link k of the fence mask (R398). -/
def linkKeys : List Nat :=
  (List.range 256).filter (fun k => let a := k / 16; let b := k % 16; decide (b = a + 4) || (decide (b = a + 1) && decide (a / 4 = b / 4)))

/-- A mask of the numbers below `n` that satisfy a condition. -/
def maskOf (n : Nat) (p : Nat → Bool) : Nat := ((List.range n).map (fun i => if p i then 2 ^ i else 0)).sum

/-- The fence masks of a report (R398): dies, links; the bits above them are not stated (R417). -/
def State.fenceMask (s : State) : Nat :=
  maskOf 16 (fun k => (s.dieAt k).fenced) + 2 ^ 16 * maskOf 24 (fun i => (Map.get {} s.pkg.links (linkKeys.getD i 0)).fenced)

/-- An entry of the fences of units (R401): kind, unit, number in it (DESIGN CHOICE, log 101: no rule gives a form). -/
def fenceRecord (kind unit index : Nat) : List Byte := leBytes 1 kind ++ leBytes 3 unit ++ leBytes 4 index

/-- The fenced elements of a core (R27), the fenced units and the WORN arrays of a cluster (R249, R268, R279), the frames out of use of a die (R320). -/
def Core.fenceRecords (c : Core) : List Byte :=
  (List.range 128).flatMap (fun e => if c.efnc.getLsbD e then fenceRecord 1 c.id e else [])
def Cluster.fenceRecords (k : Nat) (c : Cluster) : List Byte :=
  c.badLines.flatMap (fenceRecord 2 k) ++ c.wslots.flatMap (fun e => if e.2.bad then fenceRecord 4 k e.1 else []) ++
  c.lanesFenced.flatMap (fenceRecord 5 k) ++ c.arrays.flatMap (fun e => if e.2.state == .worn then fenceRecord 8 k e.1 else [])
def Die.fenceRecords (k : Nat) (d : Die) : List Byte := d.outOfUse.flatMap (fun f => fenceRecord 3 k (f / 65536))

/-- The fence masks that the ready flag and a read of the management mailbox report (R396, R401, R417, R421): dies and links, then the fenced
elements, units, frames, service cores and ports. -/
def State.fenceReport (s : State) : List Byte :=
  leBytes 8 s.fenceMask ++ s.core.fenceRecords ++ s.others.flatMap (fun e => e.2.fenceRecords) ++
  s.clusters.flatMap (fun e => e.2.fenceRecords e.1) ++ s.dies.flatMap (fun e => e.2.fenceRecords e.1) ++
  s.pkg.serviceDown.flatMap (fun k => fenceRecord 6 0 k) ++ s.pkg.portFenced.flatMap (fun e => fenceRecord 7 0 e.1)

/-- The signed part of an attestation report (R398). -/
def State.reportBody (s : State) (t : Task) (nonce : List Byte) : List Byte :=
  leBytes 4 0x41545354 ++ leBytes 4 0x00010000 ++
  leBytes 8 (Config.packageNumber.toNat * 2 ^ 48 + ((List.range 4).map (fun i => Map.get 0 s.pkg.minVersion i % 4096 * 4096 ^ i)).sum) ++ nonce ++
  leBytes 64 ((s.pkg.chain.getLast?).getD Config.romDigest).toNat ++
  leBytes 8 (s.fenceMask + (Config.attestPorts (s.pkg.portFenced.map (fun e => e.1))).toNat * 2 ^ 40) ++ leBytes 8 s.cyc ++ leBytes 8 t.proc ++ leBytes 8 (t.tenant % 64)

/-- The report with its signature by the device identity key (R398). -/
def signReport (body : List Byte) : List Byte := body ++ (List.range 4627).map (Config.deviceSign (Config.sha3 body))

/-- ATTEST (R398): the nonce is read and the report written at the home. -/
def execAttest (task : Nat) (s : State) : Out :=
  serve task 7 s (fun t args =>
    match agentRead t.proc 64 (argAt args 1) s with
    | .waits => .next s
    | .no => .next (s.answer task badArgument)
    | .gone => .next (s.answer task badArgument)
    | .bytes nonce u =>
      let w := { u with free := u.free + 1 }
      match agentWrite t.proc (List.replicate 4864 0) (argAt args 2) w with
      | .waits => .next s
      | .no => .next (s.answer task badArgument)
      | .gone => .next (s.answer task badArgument)
      | .bytes _ _ =>
        match agentWrite t.proc (signReport (u.reportBody t nonce)) (argAt args 2) w with
        | .bytes _ v => .next (v.answer task 4803)
        | _ => .next s)

/-- The hasp that a reference names for a task (R281): in mem: by the page table, in cls: by the partition of the cluster that runs the
task. -/
inductive HaspRef where
  | hid (h : Nat) (s : State)
  | waits
  | no

def State.taskHasp (s : State) (task : Nat) (ref : Word) : HaspRef :=
  let t := s.taskAt task
  if ref.toNat % 64 ≠ 0 then .no
  else if ref.toNat / 2 ^ 61 = 4 then
    match s.coreOfTask task with
    | none => .waits
    | some c =>
      let k := s.coreAt c
      if ref.toNat / 2 ^ 23 % 2 ^ 38 ≠ 0 ∨ k.clsz.toNat < ref.toNat % 2 ^ 23 + 64 then .no
      else .hid (clsHid k.clusterKey (k.clsb.toNat + ref.toNat % 2 ^ 23)) s
  else match s.agentXlat t.proc 1 false ref with
    | .frame pa u => (match u.agentXlat t.proc 0 false ref with
      | .frame _ _ => .hid pa u
      | _ => .no)
    | .waits => .waits
    | _ => .no

/-- WATCH (R395, R259): Hythen writes WKIND and WTASK of a hasp of the tenant that passes the home's checks (R251). -/
def execWatch (task : Nat) (s : State) : Out :=
  serve task 8 s (fun t args =>
    let kind := (argAt args 2).toNat
    let who := (argAt args 3).toNat
    match s.taskHasp task (argAt args 1) with
    | .waits => .next s
    | .no => .next (s.answer task badArgument)
    | .hid h u =>
      let v := u.hasp h
      if kind = 0 ∨ 3 < kind ∨ (s.taskAt who).tenant ≠ t.tenant ∨ s.numberUsed who = false ∨ (u.homeCheck h t.tenant).isSome then
        .next (s.answer task badArgument)
      else
        .next (((u.setHasp h { v with wkind := kind, wtask := who }).modTask who (fun k =>
          { k with watches := (h, argAt args 1) :: k.watches.filter (fun w => w.1 != h) })).answer task 0))

end Sys2Proof.Machine
end

