-- ==== Sys2Proof/Machine/RemoteRun.lean ====
section
/-! DEFINITION. The fabric between packages (spec/23_fabric.md R416 to R420, spec/22_model.md R412, R413): sending from a flow slot,
acknowledgements, and the receive agents of flows that end here. -/

namespace Sys2Proof.Machine

/-! ### The sending side -/

/-- GO_SEND (R419): the transport unit performs a store of 1 to GO; a flow that holds 256 operations makes it wait. -/
def execGoSend (proc f : Nat) (s : State) : Out :=
  if 16 ≤ f ∨ (Map.find s.procs proc).isNone ∨ s.goFull proc f then .next s else .next (s.goSend proc f)

/-- GO_CLEAR (R420): a store of 2 to GO. -/
def execGoClear (proc f : Nat) (s : State) : Out :=
  if 16 ≤ f ∨ (Map.find s.procs proc).isNone then .next s else .next (s.goClear proc f)

/-- The operation numbered `k` of those in flight of a flow slot ends: the first failure sets CODE, and ACKED counts every acknowledgement up to
the first operation still without one, so that ACKED ≥ n says that the first n are acknowledged (R420; DEDUCED, log 120). -/
def FlowSlot.ack (k code : Nat) (v : FlowSlot) : FlowSlot :=
  let l := v.inFlight.modify k (fun o => { o with done := true })
  let n := (l.takeWhile (fun o => o.done)).length
  { v with acked := (v.acked + n) % 2 ^ 24, code := if v.code = 0 then code else v.code, inFlight := l.drop n }

/-- Whether a flow slot waits for an acknowledgement of its operation numbered `k`: an ordered flow's for the oldest alone. -/
def FlowSlot.awaits (v : FlowSlot) (k : Nat) : Bool :=
  (v.inFlight[k]?).any (fun o => !o.done) && match v.bound with
    | none => false
    | some (_, _, ordered) => !ordered || k == 0

/-- The CODEs that an operation may be acknowledged with (R420, R423); where a copy's source could not be read, that CODE alone. -/
def FlowOp.mayReport (o : FlowOp) (code : Nat) : Bool :=
  if o.fails ≠ 0 then code == o.fails
  else code == 0 || code == 2 || (code == 3 && o.kind == 3) || code == 4 || (code == 5 && o.kind == 1) || (code == 6 && o.ctrl.getLsbD 3)

/-- The transport reads the source of a copy in flight, as a local copy does (R413): its bytes travel with it. A page that migrates is waited for,
a source that does not translate fails the copy with CODE 2, and a memory error with CODE 4 (R420). -/
def State.readSource (proc f k : Nat) (o : FlowOp) (s : State) : State :=
  let put := fun (w : FlowOp) (t : State) =>
    t.modProc proc (fun p => p.setFlow f { p.flow f with inFlight := (p.flow f).inFlight.modify k (fun _ => { w with read := true }) })
  match agentRead proc (o.ctrl.toNat / 2 ^ 32) o.src s with
  | .bytes bs t => put { o with bytes := bs } t
  | .waits => s
  | .no => put { o with fails := 2 } s
  | .gone => put { o with fails := 4 } s

/-- A copy of a bound flow slot whose source is still to be read. -/
def FlowSlot.unread (v : FlowSlot) (k : Nat) : Option FlowOp := if v.bound.isNone then none else (v.inFlight[k]?).filter (fun o => o.kind == 2 && !o.read && !o.done)

/-- ACKNOWLEDGEMENT (R413, R420): Q has performed, or failed, an operation in flight of a bound slot: of an ordered flow the oldest. Of a copy whose
source is still to be read the step reads it, and a later one acknowledges: the moment is free between GO and the acknowledgement. -/
def execAcknowledgement (proc f : Nat) (a : FlowAck) (s : State) : Out :=
  let v := (s.procAt proc).flow f
  match v.unread a.op with
  | some o => .next (s.readSource proc f a.op o)
  | none =>
  if v.awaits a.op = false ∨ (v.inFlight[a.op]?).any (fun o => o.mayReport a.code) = false then .next s
  else .next (s.modProc proc (fun p => p.setFlow f (v.ack a.op a.code)))

/-- FLOW_TIMEOUT (R420): the transport gives up on an operation in flight: CODE 1; of an ordered flow on the oldest. -/
def execFlowTimeout (proc : Nat) (f : FlowLoss) (s : State) : Out :=
  let v := (s.procAt proc).flow f.slot
  if v.awaits f.op = false then .next s else .next (s.modProc proc (fun p => p.setFlow f.slot (v.ack f.op 1)))

/-- The flows of a process that a port carries move to another port. -/
def Proc.moveFlows (port target : Nat) (p : Proc) : Proc :=
  { p with flows := p.flows.map (fun e => (e.1, if e.2.port = port then { e.2 with port := target } else e.2)) }

/-- The ports of an I/O die that work, but for one. -/
def State.sparePorts (s : State) (port : Nat) : List Nat :=
  (List.range 32).filter (fun k => k != port && k / 16 == port / 16 && (Map.find s.pkg.portFenced k).isNone)

/-- PORT_FAILOVER (R417, R401): a port fails lastingly and is fenced; its flows move to a working port of the same I/O die. Where none is left
they stay, and their operations time out (R420). -/
def execPortFailover (port target : Nat) (s : State) : Out :=
  let spare := s.sparePorts port
  if 32 ≤ port ∨ (Map.find s.pkg.portFenced port).isSome ∨ (spare ≠ [] ∧ !spare.contains target) then .next s
  else
    let goal := if spare.isEmpty then port else target
    .next { s with pkg := { s.pkg with portFenced := Map.set s.pkg.portFenced port goal }
                   procs := s.procs.map (fun e => (e.1, e.2.moveFlows port goal)) }

/-! ### The receive agents (R412, R413) -/

/-- An acknowledgement goes back to the sender of a flow. -/
def State.sendAck (flow code : Nat) (s : State) : State := { s with pkg := { s.pkg with acksSent := s.pkg.acksSent ++ [(flow, code)] } }

/-- Whether the next operation of a flow may begin: on an ordered flow, each after the one before it. -/
def State.flowOpen (s : State) (flow : Nat) (op : RemoteOp) : Bool := !op.ordered || !s.pkg.arriving.any (fun a => a.flow == flow)

/-- Whether a process maps whole pages for writing from an address on (R420 CODE 2); tables out of reach are a memory error instead. -/
def State.mayWrite (s : State) (proc : Nat) (va : Word) (n : Nat) : Bool :=
  canonical va && (n == 0 || (List.range ((va.toNat % 65536 + n + 65535) / 65536)).all (fun i =>
    let a := va57 va / 65536 * 65536 + i * 65536
    s.tablesGone proc a ||
    match s.walk proc a with
    | some e => pteW e.pte && !pteFib e.pte
    | none => false))

/-- Whether the entry of a page of the range names a fenced die, in whatever STATE, or the tables are out of reach (R324, R402, R420 CODE 4). -/
def State.pagesGone (s : State) (proc : Nat) (va : Word) (n : Nat) : Bool :=
  n != 0 && (List.range ((va.toNat % 65536 + n + 65535) / 65536)).any (fun i =>
    s.tablesGone proc (va57 va / 65536 * 65536 + i * 65536) ||
    match s.walk proc (va57 va / 65536 * 65536 + i * 65536) with
    | some e => s.cutOff (pteFrame e.pte)
    | none => false)

/-- Whether the hasp reference of an operation has a translation with R and W (R420 CODE 2). -/
def State.hrefOk (s : State) (proc : Nat) : Option Word → Bool
  | none => true
  | some h => h.toNat % 64 == 0 && canonical h && (s.tablesGone proc (va57 h) || match s.walk proc (va57 h) with
    | some e => pteR e.pte && pteW e.pte && !pteFib e.pte
    | none => false)

/-- An operation enters its receive agent; the answer is its number. -/
def State.enter (flow : Nat) (op : RemoteOp) (s : State) : Nat × State :=
  let id := s.pkg.arrivals
  (id, { s with pkg := { s.pkg with arriving := s.pkg.arriving ++ [{ flow := flow, id := id, op := op }], arrivals := id + 1 } })

/-- The bytes that a release of an operation counts (R294). -/
def remoteCount : RemoteWork → Nat
  | .copy _ bs => bs.length
  | _ => 0

/-- The release of a performed operation, by the table of R294 (R413): the CODE, and the state; none while its page migrates. -/
def State.remoteRelease (op : RemoteOp) (s : State) : Option (Nat × State) :=
  match op.href with
  | none => some (0, s)
  | some ref =>
    match s.agentXlat op.proc 1 false ref with
    | .frame pa t =>
      (match t.homeEngine pa (t.procAt op.proc).tenant true (remoteCount op.work) with
      | .done u => some (0, u.homeRow pa)
      | _ => some (6, s.homeRow pa))
    | .waits => none
    | .gone => some (6, s)
    | _ => some (2, s)

/-- The first operation of a flow that is performed, with its release, or has failed is acknowledged (R413, R420). -/
def State.settle (flow : Nat) (s : State) : State :=
  match s.pkg.arriving.find? (fun a => a.flow == flow && a.done.isSome) with
  | none => s
  | some a => ({ s with pkg := { s.pkg with arriving := s.pkg.arriving.filter (fun b => b.id != a.id) } } : State).sendAck flow (a.done.getD 0)

/-- REMOTE_LAUNCH (R412, R367, R420): a remote mailbox store writes HANDLE and ARG of the slot at DST; on a fenced die it fails with CODE 4
(R423). -/
def execRemoteLaunch (flow : Nat) (op : RemoteOp) (s : State) : Out :=
  match op.work with
  | .launch dst handle arg =>
    if s.flowOpen flow op = false then .next s
    else
      let off := va57 dst % 65536
      if canonical dst = false ∨ (s.procAt op.proc).launchVa ≠ some (va57 dst / 65536 * 65536) ∨ off % 64 ≠ 0 ∨ 4096 ≤ off ∨
          s.mayWrite op.proc dst 16 = false then .next (s.sendAck flow 2)
      else if s.pagesGone op.proc dst 16 then .next (s.sendAck flow 4)
      else
        let t := ((s.agentTouch op.proc (va57 dst) true).launchWrite op.proc off handle).launchWrite op.proc (off + 8) arg
        .next (t.sendAck flow (if ((t.procAt op.proc).slot (off / 64)).code = 1 then 0 else 5))
  | _ => .next s

/-- What landing some words answers: the state after it; a wait; a failure. -/
inductive RemoteLanding where
  | landed (s : State)
  | waits
  | fails (code : Nat)

/-- Land one 8-byte word of a remote copy; a launch or send page takes it as its unit does (R364, R412, R418). -/
def landRemote (proc : Nat) (va : Word) (bs : List Byte) (s : State) : RemoteLanding :=
  let page := some (va57 va / 65536 * 65536)
  let v := BitVec.ofNat 64 (leValue bs)
  if (s.procAt proc).unitPage (va57 va) ∧ s.pagesGone proc va 8 then .fails 4
  else if (s.procAt proc).launchVa = page then .landed ((s.agentTouch proc (va57 va) true).launchWrite proc (va57 va % 65536) v)
  else if (s.procAt proc).sendVa = page then
    match (s.agentTouch proc (va57 va) true).sendStore proc (va57 va % 65536) v with
    | some t => .landed t
    | none => .waits
  else match s.agentXlat proc 1 false va with
    | .frame pa t => if t.wordsBad pa 8 then .fails 4 else .landed (t.setMem pa bs)
    | .waits => .waits
    | .gone => .fails 4
    | _ => .fails 2

/-- Land `n` words in ascending order (R412), all of them or none. -/
def landRemotes (proc : Nat) : Nat → Word → List Byte → State → RemoteLanding
  | 0, _, _, s => .landed s
  | n + 1, va, bs, s =>
    match landRemote proc va (bs.take 8) s with
    | .landed t => landRemotes proc n (va + 8) (bs.drop 8) t
    | r => r

/-- A copy with its release, in one step (R412, R413; DESIGN CHOICE, log 102): one of whose words, or whose release, fails applies nothing
(R420), and nothing that has landed is ever taken back (R404). -/
def State.performCopy (id : Nat) (op : RemoteOp) (dst : Word) (bs : List Byte) (s : State) : State :=
  match landRemotes op.proc ((bs.length + 7) / 8) dst bs s with
  | .waits => s
  | .fails c => s.arrivalDone id c
  | .landed t =>
    match t.remoteRelease op with
    | none => s
    | some (0, u) => u.arrivalDone id 0
    | some (c, _) => s.arrivalDone id c

/-- The copies of a flow that have arrived and are not performed. -/
def State.copiesOf (s : State) (flow : Nat) : List Arrival :=
  s.pkg.arriving.filter (fun a => a.flow == flow && a.done.isNone && (match a.op.work with | .copy _ _ => true | _ => false))

/-- REMOTE_COPY (R412, R413, R420): a copy of up to 2^24 bytes arrives and its checks are made, or one of the copies of the flow is performed
with its release, the `which`-th of them, and acknowledged. -/
def execRemoteCopy (flow : Nat) (op : Option RemoteOp) (which : Nat) (s : State) : Out :=
  match op with
  | some o =>
    (match o.work with
    | .copy dst bs =>
      if s.flowOpen flow o = false ∨ bs.length % 8 ≠ 0 ∨ dst.toNat % 8 ≠ 0 ∨ 2 ^ 24 < bs.length then .next s
      else if s.mayWrite o.proc dst bs.length = false ∨ s.hrefOk o.proc o.href = false then .next (s.sendAck flow 2)
      else if s.pagesGone o.proc dst bs.length then .next (s.sendAck flow 4)
      else .next (s.enter flow o).2
    | _ => .next s)
  | none =>
    match (s.copiesOf flow)[which]? with
    | some a => (match a.op.work with
      | .copy dst bs => .next ((s.performCopy a.id a.op dst bs).settle flow)
      | _ => .next s)
    | none => .next (s.settle flow)

/-- REMOTE_MERGE (R412, R413, R420): a merge arrives and is posted to the fibre's home under the flow's issuer, or a merge that its home
has applied or refused is released and acknowledged. -/
def execRemoteMerge (flow : Nat) (op : Option RemoteOp) (s : State) : Out :=
  match op with
  | none => .next (s.settle flow)
  | some o =>
    match o.work with
    | .merge dst key val fmt =>
      if s.flowOpen flow o = false then .next s
      else if dst.toNat % 64 ≠ 0 ∨ key = 0xFFFFFFFF then .next (s.sendAck flow 4)
      else if s.hrefOk o.proc o.href = false then .next (s.sendAck flow 2)
      else match s.agentXlat o.proc 1 true dst with
        | .frame pa t =>
          let r := t.enter flow o
          .next (r.2.postFib (2 ^ 34 + flow)
            { va := dst, hdr := pa, proc := o.proc, key := key, val := val, fmt := fmt, tenant := (t.procAt o.proc).tenant, flow := some r.1 })
        | .gone => .next (s.sendAck flow 4)
        | _ => .next (s.sendAck flow 2)
    | _ => .next s

/-! ### Merges at their home (R337, R353, R413) -/

/-- A merge of a flow at its home, with its release in the same step (R413): one whose release fails applies nothing (R420). -/
def mergeFlow (id : Nat) (pop : State → State) (merged s : State) : Out :=
  match s.pkg.arriving.find? (fun a => a.id == id) with
  | none => .next (pop merged)
  | some a =>
    match merged.remoteRelease a.op with
    | none => .next s
    | some (0, u) => .next ((pop u).arrivalDone id 0)
    | some (c, _) => .next ((pop s).arrivalDone id c)

/-- MERGE_ENTRY (R337, R353): the home of the core's stack applies the first operation of an issuer's queue: an FMERGE whole, one
entry of an FMRGF whose scan step has delivered, unless the destination by then no longer admits the source's format. -/
def execMergeEntry (issuer : Nat) (s : State) : Out :=
  match s.die.fibQueue issuer with
  | [] => .next s
  | o :: rest =>
    let pop := fun (t : State) => t.modDie (fun d => d.setFibQueue issuer rest)
    let fails := fun (t : State) (r : Nat) => Host.Outcome.next (((pop t).modDie (Die.dropIssuer issuer o)).fibFail o o.va r)
    if o.kind = 0 then
      let u := s.fibMark o.hdr (.key o.key.toNat)
      match u.postedCheck o o.hdr (some o.fmt) with
      | some r => fails u r
      | none =>
        match u.mergeEntry o.hdr o.key (fibConvert (u.fhdr o.hdr).vfmt o.fmt o.val) with
        | .done t =>
          match o.flow with
          | some id => mergeFlow id pop t s
          | none => .next ((pop t).countMerge o)
        | .fail r => fails u r
    else
      match o.buffer with
      | [] => if o.scanned then .next (pop s) else .next s
      | e :: more =>
        let u := s.fibMark o.hdr (.key e.1.toNat)
        match u.postedCheck o o.hdr none with
        | some r => fails u r
        | none =>
          if fmrgfOk o.srcFmt (u.fhdr o.hdr).vfmt = false then fails u 4
          else match u.mergeEntry o.hdr e.1 (fibConvert (u.fhdr o.hdr).vfmt (fmrgfFmt (u.fhdr o.hdr).vfmt) e.2) with
          | .done t => .next (t.modDie (fun d => d.setFibQueue issuer ({ o with buffer := more } :: rest)))
          | .fail r => fails u r

end Sys2Proof.Machine
end

