-- ==== Sys2Proof/Machine/PackageRun.lean ====
section
/-! DEFINITION. The package at work (spec/21_package.md R393, R396 to R402): link retry, bring-up and its signatures, the power governor,
droops, fenced dies and service cores. -/

namespace Sys2Proof.Machine

/-- FLIT_RECEIVE (R393): a flit of a link, named by its key, passes or fails its CRC. A retry that passes counts; the eighth retry that
fails in a row fences the link, and fault tokens that no path brings back are memory errors. -/
def execFlitReceive (link : Nat) (ok : Bool) (s : State) : Out :=
  let l := Map.get {} s.pkg.links link
  if linkKeys.contains link = false ∨ l.fenced then .next s
  else
    let m : Link :=
      if ok then { l with tries := 0, retries := if l.tries = 0 then l.retries else l.retries + 1 }
      else if 8 ≤ l.tries then { l with tries := 0, fenced := true }
      else { l with tries := l.tries + 1 }
    let t : State := { s with pkg := { s.pkg with links := Map.set s.pkg.links link m } }
    .next (if m.fenced then t.recallTokens else t)

/-! ### Bring-up (R396 to R398) -/

/-- Whether an image may run (R397): the key that comes with it, its signature, its version. -/
def Package.accepts (k : Package) (i : Nat) (x : SignedImage) : Bool :=
  x.signed && decide (x.key = Config.vendorKey) && decide (Map.get 0 k.minVersion i ≤ x.version)

/-- The measurement of an image (R398): Mi = SHA3-512(Mi−1 ‖ SHA3-512(image i)). -/
def measure (m : BitVec 512) (x : SignedImage) : BitVec 512 := Config.sha3 (leBytes 64 m.toNat ++ leBytes 64 (Config.sha3 x.bytes).toNat)

/-- Verify images in order from the `i`-th on: each that may run is installed and measured; whether all may. -/
def verifyImages : Nat → List SignedImage → BitVec 512 → Package → Bool × Package
  | _, [], _, k => (true, k)
  | i, x :: l, m, k =>
    if k.accepts i x then
      let n := measure m x
      verifyImages (i + 1) l n { k with images := Map.set k.images i (x.version, Config.sha3 x.bytes), chain := k.chain ++ [n] }
    else (false, k)

/-- What fails the self-tests is fenced (R396, R401). -/
def State.selfTest (r : SelfTest) (s : State) : State :=
  let a := s.everyCore (fun c => { c with efnc := 0, rfence := 0 })
  let b := r.elements.foldl (fun t e => t.modCoreAt (e.1 % 4096) (fun c => { c with efnc := c.efnc ||| BitVec.ofNat 128 (2 ^ (e.2 % 128)) })) a
  let c := r.dies.foldl (fun t k => t.modDieAt (k % 16) (fun d => { d with fenced := true })) b
  let d := r.words.foldl (fun t pa => t.modDieAt (paStack pa) (Die.eccAt pa .lasting)) c
  let e := r.lines.foldl (fun t x => t.modClusterAt (x.1 % 256) (fun k => { k with badLines := k.badLines ++ [x.2], badWords := k.badWords ++ (List.range 8).map (fun i => 8 * x.2 + i) })) d
  let h := r.routers.foldl (fun t x => t.modCoreAt (x.1 % 4096) (Core.fenceRouter (x.2 % 64))) e
  let f := r.wslots.foldl (fun t x => t.modClusterAt (x.1 % 256) (Cluster.modWslot x.2 (fun w => { w with bad := true }))) h
  let g := r.lanes.foldl (fun t x => t.modClusterAt (x.1 % 256) (fun k => { k with lanesFenced := k.lanesFenced ++ [x.2] })) f
  { g with pkg := { g.pkg with links := (r.links.filter linkKeys.contains).foldl (fun m k => Map.set m k { Map.get {} m k with fenced := true }) g.pkg.links } }

/-- The shim records of every array, written to their places in their stacks' regions (R276). -/
def State.writeShims (s : State) : State :=
  { s with mem := (List.range 256).foldl (fun m k => (List.range 8192).foldl (fun m a =>
      putBytes m (s.shimAt k a) (((Map.get {} s.clusters k).array a).shimRecord (shimId k a))) m) s.mem }

/-- The shim record of every array of every cluster is measured (R277, R396) and written to its stack's region. -/
def State.measureArrays (s : State) : State :=
  let cyc := BitVec.ofNat 64 s.cyc
  let one := fun (k : Nat) (c : Cluster) => { c with
    measured := some (s.free + 8192 * k, cyc)
    arrays := c.arrays.map (fun (a : Nat × XArray) => (a.1, a.2.measured (s.free + 8192 * k + a.1) cyc)) }
  State.writeShims { s with free := s.free + 2 ^ 22, clusters := (List.range 256).map (fun k => (k, one k (Map.get {} s.clusters k))) }

/-- The regions that Hythen keeps for the shim records of each stack, by their first byte's offset in it (R276; DESIGN CHOICE, log 98). -/
def State.shimRegions (l : List (Nat × Nat)) (s : State) : State :=
  l.foldl (fun t e => t.modDieAt (e.1 % 16) (fun d =>
    { d with shim := if e.2 % 64 = 0 ∧ e.2 + shimSize ≤ 0x1800000000 then e.2 else d.shim })) s

/-- The ready flag is raised and reported with the fence masks (R396, R401): on every port that works, and as reply 3 of the management
mailbox. -/
def State.raiseReady (s : State) : State :=
  { s with pkg := { s.pkg with
    ready := true, mgmtReplies := s.pkg.mgmtReplies ++ [(3, s.fenceReport)]
    readySent := ((List.range 32).filter (fun k => (Map.find s.pkg.portFenced k).isNone)).map (fun k => (k, s.fenceReport)) } }

/-- POWER_GOOD (R396 to R398): self-test, DRAM zero, measurement of the arrays, verification of the four images in order; then the ready
flag, or the recovery loader where an image may not run. -/
def execPowerGood (images : List SignedImage) (test : SelfTest) (s : State) : Out :=
  if s.pkg.ready ∨ s.pkg.recovery then .next s
  else
    let t := (({ s with mem := [], ptes := [] }.selfTest test).shimRegions test.shims).measureArrays
    let r := verifyImages 0 (images.take 4) Config.romDigest { t.pkg with chain := [] }
    let u : State := { t with pkg := r.2 }
    .next (if r.1 ∧ images.length = 4 then u.raiseReady else { u with pkg := { u.pkg with recovery := true } })

/-! ### Power (R399, R400) -/

/-- GOVERNOR_MEASURE (R400): over budget the next kind of unit is throttled, and none any more once a measurement fits; the cycles
between measurements under a throttle count. -/
def execGovernorMeasure (exceeds : Bool) (s : State) : Out :=
  let k := s.pkg
  .next { s with pkg := { k with
    throttle := if exceeds then min 3 (k.throttle + 1) else 0
    throttleCyc := if k.throttle = 0 then k.throttleCyc else k.throttleCyc + (s.cyc - k.measured)
    measured := s.cyc } }

/-- The Tunet cores of a voltage domain: 0 to 255 are the clusters, 256 to 271 the base dies, 272 and 273 the I/O dies (R400). -/
def domainCores (d : Nat) : List Nat := if d < 256 then (List.range 16).map (fun i => 16 * d + i) else []

/-- The PCs of a domain's cores in core order (R400): an I/O die's are those of its four service cores (R394), free values. -/
def State.domainPcs (s : State) (d : Nat) : List Word :=
  if 272 ≤ d then (List.range 4).map (fun i => Config.servicePc (s.free + i)) else (domainCores d).map (fun i => (s.coreAt i).pc)

/-- DROOP (R400): the domain stretches its clock and a droop record is captured. -/
def execDroop (domain : Nat) (s : State) : Out :=
  if 274 ≤ domain ∨ s.pkg.stretched.contains domain then .next s
  else
    let r := leBytes 8 s.cyc ++ leBytes 8 domain ++ (s.domainPcs domain).flatMap (fun pc => leBytes 8 pc.toNat)
    .next { s with free := s.free + 4, pkg := { s.pkg with stretched := s.pkg.stretched ++ [domain], droops := s.pkg.droops ++ [r] } }

/-- SUPPLY_RECOVERY (R400). -/
def execSupplyRecovery (domain : Nat) (s : State) : Out :=
  .next { s with pkg := { s.pkg with stretched := s.pkg.stretched.filter (fun d => d != domain) } }

/-! ### Containment (R401, R402) -/

/-- The cores of a die that the state lists. -/
def State.listedCores (s : State) (die : Nat) : List Nat :=
  (s.core.id :: s.others.map (fun e => e.1)).filter (fun n => n / 256 == die)

/-- A die is fenced (R402): its tasks are killed with the effects of R258 and R378, and strike notices go out for the experts on it
(R422). -/
def State.fenceDie (die : Nat) (s : State) : State :=
  let dead := (s.tasks.filter (fun e => e.2.die == die && e.2.status != .retired && e.2.status != .killed)).map (fun e => e.1)
  let t := dead.foldl (fun u n => u.killRecords n) s
  let u := (s.listedCores die).foldl (fun u n => u.onCore n State.killOnCore) t
  let v := (u.modDieAt die (fun d => { d with fenced := true })).recallTokens
  { v with pkg := { v.pkg with striking := v.pkg.striking ++ [(Config.packageNumber.toNat, die)] } }

/-- DIE_FENCE (R402): a lasting loss of a die. -/
def execDieFence (die : Nat) (s : State) : Out :=
  if 16 ≤ die ∨ (s.dieAt die).fenced then .next s else .next (s.fenceDie die)

/-- SERVICE_CORE_FAILURE (R401): a service core is removed. -/
def execServiceCoreFailure (k : Nat) (s : State) : Out :=
  if 8 ≤ k ∨ s.pkg.serviceDown.contains k then .next s
  else .next { s with pkg := { s.pkg with serviceDown := s.pkg.serviceDown ++ [k] } }

end Sys2Proof.Machine
end

