-- ==== Sys2Proof/Machine/Management.lean ====
section
/-! DEFINITION. The management mailbox and Hythen's set-up work (spec/23_fabric.md R421, R422, spec/21_package.md R397,
spec/18_scheduling.md R366, R370, spec/11_cluster.md R253): requests of an operator, processes, programs, live experts. -/

namespace Sys2Proof.Machine

/-- A request to the management mailbox (R421, R397): served once the package is ready, an image update in recovery too; an unsigned one
is discarded and counted. -/
def managed (recovers signed : Bool) (s : State) (k : State → Out) : Out :=
  if (!s.pkg.ready && !(recovers && s.pkg.recovery)) || !s.hythenRuns then .next s
  else if !signed || s.pkg.opKey.isNone then .next { s with pkg := { s.pkg with mgmtDropped := s.pkg.mgmtDropped + 1 } }
  else k s

/-- OPERATOR_KEY_COMMIT (R421): a request signed by Lerrath's key makes Hythen hold an operator key's digest; the recovery loader serves none
(R397). -/
def execOperatorKeyCommit (key : BitVec 512) (signed : Bool) (s : State) : Out :=
  if !s.pkg.ready || !s.hythenRuns then .next s
  else if signed then .next { s with pkg := { s.pkg with opKey := some key } }
  else .next { s with pkg := { s.pkg with mgmtDropped := s.pkg.mgmtDropped + 1 } }

/-- IMAGE_UPDATE (R397): the checks of bring-up, then the image is installed. -/
def execImageUpdate (image : Nat) (body : SignedImage) (signed : Bool) (s : State) : Out :=
  managed true signed s (fun s =>
    if 4 ≤ image ∨ s.pkg.accepts image body = false then .next s
    else .next { s with pkg := { s.pkg with images := Map.set s.pkg.images image (body.version, Config.sha3 body.bytes) } })

/-- IMAGE_COMMIT (R397): the fused minimum version rises to the installed image's. -/
def execImageCommit (image : Nat) (signed : Bool) (s : State) : Out :=
  managed false signed s (fun s =>
    match Map.find s.pkg.images image with
    | none => .next s
    | some x => .next { s with pkg := { s.pkg with minVersion := Map.set s.pkg.minVersion image (max (Map.get 0 s.pkg.minVersion image) x.1) } })

/-! ### Tenants (R370, R376, R342, R246, R261, R269, R328) -/

/-- Whether a page of a process, or its swap copy, lies in a range of DRAM; a ZERO page has no frame (R324). -/
def State.mapped (s : State) (pa size : Nat) : Bool :=
  s.procs.any (fun p => (s.leaves p.1 0 (2 ^ 64)).any (fun e => pteState e.pte != 1 && rangesMeet pa size (pteFrame e.pte) e.size))

/-- Whether a range of a die's DRAM may be granted: sound, granted to nobody, mapped by no process (R342), not of the region of the shim records
(R276). -/
def State.ungranted (s : State) (die pa size : Nat) : Bool :=
  !s.wordsBad pa size && !s.shimMeets pa size && !s.mapped pa size && !(s.dieAt die).granted.any (fun g => rangesMeet pa size g.1 g.2)

/-- Whether a frame list may be granted on a die: aligned, existing, on the die, sound, granted to nobody. -/
def State.framesOk (s : State) (die size : Nat) (l : List Nat) : Bool :=
  l.all (fun f => f % size == 0 && paPresent f && paStack f == die && s.ungranted die f size && !(s.dieAt die).free.any (fun e => e.2.contains f) &&
    !(s.dieAt die).outOfUse.any (fun x => decide (f ≤ x) && decide (x < f + size))) && decide l.Nodup

/-- The 64 KiB frames of save areas (R233), and whether they may be set apart on a die: sound, granted to nobody. -/
def saveFrames (x : Nat × Nat) : List Nat := (List.range (6 * x.2)).map (fun k => x.1 + 65536 * k)
def State.saveOk (s : State) (q : TenantQuota) : Bool :=
  match q.save with
  | none => true
  | some x =>
    s.framesOk q.die 65536 (saveFrames x ++ q.frames) &&
    s.tenants.all (fun e => match Map.find e.2.save q.die with
      | some y => !rangesMeet x.1 (0x60000 * x.2) y.1 (0x60000 * y.2)
      | none => true)

/-- The ranges of DRAM that a tenant's quotas take on a die: frames, segment rows (R342), save areas. -/
def quotaRanges (q : TenantQuota) : List (Nat × Nat) :=
  q.frames.map (fun f => (f, 65536)) ++ q.large.map (fun f => (f, 2 ^ 21)) ++ q.rows.map (fun u => (rowPa q.die u, 1024)) ++
  q.save.toList.map (fun x => (x.1, 0x60000 * x.2))

/-- Whether no two ranges of a list meet. -/
def apart : List (Nat × Nat) → Bool
  | [] => true
  | x :: l => l.all (fun y => !rangesMeet x.1 x.2 y.1 y.2) && apart l

/-- Whether a tenant's quotas on a die can be granted. A partition is: its bytes are nobody's, and the tenant's earlier one in the cluster is zeroed
and gone (R380). -/
def State.quotaOk (s : State) (q : TenantQuota) : Bool :=
  let d := s.dieAt q.die
  decide (q.tenant < 64) && decide (q.die < 16) && !d.fenced && decide (1 ≤ q.weight) && decide (q.weight ≤ 255) &&
  decide (d.weights.length < 16) && (Map.find d.weights q.tenant).isNone &&
  decide ((s.tenants.map (fun e => s.slotsOf q.die e.1)).sum + q.slots ≤ 4096) &&
  (q.cores ++ q.shared).all (fun n => n / 256 == q.die && n % 256 != 255 && (s.coreAt n).task.isNone) &&
  q.cls.all (fun c => c.1 / 16 == q.die && c.2.1 % 65536 == 0 && c.2.2 % 65536 == 0 && decide (c.2.1 + c.2.2 ≤ 2 ^ 23) &&
    s.tenants.all (fun e => match Map.find e.2.cls c.1 with
      | some p => e.1 != q.tenant && !rangesMeet c.2.1 c.2.2 p.1 p.2
      | none => true) &&
    !(Map.get {} s.clusters c.1).badLines.any (fun l => decide (c.2.1 / 64 ≤ l) && decide (l < (c.2.1 + c.2.2) / 64))) &&
  decide (q.cls.map (fun c => c.1)).Nodup &&
  q.wslots.all (fun w => w.1 / 16 == q.die && decide (w.2 < 64) && !((Map.get {} s.clusters w.1).wslot w.2).bad &&
    ((Map.get {} s.clusters w.1).wslot w.2).owner.isNone) &&
  q.arrays.all (fun a => a.1 / 16 == q.die && decide (a.2 < 8192) && ((Map.get {} s.clusters a.1).array a.2).owner.isNone) &&
  (Map.find d.pools q.pool).isNone && decide (q.quota + q.slack ≤ q.rows.length) && decide q.rows.Nodup &&
  q.rows.all (fun u => decide (u < 100663296) && !d.rowsFree.contains u && s.ungranted q.die (rowPa q.die u) 1024) && apart (quotaRanges q) &&
  s.framesOk q.die 65536 q.frames && s.framesOk q.die (2 ^ 21) q.large && s.saveOk q

/-- Grant the quotas. -/
def State.grant (q : TenantQuota) (s : State) : State :=
  let a := s.modDieAt q.die (fun d =>
    { d with
      weights := Map.set d.weights q.tenant q.weight
      pools := Map.set d.pools q.pool { tenant := q.tenant, quota := q.quota }
      granted := d.granted ++ quotaRanges q
      slack := d.slack + q.slack, rowsFree := d.rowsFree ++ q.rows
      free := Map.put [] (Map.put [] d.free (freeKey q.tenant 65536) q.frames) (freeKey q.tenant (2 ^ 21)) q.large })
  let b := q.cores.foldl (fun t n => t.modCoreAt n (fun c => { c with owner := some q.tenant })) a
  let c := q.shared.foldl (fun t n => t.modCoreAt n (fun c => { c with owner := none })) b
  let d := q.wslots.foldl (fun t w => t.modClusterAt w.1 (Cluster.modWslot w.2 (fun x => { x with owner := some q.tenant }))) c
  let e := q.arrays.foldl (fun t x => t.modClusterAt x.1 (fun k => k.modArray x.2 (fun y => { y with owner := some q.tenant }))) d
  { e with tenants := Map.modify {} e.tenants q.tenant (fun t =>
      { t with
        live := true, slots := Map.set t.slots q.die q.slots, cls := q.cls.foldl (fun m c => Map.set m c.1 c.2) t.cls
        spill := (q.spill.map (Map.set t.spill q.die)).getD t.spill, save := (q.save.map (Map.set t.save q.die)).getD t.save }) }

/-- A request that grants nothing, of a tenant that has its weight on the die already: it changes W, or, with W = 0, has the tenant leave the die
(R372; that such a request does so is a DESIGN CHOICE, log 119). -/
def State.changesWeight (s : State) (q : TenantQuota) : Bool :=
  decide (q.die < 16) && (Map.find (s.dieAt q.die).weights q.tenant).isSome && decide (q.weight ≤ 255) && decide (q.slots = 0) &&
  q.cores.isEmpty && q.shared.isEmpty && q.cls.isEmpty && q.wslots.isEmpty && q.arrays.isEmpty && decide (q.quota = 0) && decide (q.slack = 0) &&
  q.rows.isEmpty && q.frames.isEmpty && q.large.isEmpty && q.spill.isNone && q.save.isNone

/-- Whether a tenant has a task that has not ended on a die, or an entry of its scheduler. -/
def State.tenantBusy (s : State) (die tenant : Nat) : Bool :=
  s.tasks.any (fun t => t.2.tenant == tenant && t.2.die == die && t.2.status != .retired && t.2.status != .killed) ||
  ((s.dieAt die).onChip ++ (s.dieAt die).spilling ++ (s.dieAt die).spilled).any (fun n => s.entryTenant n == tenant)

/-- Change a tenant's W on a die, or take it from the die: its guaranteed cores are shared then, its queue slots nobody's. TURN and USED stay as
they are (R372). -/
def State.reweigh (q : TenantQuota) (s : State) : State :=
  if q.weight ≠ 0 then s.modDieAt q.die (fun d => { d with weights := Map.set d.weights q.tenant q.weight })
  else if s.tenantBusy q.die q.tenant then s
  else
    let t := (s.coresOf q.die).foldl (fun u c => if c.owner = some q.tenant then u.modCoreAt c.id (fun c => { c with owner := none }) else u)
      (s.modDieAt q.die (fun d => { d with weights := Map.erase d.weights q.tenant }))
    { t with tenants := Map.modify {} t.tenants q.tenant (fun x => { x with slots := Map.erase x.slots q.die }) }

/-- TENANT_CREATION (R421, R370, R372): a tenant with its quotas on a die; of one that stands there already, its W. -/
def execTenantCreation (q : TenantQuota) (signed : Bool) (s : State) : Out :=
  managed false signed s (fun s => .next (if s.quotaOk q then s.grant q else if s.changesWeight q then s.reweigh q else s))

/-! ### The other requests -/

/-- The port that has taken over from a fenced one, from port to port (R417). -/
def portAfter (m : Map Nat) : Nat → Nat → Nat
  | 0, k => k
  | n + 1, k => match Map.find m k with
    | some t => if t = k then k else portAfter m n t
    | none => k

/-- The port on which a flow starts (R417): one that is not fenced, where its I/O die has one. -/
def State.flowPort (s : State) (proc slot : Nat) : Nat :=
  portAfter s.pkg.portFenced 32 (Config.flowPort proc slot % 32)

/-- FLOW_SLOT_BINDING (R421, R418). -/
def execFlowSlotBinding (b : FlowBinding) (signed : Bool) (s : State) : Out :=
  managed false signed s (fun s =>
    if 16 ≤ b.slot ∨ 65536 ≤ b.package ∨ (Map.find s.procs b.proc).isNone then .next s
    else .next (s.modProc b.proc (fun p => p.setFlow b.slot { p.flow b.slot with bound := some (b.package, b.dest, b.ordered), port := s.flowPort b.proc b.slot })))

/-- DEBUGGER_ATTACH (R421, R239): a debugger attaches to a task; of a task it has stopped, it asks for the resumption, which is that after
a pre-emption. -/
def execDebuggerAttach (task : Nat) (signed : Bool) (s : State) : Out :=
  managed false signed s (fun s =>
    match Map.find s.tasks task with
    | none => .next s
    | some t =>
      if t.debug = false then .next (s.modTask task (fun k => { k with debug := true }))
      else match t.status, t.saved with
        | .stopped, some v => .next (s.requeue task .stop v.core.wait)
        | _, _ => .next s)

/-- What a read of the management mailbox answers (R421): 0 fence masks, 1 droop records, 2 telemetry of every stack. -/
def State.mgmtReply (s : State) (what : Nat) : List Byte :=
  match what with
  | 0 => s.fenceReport
  | 1 => s.pkg.droops.flatten
  | _ => (List.range 16).flatMap (fun k => (List.range 5).flatMap (fun i => leBytes 8 ((s.counter k i).getD 0)))

/-- MANAGEMENT_READ (R421). -/
def execManagementRead (what : Nat) (signed : Bool) (s : State) : Out :=
  managed false signed s (fun s =>
    if 3 ≤ what then .next s
    else .next { s with pkg := { s.pkg with mgmtReplies := s.pkg.mgmtReplies ++ [(what, s.mgmtReply what)] } })

/-- DIE_STRIKING (R421): the die is taken from service as R402 has it. -/
def execDieStriking (die : Nat) (signed : Bool) (s : State) : Out :=
  managed false signed s (fun s => if 16 ≤ die ∨ (s.dieAt die).fenced then .next s else .next (s.fenceDie die))

/-! ### Processes and programs (R253, R322, R364, R366, R418, R142, R351) -/

/-- Whether an address has a PRESENT leaf of 64 KiB with R and W set, X clear, no fibre page (R364). -/
def State.unitLeaf (s : State) (proc : Nat) (va : Word) : Bool :=
  canonical va && va.toNat % 65536 == 0 && match s.walk proc (va57 va) with
    | some e => e.size == 65536 && pteState e.pte == 0 && pteR e.pte && pteW e.pte && !pteX e.pte && !pteFib e.pte
    | none => false

/-- Whether an address has the page of a process's fault records: 4 KiB of a PRESENT leaf, read-only, no fibre page (R219). -/
def State.faultLeaf (s : State) (proc : Nat) (va : Word) : Bool :=
  canonical va && va57 va % 4096 == 0 && match s.walk proc (va57 va) with
    | some e => pteState e.pte == 0 && pteR e.pte && !pteW e.pte && !pteFib e.pte
    | none => false

/-- Whether an entry of a new page table may stand: it binds its page to no hasp (R253), and a fibre page is PRESENT (R324). -/
def entryOk (e : Word) : Bool := !(pteV e && pteL e) || (pteKey e == 0 && (!pteFib e || pteState e == 0))

/-- Whether no page of any process lies in a region of shim records (R276) or over a pool's rows (R342). -/
def State.pagesOk (s : State) : Bool :=
  s.procs.all (fun p => (s.leaves p.1 0 (2 ^ 64)).all (fun e => pteState e.pte == 1 || !s.keptBack (pteFrame e.pte) e.size))

/-- PROCESS_CREATION (R253): a tenant's process with its page table, no page keyed, launch, send and fault-record pages, and its default hasp,
SIGNAL, key id 0. Its entries, in whose table they may lie, map nothing that no tenant may map (R276, R342). -/
def execProcessCreation (c : ProcessSpec) (s : State) : Out :=
  if (!s.pkg.ready) || !s.hythenRuns || (Map.find s.procs c.proc).isSome || decide (2 ^ 32 ≤ c.proc) ||
      !(Map.get {} s.tenants c.tenant).live || decide (c.root % 4096 ≠ 0) || !c.entries.all (fun e => Map.get 0 s.ptes (e.1 / 8) == 0 && entryOk e.2) then .next s
  else
    let p : Proc := { tenant := c.tenant, root := c.root, hasp := c.hasp, launchVa := some (va57 c.launchVa), sendVa := some (va57 c.sendVa),
                      faultVa := some (va57 c.faultVa) }
    let t : State := { s with
      procs := Map.set s.procs c.proc p
      ptes := c.entries.foldl (fun m e => Map.put 0 m (e.1 / 8) e.2) s.ptes }
    if t.pagesOk = false ∨ t.unitLeaf c.proc c.launchVa = false ∨ t.unitLeaf c.proc c.sendVa = false ∨ t.faultLeaf c.proc c.faultVa = false ∨ c.hasp.toNat % 64 ≠ 0 then .next s
    else match t.agentXlat c.proc 1 false c.hasp with
      | .frame pa u => .next (u.setHasp pa { mode := 3, init := true, tenant := c.tenant })
      | _ => .next s

/-- A live, empty fibre header that the loader places (R351, R332): none where R333 or the pool refuses it. -/
def State.placeFibre (proc : Nat) (x : Word × Nat × Nat) (s : State) : Option State :=
  let w := x.2.1
  match s.agentXlat proc 1 true x.1 with
  | .frame pa t =>
    let tenant := (s.procAt proc).tenant
    if x.1.toNat % 64 ≠ 0 ∨ 2 ^ 20 ≤ w ∨ w / 64 % 4 ≠ 0 ∨ fibAdmitted (w % 4) (w / 4 % 8) (w / 32 % 2 == 1) = false then none
    else match Map.find (t.dieAt (paStack pa)).pools x.2.2 with
      | some p => if p.tenant = tenant then some (t.setFhdr pa { attr := 2 ^ 31 + tenant % 64 * 2 ^ 20 + w, pool := x.2.2 }) else none
      | none => none
  | _ => none

/-- Place a program's parts one after another. -/
def State.placeAll {α : Type} (f : α → State → Option State) : List α → State → Option State
  | [], s => some s
  | x :: l, s =>
    match f x s with
    | some t => State.placeAll f l t
    | none => none

/-- The die that holds the frame of a process's launch page (R366). -/
def State.launchDie (s : State) (proc : Nat) : Nat :=
  match ((s.procAt proc).launchVa).bind (s.walk proc) with
  | some e => paStack (pteFrame e.pte)
  | none => 0

/-- Bind a mailbox slot with a new GEN (R366); a die that is 16 or more stands for the launch page's. -/
def State.bindSlot (proc : Nat) (b : BindSpec) (s : State) : Option State :=
  let ok := match s.walk proc (va57 b.entry) with
    | some e => pteX e.pte && canonical b.entry
    | none => false
  if 64 ≤ b.slot ∨ b.entry.toNat % 4 ≠ 0 ∨ 4 < b.images.length ∨ 3 < b.prio ∨ ok = false then none
  else
    let v := (s.procAt proc).slot b.slot
    let gen := (v.gen + 1) % 65536
    let die := if b.die < 16 then b.die else s.launchDie proc
    some (s.modProc proc (fun p => p.setSlot b.slot { v with
      code := 0, gen := gen, binding := some { gen := gen, entry := b.entry, images := b.images, prio := b.prio, die := die } }))

/-- The loader places bytes whatever the rights of their pages (R366); fibre pages and pages of a fenced die take none (R402). -/
def placeBytes (proc : Nat) : List Byte → Word → State → Option State
  | [], _, s => some s
  | b :: l, va, s =>
    match s.walk proc (va57 va) with
    | none => none
    | some e =>
      if pteFib e.pte ∨ canonical va = false ∨ (s.procAt proc).unitPage (va57 va) ∨ s.cutOff (pteFrame e.pte) ∨ s.tablesGone proc (va57 va) then none
      else
        let used := s.markUse e true
        if pteState e.pte = 0 then placeBytes proc l (va + 1) (used.setMem (e.paOf (va57 va)) [b])
        else match used.pagerWork e with
          | none => none
          | some t => match t.walk proc (va57 va) with
            | some x => placeBytes proc l (va + 1) (t.setMem (x.paOf (va57 va)) [b])
            | none => none

/-- PROGRAM_LOAD (R366, R351): sections, fibre area, bindings; a program that one of them refuses is not loaded. -/
def execProgramLoad (l : ProgramImage) (s : State) : Out :=
  if (!s.pkg.ready) || !s.hythenRuns || (Map.find s.procs l.proc).isNone then .next s
  else
    match ((State.placeAll (fun x t => placeBytes l.proc x.2 x.1 t) l.sections s).bind (State.placeAll (State.placeFibre l.proc) l.fibres)).bind
        (State.placeAll (State.bindSlot l.proc) l.binds) with
    | some t => .next t
    | none => .next s

/-! ### Live experts (R422) -/

/-- LIVE_EXPERT_REGISTRATION (R422): a record, its hasp, the placement of up to 256 experts. -/
def execLiveExpertRegistration (r : ExpertRecord) (signed : Bool) (s : State) : Out :=
  managed false signed s (fun s =>
    if (Map.find s.procs r.proc).isNone ∨ 256 < r.placement.length ∨ r.hasp.toNat % 64 ≠ 0 then .next s
    else .next { s with pkg := { s.pkg with experts := s.pkg.experts ++ [{ proc := r.proc, addr := r.addr, hasp := r.hasp, placement := r.placement }] } })

/-- The experts placed on a die, as a mask (R422). -/
def Expert.on (x : Expert) (who : Nat × Nat) : Nat := maskOf 256 (fun i => x.placement[i]? == some who)

/-- A record after a strike: GEN one higher, the bits of the dead experts clear (R422). -/
def struck (bs : List Byte) (dead : Nat) : List Byte :=
  leBytes 8 (leValue (bs.take 8) + 1) ++ leBytes 32 ((BitVec.ofNat 256 (leValue ((bs.drop 8).take 32))) &&& ~~~(BitVec.ofNat 256 dead)).toNat ++ bs.drop 40

/-- Hythen strikes a record and then performs HREL of L (R422, R289). -/
def State.strike (who : Nat × Nat) (s : State) (x : Expert) : State :=
  if x.on who = 0 then s
  else match agentRead x.proc 64 x.addr s with
    | .bytes bs t =>
      (match agentWrite x.proc (struck bs (x.on who)) x.addr t with
      | .bytes _ u =>
        (match u.agentXlat x.proc 1 false x.hasp with
        | .frame pa v => (match v.homeRelease pa 0 (v.procAt x.proc).tenant with
          | .done w => w
          | _ => v)
        | _ => u)
      | _ => s)
    | _ => s

/-- Whether a strike has to wait: the record's page, or L's, migrates. -/
def State.strikeWaits (s : State) (who : Nat × Nat) (x : Expert) : Bool :=
  x.on who != 0 &&
  ((match agentRead x.proc 64 x.addr s with
    | .waits => true
    | _ => false) ||
   (match s.agentXlat x.proc 1 false x.hasp with
    | .waits => true
    | _ => false))

/-- STRIKE_NOTICE (R422): a notice names a package and a fenced die of it; it stands until every record that it concerns can be struck. -/
def execStrikeNotice (notice die : Nat) (s : State) : Out :=
  if s.pkg.experts.any (s.strikeWaits (notice, die)) then .next s
  else
  let t : State := { s with pkg := { s.pkg with striking := s.pkg.striking.filter (fun x => x != (notice, die)) } }
  .next (s.pkg.experts.foldl (State.strike (notice, die)) t)

end Sys2Proof.Machine
end

