-- ==== Sys2Proof/Machine/Background.lean ====
section
/-! DEFINITION. The steps that the agents other than a control thread take of their own accord, and the agenda of them that stands after
a step of a control thread (log 2): one order among those that the spec allows. -/

namespace Sys2Proof.Machine

/-- A service step, by the code of the task's request (R395); where MAPMEM and TRACERING place new pages is Hythen's choice, a free value
(log 3): one that does not fit is no step, and another is tried on a later turn. -/
def serveTask (task : Nat) (s : State) : Out :=
  match ((s.taskAt task).request).map (fun r => r.1) with
  | some 1 => execDefhasp task s
  | some 2 => execHandle task s
  | some 3 => execMapmem task (Config.placedAt s.free) (Config.placedOn s.free) (Config.placedTables s.free) s
  | some 4 => execUnmapmem task s
  | some 5 => execTracering task (Config.placedAt s.free) (Config.placedTables s.free) s
  | some 6 => execTelem task s
  | some 7 => execAttest task s
  | some 8 => execWatch task s
  | some 9 => execLaunchpage task s
  | some 10 => execSendpage task s
  | _ => .next s

/-- Hythen declares an escalated fault of the core's die fatal (R328). -/
def declareFatal (k : Nat) (s : State) : Out :=
  match s.die.pager[k]? with
  | some f => execFaultEscalation k (.fatal (s.fatalReason (s.faultCase f))) s
  | none => .next s

/-- A step of an agent. -/
def runAgent (a : Agent) (s : State) : Out :=
  match a with
  | .fire t => fireTarget t s
  | .performed t => execFabricAccessPerformed t s
  | .hop src => execTokenHop src s
  | .changeover t => execElementChangeover t s
  | .routerChangeover r => execRouterChangeover r s
  | .drain pt => execDrainEnter pt s
  | .switchComplete => execSwitchComplete s
  | .switchStall => execSwitchStall s
  | .stalledPlane => execStalledPlane s
  | .trigger => execTriggerFire s
  | .launchEnd => execLaunchEnd s
  | .loadStart => execPlaneLoadStart s
  | .loadWrite => execPlaneLoadWrite s
  | .loadCheck => execPlaneLoadCheck s
  | .traceWalk => execTraceWalkStep s
  | .streamStart => execStreamStart s
  | .deliver e k => execStreamDeliver e k s
  | .take e k => execStreamWriteToken e k s
  | .gather e k n => execGatherComplete e k n s
  | .probe e k => execProbe e k s
  | .scan src => execScanStep src s
  | .streamEnd e k => execStreamEnd e k s
  | .copyStart ch => execCopyStart ch s
  | .copyLand ch => execCopyLand ch 8 s
  | .copyComplete ch => execCopyComplete ch s
  | .haspFlight k => execEngineHaspOperation k s
  | .matrixStart => execMatrixCommandStart s
  | .matrixComplete load => execMatrixCommandComplete load .clean s
  | .fireStart lane => execFireStart lane s
  | .fireComplete lane => execFireComplete { lane := lane } s
  | .calibrate arr => execCalibration arr s
  | .program arr => execProgramming arr true s
  | .quiescent => execQuiescentPoint s
  | .contextSave => execContextSave s
  | .preciseStop => execPreciseStop s
  | .contextRestore n => execContextRestore n s
  | .wake n => execWakeDelivery n s
  | .kill n => execTaskKill n s
  | .service n => serveTask n s
  | .accepted => execAcceptanceNotice s
  | .postFailed => execPostedFailure s
  | .merge issuer => execMergeEntry issuer s
  | .fault k => execFaultToken k s
  | .pager k => execPagerResolution k s
  | .escalate k => declareFatal k s
  | .invalidate => execInvalidationBroadcast s
  | .scrub => execScrub s
  | .dispatch => execDispatch s
  | .preempt => execPreemption s
  | .waitPreempt => execWaitPreemption s
  | .spill => execSpill .clean s
  | .spillReturn => execSpillReturn s
  | .pass => .next s

/-! ### The agenda -/

/-- Turns of a core. -/
def turnsOf (core : Nat) (l : List Agent) : List Turn := l.map (fun a => { core := core, what := .agent a })

/-- An agent, if a condition holds. -/
def agentsIf (b : Bool) (l : List Agent) : List Agent := if b then l else []

/-- The agents of a core's fabric (R15, R21, R79, R209, R210, R214, R230, R237). -/
def fabricAgents (c : Core) : List Agent :=
  let f := c.fab
  let live := f.active.isSome || f.switch.isSome
  let ts := if live then (List.range 192).filter (fun t => (f.cfg t).op t != 0) else []
  f.ops.flatMap (fun e => agentsIf (!e.2.out.isEmpty) [.performed e.1] ++ agentsIf (!e.2.pend.isEmpty) [.hop (.pipe e.1)]) ++
  f.stages.map (fun e => .hop (.stage (e.1 / 30) (e.1 % 30))) ++ f.pipes.map (fun e => .hop (.pipe e.1)) ++ ts.map .fire ++
  f.inq.flatMap (fun e => if e.2.isEmpty then [] else [.hop (.inPort e.1)]) ++
  agentsIf f.switch.isSome
    ((List.range 16).map (fun k => .drain (.inPort k)) ++ ts.map (fun t => .drain (.source t)) ++ (List.range 192).map .changeover ++
     (List.range 64).map .routerChangeover ++ [.switchComplete, .switchStall]) ++
  agentsIf (ptrgArm c.ptrg) [.trigger] ++ agentsIf (f.launch == 1) [.launchEnd] ++ agentsIf (!f.loads.isEmpty) [.loadStart, .loadWrite, .loadCheck] ++
  agentsIf f.trace.node.isSome [.traceWalk] ++ agentsIf (live && c.qreq.isSome) [.stalledPlane]

/-- The agents of a started stream. -/
def slotAgents (e k : Nat) (t : Stream) : List Agent :=
  (if 16 ≤ t.cmd.port then [.take e k]
   else
     (match t.cmd.pat.kind with
      | 1 => (match t.due with
        | .index n => [.gather e k n]
        | .value n _ => [.gather e k n]
        | _ => [])
      | 2 => [.scan (.stream e k)]
      | 3 => [.probe e k]
      | _ => []) ++ [.deliver e k]) ++ [.streamEnd e k]

/-- The agents of a core's engines and channels (R187 to R197, R204, R294, R327, R348). -/
def engineAgents (c : Core) : List Agent :=
  agentsIf (c.engines.any (fun e => !e.2.queue.isEmpty)) [.streamStart] ++
  c.engines.flatMap (fun e => e.2.slots.flatMap (fun t => slotAgents e.1 t.1 t.2) ++ agentsIf (!e.2.ending.isEmpty) [.streamEnd e.1 4]) ++
  c.chans.flatMap (fun e => agentsIf (!e.2.queue.isEmpty) [.copyStart e.1, .copyLand e.1, .copyComplete e.1]) ++
  (List.range c.flights.length).reverse.map (fun k => .haspFlight k) ++ List.replicate c.posted .accepted ++ agentsIf (!c.postFails.isEmpty) [.postFailed] ++
  (List.range c.faults.length).reverse.map .fault

/-- The agents of the core's cluster (R266, R273, R277, R278). -/
def clusterAgents (k : Cluster) : List Agent :=
  agentsIf (k.mstreams.any (fun e => !e.2.isEmpty)) [.matrixStart, .matrixComplete true, .matrixComplete false] ++
  k.arrays.flatMap (fun e => if e.2.queue.isEmpty then [] else [.fireStart (e.1 / 512), .fireComplete (e.1 / 512), .calibrate e.1, .program e.1])

/-- The agents of a switch of tasks on the core (R105, R106, R233, R234, R239, R379). -/
def contextAgents (c : Core) : List Agent :=
  agentsIf c.qreq.isSome [.quiescent, .contextSave, .preciseStop] ++ agentsIf c.scrub [.scrub] ++
  (match c.task with
   | some n => agentsIf (c.run == .idle && !c.scrub) [.contextRestore n]
   | none => [])

/-- The agents of a die (R325, R328, R337, R376): on its pager core's turn. -/
def dieAgents (d : Die) : List Agent :=
  (List.range d.pager.length).map (fun k => .pager k) ++ (List.range d.pager.length).map (fun k => .escalate k) ++
  d.fibq.flatMap (fun q => [.scan (.merge q.1), .merge q.1]) ++ agentsIf (!d.spilling.isEmpty) [.spill] ++ agentsIf (!d.spilled.isEmpty) [.spillReturn]

/-- The scheduler's turns of a die: the first free core that Choose serves, else the pre-emptions (R372 to R374). -/
def State.schedTurns (s : State) (die : Nat) (d : Die) : List Turn :=
  if d.queues.all (fun q => q.2.isEmpty) then []
  else match (s.coresOf die).find? (fun c => c.free && (s.choose c).isSome) with
    | some c => turnsOf c.id [.dispatch]
    | none => turnsOf (die * 256) [.preempt] ++ turnsOf s.core.id (agentsIf (s.core.stack == die) [.waitPreempt])

/-- The core whose turn it is after this one: the next that the state lists with a task or with its thread running, in a cycle. -/
def State.nextCore (s : State) : Nat :=
  let busy := (s.others.filter (fun e => e.2.run == .running || e.2.task.isSome)).map (fun e => e.1)
  match busy.find? (fun n => decide (s.core.id < n)) with
  | some n => n
  | none => busy.headD s.core.id

/-- The agenda after a step of the control thread (log 2). -/
def State.background (s : State) : List Turn :=
  turnsOf s.core.id (fabricAgents s.core ++ engineAgents s.core ++ clusterAgents s.cluster ++ contextAgents s.core) ++
  s.dies.flatMap (fun e => turnsOf (e.1 * 256 + 255) (dieAgents e.2) ++ s.schedTurns e.1 e.2) ++
  s.tasks.flatMap (fun e => turnsOf s.core.id (agentsIf e.2.wake.isSome [.wake e.1] ++ agentsIf e.2.killing [.kill e.1] ++ agentsIf (e.2.request.isSome && e.2.reply.isNone) [.service e.1])) ++
  turnsOf s.core.id (agentsIf (!s.pkg.unacked.isEmpty) [.invalidate]) ++
  (if s.nextCore = s.core.id then [] else turnsOf s.nextCore [.pass])

end Sys2Proof.Machine
end

