-- ==== Sys2Proof/Machine/Branch.lean ====
section
/-! DEFINITION. Branches, jumps and the hardware loop (R165 to R168). -/

namespace Sys2Proof.Machine

/-- A branch (R165): both registers exact-only, all 64 bits compared, the target PC + 4 × sext(off13). -/
def branchOp (cond : Word → Word → Bool) (a b : Reg) (off : BitVec 13) (s : State) : Out :=
  guardExact [a, b] s (fun s =>
    .next (s.finishAt 4 (if cond (s.reg a) (s.reg b) then branchTarget s.core.pc off else s.core.pc + 4)))

/-- BEQ and BNE (R165). -/
def execBeq (a b : Reg) (off : BitVec 13) (s : State) : Out := branchOp (· == ·) a b off s
def execBne (a b : Reg) (off : BitVec 13) (s : State) : Out := branchOp (· != ·) a b off s

/-- BLT and BGE (R165), signed. -/
def execBlt (a b : Reg) (off : BitVec 13) (s : State) : Out := branchOp BitVec.slt a b off s
def execBge (a b : Reg) (off : BitVec 13) (s : State) : Out := branchOp (fun x y => !x.slt y) a b off s

/-- BLTN and BGEN (R165), unsigned. -/
def execBltn (a b : Reg) (off : BitVec 13) (s : State) : Out := branchOp BitVec.ult a b off s
def execBgen (a b : Reg) (off : BitVec 13) (s : State) : Out := branchOp (fun x y => !x.ult y) a b off s

/-- The loop registers as LOOP sets them (R167). -/
def Core.setLoop (count : Word) (off : BitVec 13) (c : Core) : Core :=
  { c with lstart := c.pc + 4, lend := branchTarget c.pc off, lcnt := count }

/-- LOOP (R167): the body runs g[a][31:0] times; with a count of zero, execution goes on after the instruction at LEND, whose
length is learnt by fetching its first word. -/
def execLoop (a : Reg) (off : BitVec 13) (s : State) : Out :=
  guardWf (.loop a off) s (fun s => guardExact [a] s (fun s =>
    let n := zext32 (lowWord (s.reg a))
    let last := branchTarget s.core.pc off
    if n ≠ 0 then .next ((s.modCore (Core.setLoop n off)).finish 4)
    else match s.core.iword last with
      | none => fetchLine last s
      | some w => .next ((s.modCore (Core.setLoop 0 off)).finishAt 4 (last + BitVec.ofNat 64 (4 * wordsNeeded w)))))

/-- J (R166). -/
def execJ (off : BitVec 26) (s : State) : Out := .next (s.finishAt 4 (jumpTarget s.core.pc off))

/-- JAL (R166): g31 ← PC + 4, exact. -/
def execJal (off : BitVec 26) (s : State) : Out :=
  .next ((s.setReg 31 (s.core.pc + 4) false).finishAt 4 (jumpTarget s.core.pc off))

/-- JALR (R166): the target g[a] + sext(imm) must be 4-byte aligned; g[a] is read before g[d] is written. -/
def execJalr (d a : Reg) (imm : BitVec 16) (s : State) : Out :=
  guardExact [a] s (fun s =>
    let t := s.reg a + sext16 imm
    if t.toNat % 4 ≠ 0 then trap causeAlign t s
    else .next ((s.setReg d (s.core.pc + 4) false).finishAt 4 t))

end Sys2Proof.Machine
end

