-- ==== Sys2Proof/Machine/Dispatch.lean ====
section
/-! DEFINITION. The meaning of each instruction and of each step of the other agents: one arm per constructor. -/

namespace Sys2Proof.Machine

def exec (i : Instr) (s : State) : Host.Outcome State Fault Refusal :=
  match i with
  | .add d a b => Sys2Proof.Machine.execAdd d a b s
  | .addLit d a lit => Sys2Proof.Machine.execAddLit d a lit s
  | .sub d a b => Sys2Proof.Machine.execSub d a b s
  | .subLit d a lit => Sys2Proof.Machine.execSubLit d a lit s
  | .mul d a b => Sys2Proof.Machine.execMul d a b s
  | .mulLit d a lit => Sys2Proof.Machine.execMulLit d a lit s
  | .mulh d a b => Sys2Proof.Machine.execMulh d a b s
  | .mulhLit d a lit => Sys2Proof.Machine.execMulhLit d a lit s
  | .mulhn d a b => Sys2Proof.Machine.execMulhn d a b s
  | .mulhnLit d a lit => Sys2Proof.Machine.execMulhnLit d a lit s
  | .div d a b => Sys2Proof.Machine.execDiv d a b s
  | .divLit d a lit => Sys2Proof.Machine.execDivLit d a lit s
  | .divn d a b => Sys2Proof.Machine.execDivn d a b s
  | .divnLit d a lit => Sys2Proof.Machine.execDivnLit d a lit s
  | .rem d a b => Sys2Proof.Machine.execRem d a b s
  | .remLit d a lit => Sys2Proof.Machine.execRemLit d a lit s
  | .remn d a b => Sys2Proof.Machine.execRemn d a b s
  | .remnLit d a lit => Sys2Proof.Machine.execRemnLit d a lit s
  | .and d a b => Sys2Proof.Machine.execAnd d a b s
  | .andLit d a lit => Sys2Proof.Machine.execAndLit d a lit s
  | .or d a b => Sys2Proof.Machine.execOr d a b s
  | .orLit d a lit => Sys2Proof.Machine.execOrLit d a lit s
  | .xor d a b => Sys2Proof.Machine.execXor d a b s
  | .xorLit d a lit => Sys2Proof.Machine.execXorLit d a lit s
  | .andn d a b => Sys2Proof.Machine.execAndn d a b s
  | .andnLit d a lit => Sys2Proof.Machine.execAndnLit d a lit s
  | .sll d a b => Sys2Proof.Machine.execSll d a b s
  | .sllLit d a lit => Sys2Proof.Machine.execSllLit d a lit s
  | .srl d a b => Sys2Proof.Machine.execSrl d a b s
  | .srlLit d a lit => Sys2Proof.Machine.execSrlLit d a lit s
  | .sra d a b => Sys2Proof.Machine.execSra d a b s
  | .sraLit d a lit => Sys2Proof.Machine.execSraLit d a lit s
  | .slt d a b => Sys2Proof.Machine.execSlt d a b s
  | .sltLit d a lit => Sys2Proof.Machine.execSltLit d a lit s
  | .sltn d a b => Sys2Proof.Machine.execSltn d a b s
  | .sltnLit d a lit => Sys2Proof.Machine.execSltnLit d a lit s
  | .clz d a => Sys2Proof.Machine.execClz d a s
  | .popc d a => Sys2Proof.Machine.execPopc d a s
  | .addi d a imm => Sys2Proof.Machine.execAddi d a imm s
  | .andi d a imm => Sys2Proof.Machine.execAndi d a imm s
  | .ori d a imm => Sys2Proof.Machine.execOri d a imm s
  | .xori d a imm => Sys2Proof.Machine.execXori d a imm s
  | .slli d a sh => Sys2Proof.Machine.execSlli d a sh s
  | .srli d a sh => Sys2Proof.Machine.execSrli d a sh s
  | .srai d a sh => Sys2Proof.Machine.execSrai d a sh s
  | .slti d a imm => Sys2Proof.Machine.execSlti d a imm s
  | .lui d imm => Sys2Proof.Machine.execLui d imm s
  | .fadd d a b rm sat => Sys2Proof.Machine.execFadd d a b rm sat s
  | .faddLit d a lit rm sat => Sys2Proof.Machine.execFaddLit d a lit rm sat s
  | .fsub d a b rm sat => Sys2Proof.Machine.execFsub d a b rm sat s
  | .fsubLit d a lit rm sat => Sys2Proof.Machine.execFsubLit d a lit rm sat s
  | .fmul d a b rm sat => Sys2Proof.Machine.execFmul d a b rm sat s
  | .fmulLit d a lit rm sat => Sys2Proof.Machine.execFmulLit d a lit rm sat s
  | .fdiv d a b rm sat => Sys2Proof.Machine.execFdiv d a b rm sat s
  | .fdivLit d a lit rm sat => Sys2Proof.Machine.execFdivLit d a lit rm sat s
  | .fsqrt d a rm sat => Sys2Proof.Machine.execFsqrt d a rm sat s
  | .fma d a b rm sat => Sys2Proof.Machine.execFma d a b rm sat s
  | .fmaLit d a lit rm sat => Sys2Proof.Machine.execFmaLit d a lit rm sat s
  | .fmin d a b => Sys2Proof.Machine.execFmin d a b s
  | .fminLit d a lit => Sys2Proof.Machine.execFminLit d a lit s
  | .fmax d a b => Sys2Proof.Machine.execFmax d a b s
  | .fmaxLit d a lit => Sys2Proof.Machine.execFmaxLit d a lit s
  | .fcmp d a b cond => Sys2Proof.Machine.execFcmp d a b cond s
  | .fcmpLit d a lit cond => Sys2Proof.Machine.execFcmpLit d a lit cond s
  | .accept d a b half tol => Sys2Proof.Machine.execAccept d a b half tol s
  | .fcvt d a dst rm sat src => Sys2Proof.Machine.execFcvt d a dst rm sat src s
  | .eret => Sys2Proof.Machine.execEret s
  | .yield => Sys2Proof.Machine.execYield s
  | .retire => Sys2Proof.Machine.execRetire s
  | .fenceI => Sys2Proof.Machine.execFenceI s
  | .spawn d a b => Sys2Proof.Machine.execSpawn d a b s
  | .trap code => Sys2Proof.Machine.execTrap code s
  | .brk code => Sys2Proof.Machine.execBrk code s
  | .crrd d n => Sys2Proof.Machine.execCrrd d n s
  | .crwr a n => Sys2Proof.Machine.execCrwr a n s
  | .crwrPtrg a => Sys2Proof.Machine.execCrwrPtrg a s
  | .crwrInj a => Sys2Proof.Machine.execCrwrInj a s
  | .atomAdd d a b space dbl => Sys2Proof.Machine.execAtomAdd d a b space dbl s
  | .atomAnd d a b space dbl => Sys2Proof.Machine.execAtomAnd d a b space dbl s
  | .atomOr d a b space dbl => Sys2Proof.Machine.execAtomOr d a b space dbl s
  | .atomXor d a b space dbl => Sys2Proof.Machine.execAtomXor d a b space dbl s
  | .atomMin d a b space dbl => Sys2Proof.Machine.execAtomMin d a b space dbl s
  | .atomMax d a b space dbl => Sys2Proof.Machine.execAtomMax d a b space dbl s
  | .atomMinn d a b space dbl => Sys2Proof.Machine.execAtomMinn d a b space dbl s
  | .atomMaxn d a b space dbl => Sys2Proof.Machine.execAtomMaxn d a b space dbl s
  | .atomSwap d a b space dbl => Sys2Proof.Machine.execAtomSwap d a b space dbl s
  | .atomCas d a b space dbl => Sys2Proof.Machine.execAtomCas d a b space dbl s
  | .lmarkEmpty a b space => Sys2Proof.Machine.execLmarkEmpty a b space s
  | .lmarkFull a b space => Sys2Proof.Machine.execLmarkFull a b space s
  | .lmarkEst a b space => Sys2Proof.Machine.execLmarkEst a b space s
  | .lmarkExact a b space => Sys2Proof.Machine.execLmarkExact a b space s
  | .lwait a space => Sys2Proof.Machine.execLwait a space s
  | .ldB d a space off => Sys2Proof.Machine.execLdB d a space off s
  | .ldBn d a space off => Sys2Proof.Machine.execLdBn d a space off s
  | .ldH d a space off => Sys2Proof.Machine.execLdH d a space off s
  | .ldHn d a space off => Sys2Proof.Machine.execLdHn d a space off s
  | .ldW d a space off => Sys2Proof.Machine.execLdW d a space off s
  | .ldWn d a space off => Sys2Proof.Machine.execLdWn d a space off s
  | .ldD d a space off => Sys2Proof.Machine.execLdD d a space off s
  | .ldEh d a space off => Sys2Proof.Machine.execLdEh d a space off s
  | .ldEw d a space off => Sys2Proof.Machine.execLdEw d a space off s
  | .sb src a space off => Sys2Proof.Machine.execSb src a space off s
  | .sh src a space off => Sys2Proof.Machine.execSh src a space off s
  | .sw src a space off => Sys2Proof.Machine.execSw src a space off s
  | .sd src a space off => Sys2Proof.Machine.execSd src a space off s
  | .beq a b off => Sys2Proof.Machine.execBeq a b off s
  | .bne a b off => Sys2Proof.Machine.execBne a b off s
  | .blt a b off => Sys2Proof.Machine.execBlt a b off s
  | .bge a b off => Sys2Proof.Machine.execBge a b off s
  | .bltn a b off => Sys2Proof.Machine.execBltn a b off s
  | .bgen a b off => Sys2Proof.Machine.execBgen a b off s
  | .loop a off => Sys2Proof.Machine.execLoop a off s
  | .j off => Sys2Proof.Machine.execJ off s
  | .jal off => Sys2Proof.Machine.execJal off s
  | .jalr d a imm => Sys2Proof.Machine.execJalr d a imm s
  | .srd eng port recReg fl => Sys2Proof.Machine.execSrd eng port recReg fl s
  | .srdLit eng port lit fl => Sys2Proof.Machine.execSrdLit eng port lit fl s
  | .swr eng port recReg fl => Sys2Proof.Machine.execSwr eng port recReg fl s
  | .swrLit eng port lit fl => Sys2Proof.Machine.execSwrLit eng port lit fl s
  | .sind eng port recReg fl => Sys2Proof.Machine.execSind eng port recReg fl s
  | .sindLit eng port lit fl => Sys2Proof.Machine.execSindLit eng port lit fl s
  | .pwait port => Sys2Proof.Machine.execPwait port s
  | .sstat eng port d kind => Sys2Proof.Machine.execSstat eng port d kind s
  | .cpy c => Sys2Proof.Machine.execCpy c s
  | .cpym c m => Sys2Proof.Machine.execCpym c m s
  | .wpwait ch a => Sys2Proof.Machine.execWpwait ch a s
  | .cfg p a => Sys2Proof.Machine.execCfg p a s
  | .cfgs p b a => Sys2Proof.Machine.execCfgs p b a s
  | .pswitch p => Sys2Proof.Machine.execPswitch p s
  | .pdrain => Sys2Proof.Machine.execPdrain s
  | .ptrig p port a => Sys2Proof.Machine.execPtrig p port a s
  | .hinit h mode b => Sys2Proof.Machine.execHinit h mode b s
  | .key a h => Sys2Proof.Machine.execKey a h s
  | .hacq h => Sys2Proof.Machine.execHacq h s
  | .hrel h => Sys2Proof.Machine.execHrel h s
  | .harr h => Sys2Proof.Machine.execHarr h s
  | .hwait h => Sys2Proof.Machine.execHwait h s
  | .hsig h b => Sys2Proof.Machine.execHsig h b s
  | .join h => Sys2Proof.Machine.execJoin h s
  | .leave h => Sys2Proof.Machine.execLeave h s
  | .mldw st slot a shape fmt fl => Sys2Proof.Machine.execMldw st slot a shape fmt fl s
  | .mmul m => Sys2Proof.Machine.execMmul m s
  | .mwait st => Sys2Proof.Machine.execMwait st s
  | .xprog arr b fl => Sys2Proof.Machine.execXprog arr b fl s
  | .xfire arr b c fl => Sys2Proof.Machine.execXfire arr b c fl s
  | .xcal arr => Sys2Proof.Machine.execXcal arr s
  | .xstat d arr => Sys2Proof.Machine.execXstat d arr s
  | .fnew a b => Sys2Proof.Machine.execFnew a b s
  | .ffree a => Sys2Proof.Machine.execFfree a s
  | .fprobe d a b => Sys2Proof.Machine.execFprobe d a b s
  | .fmerge a b d fmt => Sys2Proof.Machine.execFmerge a b d fmt s
  | .fmrgf a b => Sys2Proof.Machine.execFmrgf a b s
  | .fstat d a => Sys2Proof.Machine.execFstat d a s
  | .fclr a => Sys2Proof.Machine.execFclr a s
  | .pdiscard a b => Sys2Proof.Machine.execPdiscard a b s
  | .phintTlb a b => Sys2Proof.Machine.execPhintTlb a b s
  | .phintFill a b => Sys2Proof.Machine.execPhintFill a b s
  | .phintCold a b => Sys2Proof.Machine.execPhintCold a b s
  | .phintNear a b => Sys2Proof.Machine.execPhintNear a b s
  | .asyncTrap => Sys2Proof.Machine.execAsyncTrap s
  | .fetchMiss va => Sys2Proof.Machine.execFetchMiss va s
  | .tokenHop src => Sys2Proof.Machine.execTokenHop src s
  | .elementFire t parity => Sys2Proof.Machine.execElementFire t parity s
  | .stalledPlane => Sys2Proof.Machine.execStalledPlane s
  | .faddElement t => Sys2Proof.Machine.execFaddElement t s
  | .fsubElement t => Sys2Proof.Machine.execFsubElement t s
  | .fmulElement t => Sys2Proof.Machine.execFmulElement t s
  | .fmaElement t => Sys2Proof.Machine.execFmaElement t s
  | .fmsElement t => Sys2Proof.Machine.execFmsElement t s
  | .fminElement t => Sys2Proof.Machine.execFminElement t s
  | .fmaxElement t => Sys2Proof.Machine.execFmaxElement t s
  | .fabsElement t => Sys2Proof.Machine.execFabsElement t s
  | .fnegElement t => Sys2Proof.Machine.execFnegElement t s
  | .frcpElement t => Sys2Proof.Machine.execFrcpElement t s
  | .frsqElement t => Sys2Proof.Machine.execFrsqElement t s
  | .fsqrtElement t => Sys2Proof.Machine.execFsqrtElement t s
  | .fdivElement t => Sys2Proof.Machine.execFdivElement t s
  | .frndElement t => Sys2Proof.Machine.execFrndElement t s
  | .iaddElement t => Sys2Proof.Machine.execIaddElement t s
  | .isubElement t => Sys2Proof.Machine.execIsubElement t s
  | .imulElement t => Sys2Proof.Machine.execImulElement t s
  | .imulhElement t => Sys2Proof.Machine.execImulhElement t s
  | .imadElement t => Sys2Proof.Machine.execImadElement t s
  | .iminElement t => Sys2Proof.Machine.execIminElement t s
  | .imaxElement t => Sys2Proof.Machine.execImaxElement t s
  | .andElement t => Sys2Proof.Machine.execAndElement t s
  | .orElement t => Sys2Proof.Machine.execOrElement t s
  | .xorElement t => Sys2Proof.Machine.execXorElement t s
  | .andnElement t => Sys2Proof.Machine.execAndnElement t s
  | .shlElement t => Sys2Proof.Machine.execShlElement t s
  | .shrElement t => Sys2Proof.Machine.execShrElement t s
  | .clzElement t => Sys2Proof.Machine.execClzElement t s
  | .popcElement t => Sys2Proof.Machine.execPopcElement t s
  | .fcmpElement t => Sys2Proof.Machine.execFcmpElement t s
  | .icmpElement t => Sys2Proof.Machine.execIcmpElement t s
  | .selElement t => Sys2Proof.Machine.execSelElement t s
  | .passElement t => Sys2Proof.Machine.execPassElement t s
  | .fcvtElement t => Sys2Proof.Machine.execFcvtElement t s
  | .bxqElement t => Sys2Proof.Machine.execBxqElement t s
  | .faccElement t => Sys2Proof.Machine.execFaccElement t s
  | .iaccElement t => Sys2Proof.Machine.execIaccElement t s
  | .ctrElement t => Sys2Proof.Machine.execCtrElement t s
  | .steerElement t => Sys2Proof.Machine.execSteerElement t s
  | .mergeElement t => Sys2Proof.Machine.execMergeElement t s
  | .carryElement t => Sys2Proof.Machine.execCarryElement t s
  | .rankElement t => Sys2Proof.Machine.execRankElement t s
  | .acceptElement t => Sys2Proof.Machine.execAcceptElement t s
  | .constElement t => Sys2Proof.Machine.execConstElement t s
  | .sinkElement t => Sys2Proof.Machine.execSinkElement t s
  | .ldElement t => Sys2Proof.Machine.execLdElement t s
  | .stElement t => Sys2Proof.Machine.execStElement t s
  | .ataddElement t => Sys2Proof.Machine.execAtaddElement t s
  | .fabricAccessPerformed t => Sys2Proof.Machine.execFabricAccessPerformed t s
  | .bankGrant buf bank => Sys2Proof.Machine.execBankGrant buf bank s
  | .elementChangeover t => Sys2Proof.Machine.execElementChangeover t s
  | .routerChangeover r => Sys2Proof.Machine.execRouterChangeover r s
  | .switchComplete => Sys2Proof.Machine.execSwitchComplete s
  | .drainEnter pt => Sys2Proof.Machine.execDrainEnter pt s
  | .switchStall => Sys2Proof.Machine.execSwitchStall s
  | .triggerFire => Sys2Proof.Machine.execTriggerFire s
  | .launchEnd => Sys2Proof.Machine.execLaunchEnd s
  | .planeLoadStart => Sys2Proof.Machine.execPlaneLoadStart s
  | .planeLoadWrite => Sys2Proof.Machine.execPlaneLoadWrite s
  | .planeLoadCheck => Sys2Proof.Machine.execPlaneLoadCheck s
  | .streamStart => Sys2Proof.Machine.execStreamStart s
  | .streamDeliver e slot => Sys2Proof.Machine.execStreamDeliver e slot s
  | .streamWriteToken e slot => Sys2Proof.Machine.execStreamWriteToken e slot s
  | .gatherComplete e slot k => Sys2Proof.Machine.execGatherComplete e slot k s
  | .streamEnd e slot => Sys2Proof.Machine.execStreamEnd e slot s
  | .copyStart ch => Sys2Proof.Machine.execCopyStart ch s
  | .copyLand ch words => Sys2Proof.Machine.execCopyLand ch words s
  | .copyComplete ch => Sys2Proof.Machine.execCopyComplete ch s
  | .quiescenceRequest why => Sys2Proof.Machine.execQuiescenceRequest why s
  | .quiescentPoint => Sys2Proof.Machine.execQuiescentPoint s
  | .contextSave => Sys2Proof.Machine.execContextSave s
  | .contextRestore task => Sys2Proof.Machine.execContextRestore task s
  | .instructionPageInvalidate proc va => Sys2Proof.Machine.execInstructionPageInvalidate proc va s
  | .traceWalkStep => Sys2Proof.Machine.execTraceWalkStep s
  | .preciseStop => Sys2Proof.Machine.execPreciseStop s
  | .clusterStoreAccess off ecc => Sys2Proof.Machine.execClusterStoreAccess off ecc s
  | .haspOperation task op ref => Sys2Proof.Machine.execHaspOperation task op ref s
  | .wakeDelivery task => Sys2Proof.Machine.execWakeDelivery task s
  | .engineHaspOperation k => Sys2Proof.Machine.execEngineHaspOperation k s
  | .matrixCommandStart => Sys2Proof.Machine.execMatrixCommandStart s
  | .matrixCommandComplete load ecc => Sys2Proof.Machine.execMatrixCommandComplete load ecc s
  | .slotReassign slot tenant => Sys2Proof.Machine.execSlotReassign slot tenant s
  | .fireStart lane => Sys2Proof.Machine.execFireStart lane s
  | .fireComplete lane => Sys2Proof.Machine.execFireComplete lane s
  | .calibration arr => Sys2Proof.Machine.execCalibration arr s
  | .programming arr verified => Sys2Proof.Machine.execProgramming arr verified s
  | .arrayErase arr tenant => Sys2Proof.Machine.execArrayErase arr tenant s
  | .tlbMissWalk proc va => Sys2Proof.Machine.execTlbMissWalk proc va s
  | .invalidationBroadcast => Sys2Proof.Machine.execInvalidationBroadcast s
  | .faultToken k => Sys2Proof.Machine.execFaultToken k s
  | .pagerResolution k => Sys2Proof.Machine.execPagerResolution k s
  | .faultEscalation k how => Sys2Proof.Machine.execFaultEscalation k how s
  | .dramAccess pa write ecc => Sys2Proof.Machine.execDramAccess pa write ecc s
  | .rowHammerRefresh row => Sys2Proof.Machine.execRowHammerRefresh row s
  | .periodicRefresh row => Sys2Proof.Machine.execPeriodicRefresh row s
  | .mergeEntry issuer => Sys2Proof.Machine.execMergeEntry issuer s
  | .probe e slot => Sys2Proof.Machine.execProbe e slot s
  | .scanStep src => Sys2Proof.Machine.execScanStep src s
  | .acceptanceNotice => Sys2Proof.Machine.execAcceptanceNotice s
  | .postedFailure => Sys2Proof.Machine.execPostedFailure s
  | .launch proc slot arg => Sys2Proof.Machine.execLaunch proc slot arg s
  | .dispatch => Sys2Proof.Machine.execDispatch s
  | .preemption => Sys2Proof.Machine.execPreemption s
  | .waitPreemption => Sys2Proof.Machine.execWaitPreemption s
  | .spill ecc => Sys2Proof.Machine.execSpill ecc s
  | .spillReturn => Sys2Proof.Machine.execSpillReturn s
  | .taskKill task => Sys2Proof.Machine.execTaskKill task s
  | .scrub => Sys2Proof.Machine.execScrub s
  | .partitionZero tenant => Sys2Proof.Machine.execPartitionZero tenant s
  | .flitReceive link ok => Sys2Proof.Machine.execFlitReceive link ok s
  | .powerGood images test => Sys2Proof.Machine.execPowerGood images test s
  | .governorMeasure exceeds => Sys2Proof.Machine.execGovernorMeasure exceeds s
  | .droop domain => Sys2Proof.Machine.execDroop domain s
  | .dieFence die => Sys2Proof.Machine.execDieFence die s
  | .defhasp task => Sys2Proof.Machine.execDefhasp task s
  | .handle task => Sys2Proof.Machine.execHandle task s
  | .mapmem task va die tables => Sys2Proof.Machine.execMapmem task va die tables s
  | .unmapmem task => Sys2Proof.Machine.execUnmapmem task s
  | .tracering task va tables => Sys2Proof.Machine.execTracering task va tables s
  | .telem task => Sys2Proof.Machine.execTelem task s
  | .attest task => Sys2Proof.Machine.execAttest task s
  | .watch task => Sys2Proof.Machine.execWatch task s
  | .launchpage task => Sys2Proof.Machine.execLaunchpage task s
  | .sendpage task => Sys2Proof.Machine.execSendpage task s
  | .imageUpdate image body signed => Sys2Proof.Machine.execImageUpdate image body signed s
  | .imageCommit image signed => Sys2Proof.Machine.execImageCommit image signed s
  | .tenantCreation q signed => Sys2Proof.Machine.execTenantCreation q signed s
  | .flowSlotBinding b signed => Sys2Proof.Machine.execFlowSlotBinding b signed s
  | .debuggerAttach task signed => Sys2Proof.Machine.execDebuggerAttach task signed s
  | .managementRead what signed => Sys2Proof.Machine.execManagementRead what signed s
  | .dieStriking die signed => Sys2Proof.Machine.execDieStriking die signed s
  | .goSend proc f => Sys2Proof.Machine.execGoSend proc f s
  | .goClear proc f => Sys2Proof.Machine.execGoClear proc f s
  | .remoteLaunch flow op => Sys2Proof.Machine.execRemoteLaunch flow op s
  | .remoteCopy flow op words => Sys2Proof.Machine.execRemoteCopy flow op words s
  | .remoteMerge flow op => Sys2Proof.Machine.execRemoteMerge flow op s
  | .acknowledgement proc f code => Sys2Proof.Machine.execAcknowledgement proc f code s
  | .flowTimeout proc f => Sys2Proof.Machine.execFlowTimeout proc f s
  | .portFailover port target => Sys2Proof.Machine.execPortFailover port target s
  | .strikeNotice notice die => Sys2Proof.Machine.execStrikeNotice notice die s
  | .illegalInstruction word lit => Sys2Proof.Machine.execIllegalInstruction word lit s
  | .pageMigration proc va stack => Sys2Proof.Machine.execPageMigration proc va stack s
  | .migrationEnd proc va how => Sys2Proof.Machine.execMigrationEnd proc va how s
  | .swapOut proc va copy => Sys2Proof.Machine.execSwapOut proc va copy s
  | .reclamation proc va => Sys2Proof.Machine.execReclamation proc va s
  | .serviceCoreFailure k => Sys2Proof.Machine.execServiceCoreFailure k s
  | .supplyRecovery domain => Sys2Proof.Machine.execSupplyRecovery domain s
  | .tenantHoldEnd h => Sys2Proof.Machine.execTenantHoldEnd h s
  | .quiescenceWithdrawal => Sys2Proof.Machine.execQuiescenceWithdrawal s
  | .programLoad l => Sys2Proof.Machine.execProgramLoad l s
  | .processCreation c => Sys2Proof.Machine.execProcessCreation c s
  | .liveExpertRegistration r signed => Sys2Proof.Machine.execLiveExpertRegistration r signed s
  | .operatorKeyCommit key signed => Sys2Proof.Machine.execOperatorKeyCommit key signed s

end Sys2Proof.Machine
end

