-- ==== Sys2Proof/Machine/Thread.lean ====
section
/-! DEFINITION. One step of the control thread, one step of the machine before time passes, and what the passing of time does. -/

namespace Sys2Proof.Machine

/-- The first two words as ILLEGAL reports them (R137): the literal only where L is set. -/
def illegalWords (ws : List Nat) : W32 × W32 := (BitVec.ofNat 32 (ws.headD 0), BitVec.ofNat 32 (ws.getD 1 0))

/-- Run the instruction of the words at PC: decode it, or raise ILLEGAL (R122, R137). -/
def runWords (ws : List Nat) (s : State) : Out :=
  match decode (fetchedBytes ws) with
  | .ok (i, _) => exec i s
  | .error _ => execIllegalInstruction (illegalWords ws).1 (illegalWords ws).2 s

/-- Whether the instruction at PC has issued and goes on whatever comes (R287, R356), or is under way and completes first (R182: XSTAT). -/
def Core.committed (c : Core) : Bool := c.wait == .key || c.wait == .reply || c.wait == .status

/-- One step of the control thread: a held asynchronous trap at a boundary with TA = 0 (R182); nothing while the thread is held; a
fetch; the instruction at PC. A KEY or an XSTAT under way, and a wait for a fibre home's reply, are no boundary (R287, R303, R356). -/
def threadStep (s : State) : Out :=
  if s.core.run ≠ .running then .next s
  else if s.core.asyncs ≠ [] ∧ s.core.ta = false ∧ s.core.committed = false then execAsyncTrap s
  else if s.core.threadHeld ∧ s.core.committed = false then .next s
  else match s.core.fetch with
    | .miss va => execFetchMiss va s
    | .words ws => runWords ws s

/-- Lines of the data cache that share a line's set of four (R95). -/
def sameSet (sets a b : Nat) : Bool := a % sets == b % sets

/-- Drop one line of an overfull set of the data cache, written back if dirty; which one no program can choose (R408). -/
def State.trimData (s : State) : State :=
  match s.core.dcache.find? (fun l => decide (4 < (s.core.dcache.filter (fun m => sameSet 32 l.line m.line)).length)) with
  | none => s
  | some l =>
    let set := s.core.dcache.filter (fun m => sameSet 32 l.line m.line)
    match set[Config.cacheVictim s.free % set.length]? with
    | none => s
    | some v => { ((s.writeBack (fun m => m.line == v.line)).dropLines (fun m => m.line == v.line)) with free := s.free + 1 }

/-- Drop one line of an overfull set of the instruction cache (R96). -/
def State.trimFetch (s : State) : State :=
  match s.core.icache.find? (fun l => decide (4 < (s.core.icache.filter (fun m => sameSet 64 l.line m.line)).length)) with
  | none => s
  | some l =>
    let set := s.core.icache.filter (fun m => sameSet 64 l.line m.line)
    match set[Config.cacheVictim s.free % set.length]? with
    | none => s
    | some v =>
      { s.modCore (fun c => { c with icache := c.icache.filter (fun m => m.line != v.line || m.proc != v.proc) }) with free := s.free + 1 }

/-- Time passes with a step: at least one cycle, how many more is free (log 4); overfull cache sets lose a line. -/
def State.tick (s : State) : State :=
  let t := s.trimData.trimFetch
  { t with cyc := t.cyc + 1 + Config.elapsed t.free, free := t.free + 1 }

/-- A turn (log 2). -/
def turnStep (t : Turn) (s : State) : Out :=
  match t.what with
  | .thread => threadStep (s.focus t.core)
  | .event i => exec i (s.focus t.core)
  | .agent a => runAgent a (s.focus t.core)

/-- The agenda begins again after a step of the control thread (log 2). -/
def refilled : Out → Out
  | .next s => .next { s with agenda := s.background }
  | o => o

/-- One move of one agent: the head of the agenda; where it is empty, the control thread of the core whose turn it is. -/
def moveStep (s : State) : Out :=
  match s.agenda with
  | [] => refilled (threadStep s)
  | t :: rest => turnStep t { s with agenda := rest }

/-- Time passes after a move. -/
def timed : Out → Out
  | .next s => .next s.tick
  | o => o

end Sys2Proof.Machine
end

