-- ==== Sys2Proof/Machine/Step.lean ====
section
/-! DEFINITION. One step of the machine, and placing an instruction where the next step fetches it. -/

namespace Sys2Proof.Machine

/-- One step: one agent moves, then time passes. -/
def step (s : State) : Host.Outcome State Fault Refusal := timed (moveStep s)

/-- The state in which the next step fetches the instruction given as in `tableBytes` at PC 0 of the core whose turn it is (log 5): its
control thread runs, nothing holds it between instructions, and the line at 0 is in its instruction cache. -/
def State.withFetchWord (s : State) (nbits w : Nat) : State :=
  let c := s.core
  { s with
    agenda := []
    core := { c with
      pc := 0, run := .running, qreq := none, asyncs := [], stalled := false, wait := .none
      fab := { c.fab with loads := c.fab.loads.filter (fun l => l.image.isNone) }
      icache := [{ proc := c.proc, line := 0, bytes := tableBytes nbits w ++ List.replicate 48 0 }] } }

end Sys2Proof.Machine
end

