-- ==== Sys2Proof/Safety.lean ====
section
/-! DEFINITION. What a good state and a safe step are, and the terms in which statements say what an instruction changes and what it
leaves alone: a register written, the thread going on, a frame. -/

namespace Sys2Proof.Machine

/-- DRAM is in canonical form: addresses rising, no byte listed that equals what an unlisted one reads as. -/
def State.memWf (s : State) : Bool := Memory.wf s.mem

/-- An outcome that goes on. -/
def Out.goesOn (o : Out) : Prop := ∃ t, o = .next t

/-- Register `d` took value `v` and E bit `e`, or nothing where it is g0 (R90); every other register stands. -/
structure State.Wrote (d : Reg) (v : Word) (e : Bool) (s t : State) : Prop where
  value : t.reg d = if d = 0 then 0 else v
  tag : t.tag d = if d = 0 then false else e
  others : ∀ r, r ≠ d → t.reg r = s.reg r ∧ t.tag r = s.tag r

/-- No register changed. -/
def State.SameRegs (s t : State) : Prop := ∀ r, t.reg r = s.reg r ∧ t.tag r = s.tag r

/-- Whether the hardware loop closes behind an instruction of `len` bytes whose next PC is `npc` (R168). -/
def State.LoopCloses (len npc : Word) (s : State) : Prop :=
  s.core.ta = false ∧ s.core.lcnt ≠ 0 ∧ s.core.pc = s.core.lend ∧ npc = s.core.pc + len

/-- The thread went on (R168): to `npc`, or to LSTART where the loop closes with a count left; LCNT fell where it closed; ICNT rose. -/
structure State.Advanced (len npc : Word) (s t : State) : Prop where
  goes : ¬ s.LoopCloses len npc → t.core.pc = npc ∧ t.core.lcnt = s.core.lcnt
  closes : s.LoopCloses len npc → t.core.lcnt = s.core.lcnt - 1 ∧ t.core.pc = if s.core.lcnt = 1 then npc else s.core.lstart
  counted : t.core.icnt = s.core.icnt + 1

/-- Two cores agree but for what completing an instruction writes: registers with their E bits, PC, LCNT, ICNT and the thread's wait. -/
def Core.SameButThread (c d : Core) : Prop :=
  d = { c with regs := d.regs, etag := d.etag, pc := d.pc, lcnt := d.lcnt, icnt := d.icnt, stalled := d.stalled, wait := d.wait,
               fatal := d.fatal }

/-- The frame of an instruction that stores nothing: outside the core nothing changed, in it only the thread's own registers, and every
byte of memory, of the buffers and of the cluster store reads as before. -/
structure State.Frame (s t : State) : Prop where
  rest : t = { s with core := t.core }
  core : Core.SameButThread s.core t.core
  memory : ∀ pa, t.peek pa = s.peek pa ∧ t.memByte pa = s.memByte pa

/-- The instruction completes: `d` takes `v` with E bit `e`, the thread goes on behind it, nothing else changes. -/
def WritesRegister (i : Instr) (d : Reg) (v : Word) (e : Bool) (s : State) : Prop :=
  ∃ t, exec i s = .next t ∧ s.Wrote d v e t ∧ s.Advanced (BitVec.ofNat 64 i.size) (s.core.pc + BitVec.ofNat 64 i.size) t ∧ s.Frame t

/-- The instruction completes without writing a register: the thread goes to `npc`, nothing else changes. -/
def GoesTo (i : Instr) (npc : Word) (s : State) : Prop :=
  ∃ t, exec i s = .next t ∧ s.SameRegs t ∧ s.Advanced (BitVec.ofNat 64 i.size) npc t ∧ s.Frame t

/-- The bank of the core grants the thread's access of `n` bytes at `a` in a buffer space: no request with precedence stands there (R99). -/
def State.BankGrants (sp : BitVec 3) (a n : Nat) (s : State) : Prop :=
  s.core.bankFree s.cluster s.cyc (s.core.bankAsk .thread s.core.pc.toNat sp a n s.cyc) = true

/-- The state with no request of the thread at a bank. -/
def State.noAsk (s : State) : State := { s with core := { s.core with bankReqs := s.core.bankReqs.filter (fun r => r.agent != .thread) } }

/-- The instruction waits at its bank: the thread stays where it is, its request stands, nothing else changes. -/
def WaitsAtBank (i : Instr) (s : State) : Prop :=
  ∃ t r, exec i s = .next t ∧ r.agent = .thread ∧ t.core.bankReqs = r :: s.noAsk.core.bankReqs ∧ t.core.stalled = true ∧
    t = { s with core := t.core } ∧
    t.core = { s.core with bankReqs := t.core.bankReqs, stalled := t.core.stalled, stallCyc := t.core.stallCyc }

/-- A synchronous trap is taken (R179): the frame is written, the thread goes to the handler, and nothing else changes. -/
structure State.Trapped (cause : Nat) (value : Word) (s t : State) : Prop where
  saved : t.core.tpc = s.core.pc ∧ t.core.tcause = BitVec.ofNat 64 cause ∧ t.core.tval = value
  status : t.core.tstat = if s.core.lcnt = 0 then 1 else 3
  handler : t.core.pc = s.core.tvec
  core : t.core = { s.core with tpc := t.core.tpc, tcause := t.core.tcause, tval := t.core.tval, tstat := t.core.tstat,
                                pc := t.core.pc, stalled := false, fatal := none }
  rest : t = { s with core := t.core }

/-- The instruction raises a trap: with TSTAT.TA = 0 and a handler, it is taken as R179 says. -/
def Traps (i : Instr) (cause : Nat) (value : Word) (s : State) : Prop :=
  s.core.ta = false → s.core.tvec ≠ 0 → ∃ t, exec i s = .next t ∧ s.Trapped cause value t

end Sys2Proof.Machine
end

