-- ==== Sys2Proof/Certificates/Slice0/Obligations.lean ====
section
/-! DEFINITION. The statements about the machine that the provers prove, written from the numbered rules of spec/. -/

namespace Sys2Proof.Machine

/-- 1 where the condition holds, else 0 (R150). -/
def boolWord (c : Bool) : Word := if c then 1 else 0

/-- The outcomes of the signed division and remainder (R150, R151): toward zero, the sign of the dividend, and the defined corners. -/
def quotientSigned (x y : Word) : Word := if y = 0 then BitVec.allOnes 64 else BitVec.ofInt 64 (x.toInt.tdiv y.toInt)
def remainderSigned (x y : Word) : Word := if y = 0 then x else BitVec.ofInt 64 (x.toInt.tmod y.toInt)
def quotientUnsigned (x y : Word) : Word := if y = 0 then BitVec.allOnes 64 else BitVec.ofNat 64 (x.toNat / y.toNat)
def remainderUnsigned (x y : Word) : Word := if y = 0 then x else BitVec.ofNat 64 (x.toNat % y.toNat)

/-- The forms of R150 that take two operands, by register and by literal word, with the result that R150 gives. -/
def integerForms : List ((Reg → Reg → Reg → Instr) × (Reg → Reg → W32 → Instr) × (Word → Word → Word)) :=
  [(.add, .addLit, fun x y => x + y), (.sub, .subLit, fun x y => x - y), (.mul, .mulLit, fun x y => x * y),
   (.mulh, .mulhLit, fun x y => BitVec.ofInt 64 (x.toInt * y.toInt / 2 ^ 64)),
   (.mulhn, .mulhnLit, fun x y => BitVec.ofNat 64 (x.toNat * y.toNat / 2 ^ 64)),
   (.div, .divLit, quotientSigned), (.divn, .divnLit, quotientUnsigned), (.rem, .remLit, remainderSigned), (.remn, .remnLit, remainderUnsigned),
   (.and, .andLit, fun x y => x &&& y), (.or, .orLit, fun x y => x ||| y), (.xor, .xorLit, fun x y => x ^^^ y),
   (.andn, .andnLit, fun x y => x &&& ~~~y), (.sll, .sllLit, fun x y => x <<< (y.toNat % 64)),
   (.srl, .srlLit, fun x y => x >>> (y.toNat % 64)), (.sra, .sraLit, fun x y => x.sshiftRight (y.toNat % 64)),
   (.slt, .sltLit, fun x y => boolWord (decide (x.toInt < y.toInt))), (.sltn, .sltnLit, fun x y => boolWord (decide (x.toNat < y.toNat)))]

/-- `n` is the number of leading zero bits of `x`. -/
def LeadingZeros (x : Word) (n : Nat) : Prop :=
  n ≤ 64 ∧ (∀ k, k < n → x.getLsbD (63 - k) = false) ∧ (n < 64 → x.getLsbD (63 - n) = true)

/-- The I forms of R152 with their results. -/
def immediateForms : List ((Reg → Reg → BitVec 16 → Instr) × (Word → BitVec 16 → Word)) :=
  [(.addi, fun x i => x + i.signExtend 64), (.andi, fun x i => x &&& i.zeroExtend 64), (.ori, fun x i => x ||| i.zeroExtend 64),
   (.xori, fun x i => x ^^^ i.zeroExtend 64), (.slti, fun x i => boolWord (decide (x.toInt < i.toInt)))]
def shiftForms : List ((Reg → Reg → BitVec 6 → Instr) × (Word → BitVec 6 → Word)) :=
  [(.slli, fun x i => x <<< i.toNat), (.srli, fun x i => x >>> i.toNat), (.srai, fun x i => x.sshiftRight i.toNat)]

/-- fp32 forms with a rounding mode and SAT, by register and by literal. -/
def fpRoundedForms : List ((Reg → Reg → Reg → BitVec 3 → Bool → Instr) × (Reg → Reg → W32 → BitVec 3 → Bool → Instr) ×
    (BitVec 3 → Bool → W32 → W32 → W32)) :=
  [(.fadd, .faddLit, fadd32), (.fsub, .fsubLit, fsub32), (.fmul, .fmulLit, fmul32), (.fdiv, .fdivLit, fdiv32)]

/-- The fp32 operand of a register, and an fp32 result in a register (R149). -/
def low32 (x : Word) : W32 := x.truncate 32
def fromLow32 (x : W32) : Word := x.zeroExtend 64

end Sys2Proof.Machine

open Sys2Proof Sys2Proof.Machine

/-- R150, R151 with R148, R121 and R168: every two-operand form writes the result that R150 gives it, the quotients and remainders with the
corners of R151; E is the OR of the operands' E bits, a literal being sign-extended and exact.
R150: CLZ and POPC. -/
def Obligations.IntegerForms : Prop :=
  (∀ p ∈ integerForms, ∀ (d a b : Reg) (lit : W32) (s : State),
      WritesRegister (p.1 d a b) d (p.2.2 (s.reg a) (s.reg b)) (s.tag a || s.tag b) s ∧
      WritesRegister (p.2.1 d a lit) d (p.2.2 (s.reg a) (lit.signExtend 64)) (s.tag a) s) ∧
  (∀ (d a : Reg) (s : State),
      (∃ n, LeadingZeros (s.reg a) n ∧ WritesRegister (.clz d a) d (BitVec.ofNat 64 n) (s.tag a) s) ∧
      WritesRegister (.popc d a) d (BitVec.ofNat 64 ((List.range 64).countP (fun k => (s.reg a).getLsbD k))) (s.tag a) s)

/-- R152: the I forms, and LUI's exact result. -/
def Obligations.ImmediateForms : Prop :=
  (∀ p ∈ immediateForms, ∀ (d a : Reg) (imm : BitVec 16) (s : State),
    WritesRegister (p.1 d a imm) d (p.2 (s.reg a) imm) (s.tag a) s) ∧
  (∀ p ∈ shiftForms, ∀ (d a : Reg) (sh : BitVec 6) (s : State),
    WritesRegister (p.1 d a sh) d (p.2 (s.reg a) sh) (s.tag a) s) ∧
  (∀ (d : Reg) (imm : BitVec 16) (s : State), WritesRegister (.lui d imm) d (BitVec.ofInt 64 (imm.toInt * 65536)) false s)

namespace Sys2Proof.Machine

/-- Whether an fp32 word is a NaN (R30). -/
def isNaNWord (x : W32) : Bool := decide (0x7F800000 < x.toNat % 2 ^ 31)

/-- The value of an fp32 word that is no NaN, in units of 2^-149 (R30); an infinity stands above every finite value. -/
def fixedOf (x : W32) : Int :=
  let e := x.toNat / 2 ^ 23 % 256
  let m := x.toNat % 2 ^ 23
  let v : Nat := if e = 0 then m else (2 ^ 23 + m) * 2 ^ (e - 1)
  if x.toNat < 2 ^ 31 then v else -v

/-- The conditions of R65 on fp32 words. -/
def compareHolds (cond : BitVec 3) (x y : W32) : Bool :=
  let un := isNaNWord x || isNaNWord y
  let eq := !un && decide (fixedOf x = fixedOf y)
  let lt := !un && decide (fixedOf x < fixedOf y)
  let gt := !un && decide (fixedOf y < fixedOf x)
  match cond.toNat with
  | 0 => eq | 1 => !eq | 2 => lt | 3 => lt || eq | 4 => gt | 5 => gt || eq | 6 => un | _ => !un

/-- The smaller and the larger of two fp32 words (R63): a NaN gives the canonical NaN, -0 ranks below +0. -/
def smallerOf (x y : W32) : W32 :=
  if isNaNWord x || isNaNWord y then 0x7FC00000 else if fixedOf x < fixedOf y then x else if fixedOf y < fixedOf x then y else x ||| y
def largerOf (x y : W32) : W32 :=
  if isNaNWord x || isNaNWord y then 0x7FC00000 else if fixedOf x < fixedOf y then y else if fixedOf y < fixedOf x then x else x &&& y

/-- The test of ACCEPT (R305) on a value of 32 or 16 bits, a bound and a tolerance. -/
def acceptTest (half : Bool) (v : Word) (bound tol : W32) : Bool :=
  (if half then decide (v.toNat % 2 ^ 15 < 0x7C00) else decide (v.toNat % 2 ^ 31 < 0x7F800000)) && !isNaNWord bound &&
  decide (bound.toNat % 2 ^ 31 ≤ tol.toNat % 2 ^ 31)

/-- The branches of R165 with their conditions. -/
def branchForms : List ((Reg → Reg → BitVec 13 → Instr) × (Word → Word → Bool)) :=
  [(.beq, fun x y => decide (x = y)), (.bne, fun x y => decide (x ≠ y)), (.blt, fun x y => decide (x.toInt < y.toInt)),
   (.bge, fun x y => decide (y.toInt ≤ x.toInt)), (.bltn, fun x y => decide (x.toNat < y.toNat)), (.bgen, fun x y => decide (y.toNat ≤ x.toNat))]

/-- The core registers of R92 that a task may write with CRWR (INJ and PTRG apart), the bits that a write keeps (R3, R169, R177, R178),
and the field of State that holds each. -/
def writableRegisters : List (BitVec 10 × Word × (Word → Core → Core)) :=
  [(0x010, ~~~3, fun x c => { c with tvec := x }), (0x011, 0x1FF, fun x c => { c with tcause := x }),
   (0x012, ~~~3, fun x c => { c with tpc := x }), (0x013, BitVec.allOnes 64, fun x c => { c with tval := x }),
   (0x014, 3, fun x c => { c with tstat := x }), (0x020, 0xFFFFFFFF, fun x c => { c with lcnt := x }),
   (0x021, ~~~3, fun x c => { c with lstart := x }), (0x022, ~~~3, fun x c => { c with lend := x })]

/-- What the core registers of R92 read as, from the fields of State. -/
def registerContents : List (BitVec 10 × (State → Word)) :=
  [(0x000, fun s => BitVec.ofNat 64 (65536 * Config.packageNumber.toNat + s.core.id % 4096)), (0x001, fun s => s.core.tid),
   (0x002, fun s => BitVec.ofNat 64 s.cyc), (0x003, fun s => s.core.icnt), (0x010, fun s => s.core.tvec), (0x011, fun s => s.core.tcause),
   (0x012, fun s => s.core.tpc), (0x013, fun s => s.core.tval), (0x014, fun s => s.core.tstat), (0x020, fun s => s.core.lcnt),
   (0x021, fun s => s.core.lstart), (0x022, fun s => s.core.lend), (0x031, fun s => s.core.ptrg),
   (0x030, fun s => BitVec.ofNat 64 (s.core.fab.epoch.toNat * 2 ^ 32 + (s.core.fab.plane 3).state.code * 2 ^ 24 +
     (s.core.fab.plane 2).state.code * 2 ^ 20 + (s.core.fab.plane 1).state.code * 2 ^ 16 + (s.core.fab.plane 0).state.code * 2 ^ 12 +
     s.core.fab.act % 4)),
   (0x038, fun s => (Map.get {} s.core.chans 0).wp), (0x039, fun s => (Map.get {} s.core.chans 1).wp),
   (0x03A, fun s => (Map.get {} s.core.chans 2).wp), (0x03B, fun s => (Map.get {} s.core.chans 3).wp),
   (0x040, fun s => s.core.efnc.truncate 64), (0x041, fun s => (s.core.efnc >>> 64).truncate 64), (0x048, fun s => s.core.qst),
   (0x050, fun s => s.core.inj), (0x060, fun s => s.core.clsb), (0x061, fun s => s.core.clsz)]

/-- The core registers that a task may not write: the read-only ones and the system's (R91, R92). -/
def protectedRegisters : List (BitVec 10) :=
  [0x000, 0x001, 0x002, 0x003, 0x030, 0x038, 0x039, 0x03A, 0x03B, 0x040, 0x041, 0x048, 0x060, 0x061]

/-- The instruction first changes the core by `f` and then completes in `len` bytes towards `npc`, changing nothing else. -/
def Changes (i : Instr) (f : Core → Core) (len npc : Word) (s : State) : Prop :=
  ∃ t, exec i s = .next t ∧ s.SameRegs t ∧ ({ s with core := f s.core } : State).Advanced len npc t ∧
    ({ s with core := f s.core } : State).Frame t

end Sys2Proof.Machine

/-- R63, R65, R154: FCMP compares the values that the words stand for, and FMIN and FMAX order them, by register and by literal. -/
def Obligations.FloatCompare : Prop :=
  ∀ (d a b : Reg) (lit : W32) (cond : BitVec 3) (s : State),
    WritesRegister (.fcmp d a b cond) d (boolWord (compareHolds cond (low32 (s.reg a)) (low32 (s.reg b)))) (s.tag a || s.tag b) s ∧
    WritesRegister (.fcmpLit d a lit cond) d (boolWord (compareHolds cond (low32 (s.reg a)) lit)) (s.tag a) s ∧
    WritesRegister (.fmin d a b) d (fromLow32 (smallerOf (low32 (s.reg a)) (low32 (s.reg b)))) (s.tag a || s.tag b) s ∧
    WritesRegister (.fmax d a b) d (fromLow32 (largerOf (low32 (s.reg a)) (low32 (s.reg b)))) (s.tag a || s.tag b) s ∧
    WritesRegister (.fminLit d a lit) d (fromLow32 (smallerOf (low32 (s.reg a)) lit)) (s.tag a) s ∧
    WritesRegister (.fmaxLit d a lit) d (fromLow32 (largerOf (low32 (s.reg a)) lit)) (s.tag a) s

namespace Sys2Proof.Machine

/-- An fp32 operation on two values with a mode and SAT, and the word that Round of R38 gives, worked out by hand from R30, R37, R38 and R62:
ties, the directed modes, overflow with and without SAT, subnormal results, exact zeros. -/
abbrev RoundedCase := BitVec 3 × Bool × W32 × W32 × W32

/-- Sums: 1 + 2^-24 and 1 + 2^-23 + 2^-24 lie half way between two words; 1 - 1 is a zero; the largest number and its neighbour's distance. -/
def sumCases : List RoundedCase :=
  [(0, false, 0x3F800000, 0x33800000, 0x3F800000), (1, false, 0x3F800000, 0x33800000, 0x3F800000), (2, false, 0x3F800000, 0x33800000, 0x3F800000),
   (3, false, 0x3F800000, 0x33800000, 0x3F800001), (4, false, 0x3F800000, 0x33800000, 0x3F800001), (0, false, 0x3F800001, 0x33800000, 0x3F800002),
   (1, false, 0x3F800001, 0x33800000, 0x3F800001), (0, false, 0x3F800000, 0xBF800000, 0), (2, false, 0x3F800000, 0xBF800000, 0x80000000),
   (3, false, 0xBF800000, 0x3F800000, 0), (1, false, 0x7F7FFFFF, 0x7F7FFFFF, 0x7F800000), (1, true, 0x7F7FFFFF, 0x7F7FFFFF, 0x7F7FFFFF),
   (2, true, 0xFF7FFFFF, 0xFF7FFFFF, 0xFF7FFFFF), (0, true, 0x7F800000, 0x3F800000, 0x7F800000), (0, false, 0x7F800000, 0xFF800000, 0x7FC00000),
   (0, false, 0x00000001, 0x00000001, 0x00000002)]

/-- Differences: 1 - 2^-25 lies half way below 1. -/
def differenceCases : List RoundedCase :=
  [(0, false, 0x3F800000, 0x33000000, 0x3F800000), (1, false, 0x3F800000, 0x33000000, 0x3F7FFFFF), (3, false, 0x3F800000, 0x33000000, 0x3F800000),
   (0, false, 0x3F800000, 0x3F800000, 0), (2, false, 0x3F800000, 0x3F800000, 0x80000000), (0, false, 0x7F800000, 0x7F800000, 0x7FC00000)]

/-- Products: (1 + 2^-23)^2 = 1 + 2^-22 + 2^-46; half of the smallest subnormal. -/
def productCases : List RoundedCase :=
  [(0, false, 0x3F800001, 0x3F800001, 0x3F800002), (3, false, 0x3F800001, 0x3F800001, 0x3F800003), (2, false, 0xBF800001, 0x3F800001, 0xBF800003),
   (0, false, 0x00000001, 0x3F000000, 0), (3, false, 0x00000001, 0x3F000000, 1), (4, false, 0x00000001, 0x3F000000, 1),
   (1, false, 0x7F7FFFFF, 0x40000000, 0x7F800000), (1, true, 0x7F7FFFFF, 0x40000000, 0x7F7FFFFF), (0, false, 0, 0x7F800000, 0x7FC00000)]

/-- Quotients: 1/3 and -1/3; division by zero. -/
def quotientCases : List RoundedCase :=
  [(0, false, 0x3F800000, 0x40400000, 0x3EAAAAAB), (1, false, 0x3F800000, 0x40400000, 0x3EAAAAAA), (3, false, 0x3F800000, 0x40400000, 0x3EAAAAAB),
   (2, false, 0xBF800000, 0x40400000, 0xBEAAAAAB), (1, false, 0xBF800000, 0x40400000, 0xBEAAAAAA), (0, true, 0x3F800000, 0x80000000, 0xFF800000),
   (0, false, 0, 0x80000000, 0x7FC00000), (0, false, 0x7F800000, 0x7F800000, 0x7FC00000)]

/-- The arithmetic forms with their cases. -/
def roundedForms : List ((Reg → Reg → Reg → BitVec 3 → Bool → Instr) × (Reg → Reg → W32 → BitVec 3 → Bool → Instr) × List RoundedCase) :=
  [(.fadd, .faddLit, sumCases), (.fsub, .fsubLit, differenceCases), (.fmul, .fmulLit, productCases), (.fdiv, .fdivLit, quotientCases)]

/-- Square roots: of 2, of -0 and of -1. -/
def rootCases : List (BitVec 3 × W32 × W32) :=
  [(0, 0x40000000, 0x3FB504F3), (1, 0x40000000, 0x3FB504F3), (3, 0x40000000, 0x3FB504F4), (0, 0x80000000, 0x80000000), (0, 0xBF800000, 0x7FC00000)]

/-- FMA rounds once: (1 + 2^-23)^2 - 1 = 2^-22 + 2^-46, half way to the next word. -/
def fusedCases : List (BitVec 3 × W32) := [(0, 0x34800000), (1, 0x34800000), (3, 0x34800001), (4, 0x34800001)]

end Sys2Proof.Machine

/-- R149, R153: the fp32 arithmetic forms read bits 31:0, write a zero-extended result with the OR of the E bits, and complete in every legal
rounding mode; FMA reads g[d] as its addend. The values are the model's functions for R38, R42 and R62; some of them are fixed by words that were
worked out by hand from those rules.
R62, R40: an operand that is a NaN gives the canonical NaN in every arithmetic form, by register, by literal and as FMA's addend, whatever the
mode and SAT. -/
def Obligations.FloatForms : Prop :=
  ((∀ p ∈ fpRoundedForms, ∀ (d a b : Reg) (lit : W32) (rm : BitVec 3) (sat : Bool) (s : State), rm.toNat ≤ 4 →
      WritesRegister (p.1 d a b rm sat) d (fromLow32 (p.2.2 rm sat (low32 (s.reg a)) (low32 (s.reg b)))) (s.tag a || s.tag b) s ∧
      WritesRegister (p.2.1 d a lit rm sat) d (fromLow32 (p.2.2 rm sat (low32 (s.reg a)) lit)) (s.tag a) s) ∧
    (∀ (d a b : Reg) (lit : W32) (rm : BitVec 3) (sat : Bool) (s : State), rm.toNat ≤ 4 →
      WritesRegister (.fsqrt d a rm sat) d (fromLow32 (fsqrt32 rm sat (low32 (s.reg a)))) (s.tag a) s ∧
      WritesRegister (.fma d a b rm sat) d (fromLow32 (fma32 rm sat (low32 (s.reg a)) (low32 (s.reg b)) (low32 (s.reg d))))
        (s.tag a || s.tag b || s.tag d) s ∧
      WritesRegister (.fmaLit d a lit rm sat) d (fromLow32 (fma32 rm sat (low32 (s.reg a)) lit (low32 (s.reg d)))) (s.tag a || s.tag d) s)) ∧
  (∀ (d a b : Reg) (rm : BitVec 3) (sat : Bool) (s t : State), d ≠ 0 → rm.toNat ≤ 4 → isNaNWord (low32 (s.reg a)) →
      (exec (.fadd d a b rm sat) s = .next t ∨ exec (.fsub d a b rm sat) s = .next t ∨ exec (.fmul d a b rm sat) s = .next t ∨
       exec (.fdiv d a b rm sat) s = .next t ∨ exec (.fma d a b rm sat) s = .next t ∨ exec (.fsqrt d a rm sat) s = .next t ∨
       exec (.fadd d b a rm sat) s = .next t ∨ exec (.fsub d b a rm sat) s = .next t ∨ exec (.fmul d b a rm sat) s = .next t ∨
       exec (.fdiv d b a rm sat) s = .next t ∨ exec (.fma d b a rm sat) s = .next t) →
      t.reg d = 0x7FC00000) ∧
  (∀ (d a b : Reg) (lit : W32) (rm : BitVec 3) (sat : Bool) (s t : State), d ≠ 0 → rm.toNat ≤ 4 →
      (isNaNWord (low32 (s.reg a)) || isNaNWord lit) = true ∧
        (exec (.faddLit d a lit rm sat) s = .next t ∨ exec (.fsubLit d a lit rm sat) s = .next t ∨ exec (.fmulLit d a lit rm sat) s = .next t ∨
         exec (.fdivLit d a lit rm sat) s = .next t ∨ exec (.fmaLit d a lit rm sat) s = .next t) ∨
      isNaNWord (low32 (s.reg d)) = true ∧ (exec (.fma d a b rm sat) s = .next t ∨ exec (.fmaLit d a lit rm sat) s = .next t) →
      t.reg d = 0x7FC00000) ∧
  (∀ f ∈ roundedForms, ∀ k ∈ f.2.2, ∀ (d a b : Reg) (s : State), low32 (s.reg a) = k.2.2.1 →
      (low32 (s.reg b) = k.2.2.2.1 → WritesRegister (f.1 d a b k.1 k.2.1) d (fromLow32 k.2.2.2.2) (s.tag a || s.tag b) s) ∧
      WritesRegister (f.2.1 d a k.2.2.2.1 k.1 k.2.1) d (fromLow32 k.2.2.2.2) (s.tag a) s) ∧
  (∀ k ∈ rootCases, ∀ (d a : Reg) (s : State), low32 (s.reg a) = k.2.1 → WritesRegister (.fsqrt d a k.1 false) d (fromLow32 k.2.2) (s.tag a) s) ∧
  (∀ k ∈ fusedCases, ∀ (d a : Reg) (s : State), low32 (s.reg a) = 0x3F800001 → low32 (s.reg d) = 0xBF800000 →
      WritesRegister (.fma d a a k.1 false) d (fromLow32 k.2) (s.tag a || s.tag d) s ∧
      WritesRegister (.fmaLit d a 0x3F800001 k.1 false) d (fromLow32 k.2) (s.tag a || s.tag d) s)

/-- R155: FCVT completes for every legal code, mode and SAT with the model's conversion of R67; a 32-bit integer widens exactly.
R305: ACCEPT writes the value's own bits, exact, where the test holds, and raises BOUND with the bound in TVAL[63:32] where it fails. -/
def Obligations.ConversionsAndAccept : Prop :=
  (∀ (d a : Reg) (dst src : BitVec 4) (rm : BitVec 3) (sat : Bool) (s : State), (Instr.fcvt d a dst rm sat src).wellFormed = true →
    WritesRegister (.fcvt d a dst rm sat src) d (fcvtResult dst src rm sat (s.reg a)) (s.tag a) s ∧
    (src = 8 → dst = 9 → fcvtResult dst src rm sat (s.reg a) = (low32 (s.reg a)).signExtend 64) ∧
    (src = 0xC → (dst = 9 ∨ dst = 0xD) → fcvtResult dst src rm sat (s.reg a) = (low32 (s.reg a)).zeroExtend 64)) ∧
  (∀ (d a b : Reg) (half : Bool) (tol : W32) (s : State), (Instr.accept d a b half tol).wellFormed = true →
    (acceptTest half (s.reg a) (low32 (s.reg b)) tol = true →
      WritesRegister (.accept d a b half tol) d (if half then (s.reg a).truncate 16 |>.zeroExtend 64 else fromLow32 (low32 (s.reg a))) false s) ∧
    (acceptTest half (s.reg a) (low32 (s.reg b)) tol = false →
      Traps (.accept d a b half tol) 6 (fromLow32 (low32 (s.reg b)) <<< 32) s))

/-- R165: on exact registers a branch goes to PC + 4 × sext(off13) where its condition holds, else on; it writes nothing.
R166: J, JAL and JALR; g31 and g[d] take PC + 4, exact; JALR reads g[a] before it writes; a target that is not a multiple of 4
traps ALIGN with the target. -/
def Obligations.BranchesAndJumps : Prop :=
  (∀ p ∈ branchForms, ∀ (a b : Reg) (off : BitVec 13) (s : State), s.tag a = false → s.tag b = false →
      GoesTo (p.1 a b off) (if p.2 (s.reg a) (s.reg b) then s.core.pc + BitVec.ofInt 64 (4 * off.toInt) else s.core.pc + 4) s) ∧
  (∀ (off : BitVec 26) (d a : Reg) (imm : BitVec 16) (s : State),
      GoesTo (.j off) (s.core.pc + BitVec.ofInt 64 (4 * off.toInt)) s ∧
      (∃ t, exec (.jal off) s = .next t ∧ s.Wrote 31 (s.core.pc + 4) false t ∧ s.Advanced 4 (s.core.pc + BitVec.ofInt 64 (4 * off.toInt)) t ∧
        s.Frame t) ∧
      (s.tag a = false → (s.reg a + imm.signExtend 64).toNat % 4 = 0 →
        ∃ t, exec (.jalr d a imm) s = .next t ∧ s.Wrote d (s.core.pc + 4) false t ∧ s.Advanced 4 (s.reg a + imm.signExtend 64) t ∧ s.Frame t) ∧
      (s.tag a = false → (s.reg a + imm.signExtend 64).toNat % 4 ≠ 0 → Traps (.jalr d a imm) 3 (s.reg a + imm.signExtend 64) s))

/-- R167: LOOP sets the three loop registers; with a count of zero the thread goes behind the instruction at LEND, whose first word it
has fetched (behind the whole pair where that is a CPYM: the model's choice, log 88).
R168: an instruction at LEND that goes on to the next one closes the loop: with a count above 1 the thread returns to LSTART with the
count one lower, with a count of 1 it goes on with a count of 0; under TA = 1 the loop stays as it is. -/
def Obligations.HardwareLoop : Prop :=
  (∀ (a : Reg) (off : BitVec 13) (w : Nat) (s : State), 0 < off.toInt → s.tag a = false →
    ((s.reg a).toNat % 2 ^ 32 ≠ 0 →
      Changes (.loop a off) (fun c => { c with lstart := c.pc + 4, lend := c.pc + BitVec.ofInt 64 (4 * off.toInt), lcnt := fromLow32 (low32 (s.reg a)) }) 4 (s.core.pc + 4) s) ∧
    ((s.reg a).toNat % 2 ^ 32 = 0 → s.core.iword (s.core.pc + BitVec.ofInt 64 (4 * off.toInt)) = some w →
      Changes (.loop a off) (fun c => { c with lstart := c.pc + 4, lend := c.pc + BitVec.ofInt 64 (4 * off.toInt), lcnt := 0 }) 4
        (s.core.pc + BitVec.ofInt 64 (4 * off.toInt) + BitVec.ofNat 64 (4 * wordsNeeded w)) s)) ∧
  (∀ (d a b : Reg) (s t : State), exec (.add d a b) s = .next t → s.core.pc = s.core.lend →
    (s.core.ta = false → s.core.lcnt ≠ 0 → t.core.lcnt = s.core.lcnt - 1 ∧
      (s.core.lcnt ≠ 1 → t.core.pc = s.core.lstart) ∧ (s.core.lcnt = 1 → t.core.pc = s.core.pc + 4)) ∧
    (s.core.ta = true ∨ s.core.lcnt = 0 → t.core.lcnt = s.core.lcnt ∧ t.core.pc = s.core.pc + 4))

/-- R91, R92, R93, R169: CRRD reads each core register, exact; a number absent from the table raises ILLEGAL.
R91, R92, R169: CRWR writes each register a task may write, its reserved bits dropped; one that a task may not write raises PRIV with
the number; an absent number raises ILLEGAL.
R94, R186, R214: CRWR to INJ keeps COUNT, and KIND 1 only with a count; CRWR to PTRG drops bits 31:8, restarts the count of tokens, and with
ARM = 1 waits while a plane switches and is refused with CFG where the target plane is not READY. That a write of a loop register takes effect
before the writing instruction's own close is log 10, that any write of PTRG restarts the count of tokens is log 73 (both the model's reading). -/
def Obligations.CoreRegisters : Prop :=
  ((∀ (d : Reg) (n : BitVec 10) (s : State),
      (∀ p ∈ registerContents, p.1 = n → WritesRegister (.crrd d n) d (p.2 s) false s) ∧
      ((∀ p ∈ registerContents, p.1 ≠ n) → Traps (.crrd d n) 1 (BitVec.ofNat 64 (0x1C000000 + d.toNat * 2 ^ 21 + n.toNat)) s)) ∧
    (∀ (a : Reg) (n : BitVec 10) (s : State), s.tag a = false →
      (∀ p ∈ writableRegisters, p.1 = n → Changes (.crwr a n) (p.2.2 (s.reg a &&& p.2.1)) 4 (s.core.pc + 4) s) ∧
      (n ∈ protectedRegisters → Traps (.crwr a n) 2 (BitVec.ofNat 64 n.toNat) s) ∧
      ((∀ p ∈ registerContents, p.1 ≠ n) → Traps (.crwr a n) 1 (BitVec.ofNat 64 (0x20000000 + a.toNat * 2 ^ 16 + n.toNat)) s))) ∧
  (∀ (a : Reg) (s : State), s.tag a = false →
      Changes (.crwrInj a) (fun c => { c with inj := (s.reg a &&& 0xFFFF0000) +
        (if (s.reg a).toNat % 16 = 1 ∧ (s.reg a).toNat / 65536 % 65536 ≠ 0 then 1 else 0) }) 4 (s.core.pc + 4) s ∧
      (((s.reg a).getLsbD 0 = false ∨ (s.core.fab.switch = none ∧ (s.core.fab.plane ((s.reg a).toNat / 2 % 4)).state = .ready)) →
        Changes (.crwrPtrg a) (fun c => { c with ptrg := s.reg a &&& 0xFFFFFFFF000000FF, fab := { c.fab with trigCount := 0 } }) 4
          (s.core.pc + 4) s) ∧
      ((s.reg a).getLsbD 0 = true → s.core.fab.switch = none → (s.core.fab.plane ((s.reg a).toNat / 2 % 4)).state ≠ .ready →
        Traps (.crwrPtrg a) 11 (BitVec.ofNat 64 ((s.reg a).toNat / 2 % 4 * 65536 + 0x2000)) s) ∧
      ((s.reg a).getLsbD 0 = true → s.core.fab.switch ≠ none → ∃ t, exec (.crwrPtrg a) s = .next t ∧ t.core.pc = s.core.pc ∧ t.core.stalled = true ∧
        t.core.ptrg = s.core.ptrg ∧ t.core.fab = s.core.fab ∧ s.SameRegs t))

namespace Sys2Proof.Machine

/-- The exact-only registers that hasp flags name (R185). -/
def haspFlagRegs (f : HaspFlags) : List Reg := if f.acq || f.rel then [f.hr] else []

/-- The exact-only registers of an instruction in the order in which it checks them (R122, R148, R156, R160, R198, R203, R208, R281, R295,
R299, R345, R362). -/
def exactOnly (i : Instr) : List Reg :=
  match i with
  | .beq a b _ => [a, b] | .bne a b _ => [a, b] | .blt a b _ => [a, b] | .bge a b _ => [a, b] | .bltn a b _ => [a, b] | .bgen a b _ => [a, b]
  | .loop a _ => [a] | .jalr _ a _ => [a] | .crwr a _ => [a] | .crwrInj a => [a] | .crwrPtrg a => [a] | .spawn _ a b => [a, b]
  | .trap _ => [1, 2, 3, 4, 5, 6]
  | .ldB _ a _ _ => [a] | .ldBn _ a _ _ => [a] | .ldH _ a _ _ => [a] | .ldHn _ a _ _ => [a] | .ldW _ a _ _ => [a] | .ldWn _ a _ _ => [a]
  | .ldD _ a _ _ => [a] | .ldEh _ a _ _ => [a] | .ldEw _ a _ _ => [a]
  | .sb v a sp _ => if bufferSpace sp then [a] else [a, v] | .sh v a sp _ => if bufferSpace sp then [a] else [a, v]
  | .sw v a sp _ => if bufferSpace sp then [a] else [a, v] | .sd v a sp _ => if bufferSpace sp then [a] else [a, v]
  | .atomAdd _ a b _ _ => [a, b] | .atomAnd _ a b _ _ => [a, b] | .atomOr _ a b _ _ => [a, b] | .atomXor _ a b _ _ => [a, b]
  | .atomMin _ a b _ _ => [a, b] | .atomMax _ a b _ _ => [a, b] | .atomMinn _ a b _ _ => [a, b] | .atomMaxn _ a b _ _ => [a, b]
  | .atomSwap _ a b _ _ => [a, b] | .atomCas d a b _ _ => [a, b, d]
  | .lmarkEmpty a b _ => [a, b] | .lmarkFull a b _ => [a, b] | .lmarkEst a b _ => [a, b] | .lmarkExact a b _ => [a, b] | .lwait a _ => [a]
  | .srd _ _ r f => r :: haspFlagRegs f | .swr _ _ r f => r :: haspFlagRegs f | .sind _ _ r f => r :: haspFlagRegs f
  | .srdLit _ _ _ f => haspFlagRegs f | .swrLit _ _ _ f => haspFlagRegs f | .sindLit _ _ _ f => haspFlagRegs f
  | .cpy c => [c.gd, c.gs, c.len] ++ haspFlagRegs c.fl
  | .cpym c m => [c.gd, c.gs, c.len] ++ haspFlagRegs c.fl ++ [m.gd, m.a, m.opnd] ++ haspFlagRegs m.fl
  | .wpwait _ a => [a] | .cfg _ a => [a] | .cfgs _ b a => [a, b] | .ptrig _ _ a => [a]
  | .hinit h _ b => [h, b] | .key a h => [a, h] | .hacq h => [h] | .hrel h => [h] | .harr h => [h] | .hwait h => [h] | .hsig h b => [h, b]
  | .join h => [h] | .leave h => [h]
  | .mldw _ slot a shape _ f => [slot, a, shape] ++ haspFlagRegs f | .mmul m => [m.gd, m.a, m.opnd] ++ haspFlagRegs m.fl
  | .xprog arr b f => [arr, b] ++ haspFlagRegs f | .xfire arr b c f => [arr, b, c] ++ haspFlagRegs f | .xcal arr => [arr] | .xstat _ arr => [arr]
  | .fnew a b => [a, b] | .ffree a => [a] | .fclr a => [a] | .fprobe _ a b => [a, b] | .fstat _ a => [a] | .fmerge a b d _ => [a, b, d]
  | .fmrgf a b => [a, b] | .pdiscard a b => [a, b] | .phintTlb a b => [a, b] | .phintFill a b => [a, b] | .phintCold a b => [a, b]
  | .phintNear a b => [a, b]
  | _ => []

/-- Whether the values that an instruction reads are legal where a rule makes a value ILLEGAL: the core register's number (R91), MLDW's
shape (R263), MMUL's operand word (R264), an array's number (R299). -/
def valuesLegal (i : Instr) (s : State) : Bool :=
  match i with
  | .crwr _ n => registerContents.any (fun p => p.1 == n)
  | .mldw _ _ _ shape _ _ =>
    decide ((s.reg shape).toNat < 65536) && [32, 64, 96, 128].contains ((s.reg shape).toNat % 256) &&
      [32, 64, 96, 128].contains ((s.reg shape).toNat / 256)
  | .mmul m => decide ((s.reg m.opnd).toNat / 64 % 4 = 0) && decide ((s.reg m.opnd).toNat < 2 ^ 25)
  | .cpym _ m => decide ((s.reg m.opnd).toNat / 64 % 4 = 0) && decide ((s.reg m.opnd).toNat < 2 ^ 25)
  | .xprog arr _ _ => decide ((s.reg arr).toNat < 8192)
  | .xfire arr _ _ _ => decide ((s.reg arr).toNat < 8192)
  | .xcal arr => decide ((s.reg arr).toNat < 8192)
  | .xstat _ arr => decide ((s.reg arr).toNat < 8192)
  | _ => true

/-- Every byte that the thread stored and that is still only in its data cache, in a line that `sel` selects and whose stack it reaches, stands in
DRAM in `t`. -/
def LinesWritten (sel : DLine → Bool) (s t : State) : Prop :=
  ∀ l ∈ s.core.dcache, sel l = true → s.lineGone l = false → ∀ k, k < 64 → l.dirty.getLsbD k = true →
    t.memByte (64 * l.line + k) = l.bytes.getD k 0
def DirtyWritten (s t : State) : Prop := LinesWritten (fun _ => true) s t

/-- The data cache's form: one entry for a line, 64 bytes in each. -/
def Core.CacheWf (c : Core) : Prop := (c.dcache.map DLine.line).Nodup ∧ ∀ l ∈ c.dcache, l.bytes.length = 64

end Sys2Proof.Machine

/-- R137, R179, R182: a word that is no instruction raises ILLEGAL with the word and its literal in TVAL. With TA = 0 and a handler the
trap is taken; with TVEC = 0 the frame is written and the task stops; with TA = 1 the task stops and the trap registers stand.
R176: with TA = 1, ERET goes to TPC and clears TA, keeping SLA and everything else; with TA = 0 it raises ILLEGAL. -/
def Obligations.TrapEntryAndReturn : Prop :=
  (∀ (w lit : W32) (s : State),
      Traps (.illegalInstruction w lit) 1 (fromLow32 w + fromLow32 lit <<< 32) s ∧
      (s.core.ta = false → s.core.tvec = 0 → ∃ t, exec (.illegalInstruction w lit) s = .next t ∧ t.core.run = .stopped 1 false ∧
        t.core.tpc = s.core.pc ∧ t.core.tcause = 1 ∧ t.core.tval = fromLow32 w + fromLow32 lit <<< 32 ∧ t.core.pc = s.core.pc ∧ s.SameRegs t ∧
        t.mem = s.mem) ∧
      (s.core.ta = true → ∃ t, exec (.illegalInstruction w lit) s = .next t ∧ t.core.run = .stopped 1 true ∧ t.core.pc = s.core.pc ∧
        t.core.tpc = s.core.tpc ∧ t.core.tcause = s.core.tcause ∧ t.core.tval = s.core.tval ∧ t.core.tstat = s.core.tstat ∧ s.SameRegs t ∧
        t.mem = s.mem)) ∧
  (∀ (s : State),
      (s.core.tstat.getLsbD 0 = true → ∃ t, exec .eret s = .next t ∧ t.core.pc = s.core.tpc ∧
        t.core.tstat = (if s.core.tstat.getLsbD 1 then 2 else 0) ∧ t = { s with core := t.core } ∧
        t.core = { s.core with pc := t.core.pc, tstat := t.core.tstat, icnt := s.core.icnt + 1, stalled := false }) ∧
      Traps .eret 1 (BitVec.ofNat 64 ((encode .eret).headD 0)) s)

/-- R182, R164, R177: with TA = 0 the first asynchronous trap held is taken, the thread to resume at PC; a wait for a hasp that no wake
has reached is withdrawn first; with TA = 1, or while the instruction under way keeps the thread from its boundary (R287, R356), it stays
held. -/
def Obligations.AsyncTrapTaken : Prop :=
  ∀ (a : AsyncTrap) (rest : List AsyncTrap) (s : State), s.core.asyncs = a :: rest →
    (s.core.ta = true ∨ s.boundaryWaits = true → exec .asyncTrap s = .next s) ∧
    (s.core.ta = false → s.boundaryWaits = false → s.core.tvec ≠ 0 → (∀ hid, s.core.wait = .hasp hid → (s.taskAt s.taskNum).wake ≠ some hid) →
      ∃ t, exec .asyncTrap s = .next t ∧ t.core.asyncs = rest ∧ t.core.tcause = BitVec.ofNat 64 (256 + a.cause) ∧ t.core.tval = a.value ∧
        t.core.tpc = s.core.pc ∧ t.core.pc = s.core.tvec ∧ t.core.tstat = (if s.core.lcnt = 0 then 1 else 3) ∧ s.SameRegs t ∧
        t.core.lcnt = s.core.lcnt ∧
        (∀ hid, s.core.wait = .hasp hid → ∀ r ∈ (t.dieAt (hidStack hid)).regs, r.hid = hid → r.task ≠ s.taskNum))

/-- R122, R181: a field value that a rule makes illegal raises ILLEGAL before anything else, with the instruction's words in TVAL.
R122, R148, R180, R181: the first estimate among an instruction's exact-only registers raises TYPE with bit 5 and the register in TVAL,
before PRIV, ALIGN and PROT. Where several of them are estimates R180 names none: that TVAL names the first in the order of `exactOnly` is the
model's choice (log 118), and so is that TVAL of a CPYM whose MMUL half is ill-formed holds the CPYM's word and literal (log 88). -/
def Obligations.RefusedForms : Prop :=
  (∀ (i : Instr) (s : State), i.encoded = true → i.wellFormed = false →
      Traps i 1 (BitVec.ofNat 64 ((encode i).headD 0 + 2 ^ 32 * (encode i).getD 1 0)) s) ∧
  (∀ (i : Instr) (r : Reg) (s : State), i.encoded = true → i.wellFormed = true → valuesLegal i s = true →
      (exactOnly i).find? (fun q => s.tag q) = some r → Traps i 5 (BitVec.ofNat 64 (32 + r.toNat)) s)

/-- R171: BRK completes, closing the loop where it closes, and raises BRK with the code in TVAL and the next PC in TPC; with a debugger
attached it asks for a precise stop instead.
R170: a code that Hythen does not serve returns all ones in g1; a served code sends g1 to g6 once and waits; a reply to the same request
is written to g1, exact, and the thread goes on. -/
def Obligations.SoftwareTraps : Prop :=
  (∀ (code : BitVec 16) (s : State),
    (s.core.ta = false → s.core.tvec ≠ 0 → (s.taskAt s.taskNum).debug = false →
      ∃ t u, s.Advanced 4 (s.core.pc + 4) u ∧ s.Frame u ∧ exec (.brk code) s = .next t ∧ u.Trapped 14 (BitVec.ofNat 64 code.toNat) t) ∧
    ((s.taskAt s.taskNum).debug = true → ∃ t, exec (.brk code) s = .next t ∧ t.core.qreq = some .stop ∧ s.Advanced 4 (s.core.pc + 4) t ∧
      t.core.tcause = s.core.tcause ∧ s.SameRegs t)) ∧
  (∀ (code : BitVec 16) (n : Nat) (k : Task) (s : State), (∀ r ∈ ([1, 2, 3, 4, 5, 6] : List Reg), s.tag r = false) →
    (code = 0 ∨ 10 < code.toNat → WritesRegister (.trap code) 1 0xFFFFFFFFFFFFFFFF false s) ∧
    (1 ≤ code.toNat → code.toNat ≤ 10 → s.core.task = some n → Map.find s.tasks n = some k → Map.get {} s.tasks n = k →
      (k.request = none → ∃ t, exec (.trap code) s = .next t ∧ t.core.pc = s.core.pc ∧ t.core.wait = .service ∧ s.SameRegs t ∧
        (t.taskAt n).request = some (code.toNat, [s.reg 1, s.reg 2, s.reg 3, s.reg 4, s.reg 5, s.reg 6])) ∧
      (∀ x, k.request = some (code.toNat, [s.reg 1, s.reg 2, s.reg 3, s.reg 4, s.reg 5, s.reg 6]) → k.reply = some x →
        ∃ t, exec (.trap code) s = .next t ∧ s.Wrote 1 x false t ∧ s.Advanced 4 (s.core.pc + 4) t ∧ (t.taskAt n).request = none ∧
          t.core.tcause = s.core.tcause ∧ ∀ pa, t.memByte pa = s.memByte pa)))

/-- R172: with no task queued for the core YIELD completes; with one, the thread is past the YIELD and the core is asked for a quiescent
point, where the scheduler takes over.
R173: with no command unfinished, no active launch and no group whose hasp refuses the LEAVE, RETIRE ends the task, whose stores are in DRAM;
with a command unfinished it waits. -/
def Obligations.ThreadLeaves : Prop :=
  (∀ (s : State),
    (s.choose s.core = none → GoesTo .yield (s.core.pc + 4) s) ∧
    (∀ c, s.choose s.core = some c → s.tenantHeld s.core.stack s.core.tenant = false →
      ∃ t, exec .yield s = .next t ∧ s.Advanced 4 (s.core.pc + 4) t ∧ t.core.qreq = some .preempt ∧ t.core.wait = .yielded ∧ s.SameRegs t)) ∧
  (∀ (n : Nat) (k : Task) (s : State), s.core.task = some n → Map.find s.tasks n = some k → Map.get {} s.tasks n = k →
    (s.commandsPending = false → ¬ (s.core.fab.streamed = true ∧ s.core.fab.launch = 1) → s.brokenGroup n = none →
      ∃ t, exec .retire s = .next t ∧ t.core.run = .idle ∧ t.core.task = none ∧ (t.taskAt n).status = .retired ∧ (t.taskAt n).groups = [] ∧
        (k.groups = [] → s.core.CacheWf → DirtyWritten s t)) ∧
    (s.commandsPending = true → ∃ t, exec .retire s = .next t ∧ t.core.pc = s.core.pc ∧ t.core.stalled = true ∧ t.core.task = some n))

/-- R174, R367: a handle that names a binding of the tenant queues a task of that binding and writes its number, exact, the spawner's stores
being in DRAM; a handle that names none raises PROT, a refused launch QFULL with the stores written back before, both with the handle. -/
def Obligations.Spawn : Prop :=
  ∀ (d a b : Reg) (s : State), s.tag a = false → s.tag b = false →
    (∀ p (bd : Binding), s.bindingOf (s.reg a) s.core.tenant = some (p, bd) → s.tenantHeld bd.die s.core.tenant = false →
      s.slotAvailable bd.die s.core.tenant = true →
      ∃ t n, exec (.spawn d a b) s = .next t ∧ s.Wrote d (BitVec.ofNat 64 n) false t ∧ s.Advanced 4 (s.core.pc + 4) t ∧
        (t.taskAt n).status = .queued ∧ (t.taskAt n).tenant = s.core.tenant ∧ (t.taskAt n).proc = p ∧ (t.taskAt n).entry = bd.entry ∧
        (t.taskAt n).prio = bd.prio ∧ (t.taskAt n).arg = s.reg b ∧ n / 2 ^ 28 = bd.die % 16 ∧ (s.core.CacheWf → DirtyWritten s t)) ∧
    (s.bindingOf (s.reg a) s.core.tenant = none → Traps (.spawn d a b) 4 (s.reg a) s) ∧
    (∀ p (bd : Binding), s.bindingOf (s.reg a) s.core.tenant = some (p, bd) → s.tenantHeld bd.die s.core.tenant = true →
      s.core.ta = false → s.core.tvec ≠ 0 →
      ∃ t, exec (.spawn d a b) s = .next t ∧ s.writeBackAll.Trapped 10 (s.reg a) t ∧ (s.core.CacheWf → DirtyWritten s t))

/-- R175: FENCE.I writes every dirty byte of the data cache to DRAM, but those of a stack out of reach, and empties the instruction cache; the
thread's view of memory and its registers stand. That a line of a stack out of reach stays dirty in the cache is the model's choice (log 92). -/
def Obligations.FenceI : Prop :=
  ∀ (s : State), s.core.CacheWf →
    ∃ t, exec .fenceI s = .next t ∧ DirtyWritten s t ∧ t.core.icache = [] ∧ s.SameRegs t ∧ s.Advanced 4 (s.core.pc + 4) t ∧
      (∀ pa, t.peek pa = s.peek pa) ∧ (∀ pa, s.core.dline (pa / 64) = none → t.memByte pa = s.memByte pa) ∧
      (∀ l ∈ t.core.dcache, t.lineGone l = false → l.dirty = 0)

namespace Sys2Proof.Machine

/-- The loads of R126: bytes, whether sign-extended, whether an estimate load. -/
def loadForms : List ((Reg → Reg → BitVec 3 → BitVec 13 → Instr) × Nat × Bool × Bool) :=
  [(.ldB, 1, true, false), (.ldBn, 1, false, false), (.ldH, 2, true, false), (.ldHn, 2, false, false), (.ldW, 4, true, false),
   (.ldWn, 4, false, false), (.ldD, 8, false, false), (.ldEh, 2, false, true), (.ldEw, 4, false, true)]

/-- The stores of R126 with their bytes. -/
def storeForms : List ((Reg → Reg → BitVec 3 → BitVec 13 → Instr) × Nat) := [(.sb, 1), (.sh, 2), (.sw, 4), (.sd, 8)]

/-- The ATOMs of R160: the new value of `n` bytes from the old value, g[b]'s and g[d]'s low bytes; whether g[d] is read. -/
def atomForms : List ((Reg → Reg → Reg → BitVec 3 → Bool → Instr) × (Nat → Nat → Nat → Nat → Nat) × Bool) :=
  [(.atomAdd, fun _ o y _ => o + y, false), (.atomAnd, fun _ o y _ => o &&& y, false), (.atomOr, fun _ o y _ => o ||| y, false),
   (.atomXor, fun _ o y _ => o ^^^ y, false),
   (.atomMin, fun n o y _ => if (BitVec.ofNat (8 * n) y).toInt < (BitVec.ofNat (8 * n) o).toInt then y else o, false),
   (.atomMax, fun n o y _ => if (BitVec.ofNat (8 * n) y).toInt < (BitVec.ofNat (8 * n) o).toInt then o else y, false),
   (.atomMinn, fun _ o y _ => min o y, false), (.atomMaxn, fun _ o y _ => max o y, false), (.atomSwap, fun _ _ y _ => y, false),
   (.atomCas, fun _ o y x => if o = x then y else o, true)]

/-- The exact loads and the stores with their bytes and whether they store. -/
def accessForms : List ((Reg → Reg → BitVec 3 → BitVec 13 → Instr) × Nat × Bool) :=
  [(.ldB, 1, false), (.ldBn, 1, false), (.ldH, 2, false), (.ldHn, 2, false), (.ldW, 4, false), (.ldWn, 4, false), (.ldD, 8, false),
   (.sb, 1, true), (.sh, 2, true), (.sw, 4, true), (.sd, 8, true)]

/-- The value of some bytes, the lowest address first (R2), and a value's bytes. -/
def valueOf (bs : List Byte) : Nat := bs.foldr (fun b v => b.toNat + 256 * v) 0
def bytesOf (n v : Nat) : List Byte := (List.range n).map (fun k => BitVec.ofNat 8 (v / 256 ^ k))

/-- A loaded value in its register (R126). -/
def extended (signed : Bool) (n v : Nat) : Word := if signed ∧ 2 ^ (8 * n - 1) ≤ v then BitVec.ofNat 64 (v + 2 ^ 64 - 2 ^ (8 * n)) else BitVec.ofNat 64 v

/-- The bytes of a buffer, of the task's partition of the cluster store, and of DRAM as the thread sees them. -/
def bufferBytes (sp : BitVec 3) (s : State) (a n : Nat) : List Byte := (List.range n).map (fun k => (s.core.buf sp).byte (a + k))
def clusterBytes (s : State) (a n : Nat) : List Byte := (List.range n).map (fun k => s.clsByte (a + k))
def memoryBytes (s : State) (a n : Nat) : List Byte := (List.range n).map (fun k => s.peek (a + k))

/-- Bytes stored at an address, and nothing else, as `rd` reads. -/
def StoredAt (rd : State → Nat → Byte) (a : Nat) (bs : List Byte) (s t : State) : Prop :=
  (∀ k, k < bs.length → rd t (a + k) = bs.getD k 0) ∧ ∀ x, (x < a ∨ a + bs.length ≤ x) → rd t x = rd s x

/-- The bytes of the cluster store after a write of `bs` at offset `o` of the task's partition (R158, R248): those bytes, and no other. -/
def PartitionStored (o : Nat) (bs : List Byte) (s t : State) : Prop :=
  StoredAt (fun s x => Map.get 0 s.cluster.store x) (s.core.clsb.toNat + o) bs s t

/-- Only bytes of the core's own cluster store changed outside the thread's own fields. -/
structure State.ClusterFrame (s t : State) : Prop where
  rest : t = { s with core := t.core, clusters := t.clusters }
  core : Core.SameButThread s.core t.core
  own : ({ t.cluster with store := s.cluster.store } : Cluster) = s.cluster
  others : ∀ k, k ≠ s.core.clusterKey → Map.get {} t.clusters k = Map.get {} s.clusters k

/-- Only one buffer changed outside the thread's own fields; no request of the thread is left at a bank. -/
structure State.BufferFrame (sp : BitVec 3) (s t : State) : Prop where
  rest : t = { s with core := t.core }
  core : Core.SameButThread s.noAsk.core { t.core with act := s.core.act, wgt := s.core.wgt, acc := s.core.acc }
  others : ∀ q : BitVec 3, (q = 1 ∨ q = 2 ∨ q = 3) → q ≠ sp → t.core.buf q = s.core.buf q

/-- What an access to mem: may change beside its own effect: the TLBs, the page's A and D bits, the data cache, the open rows of DRAM and their
counts of activations and holds (R321). -/
structure State.MemFrame (s t : State) : Prop where
  rest : t = { s with core := t.core, ptes := t.ptes, dies := t.dies }
  core : Core.SameButThread s.core { t.core with utlb := s.core.utlb, dcache := s.core.dcache }
  dies : ∀ k, ({ t.dieAt k with tlb := (s.dieAt k).tlb, openRow := (s.dieAt k).openRow, activations := (s.dieAt k).activations,
                                holds := (s.dieAt k).holds } : Die) = s.dieAt k
  dram : ∀ pa, t.memByte pa = s.memByte pa

/-- The bytes that DRAM holds once the thread's dirty bytes are written back. -/
def State.settledByte (s : State) (pa : Nat) : Byte :=
  match s.core.dline (pa / 64) with
  | some l => if l.dirty.getLsbD (pa % 64) then l.bytes.getD (pa % 64) 0 else s.memByte pa
  | none => s.memByte pa

/-- A range of a buffer space or of the task's partition of the cluster store that an access may use (R95). -/
def InBuffer (sp : BitVec 3) (addr : Word) (n : Nat) : Prop :=
  (sp = 1 ∧ addr.toNat + n ≤ 196608) ∨ ((sp = 2 ∨ sp = 3) ∧ addr.toNat + n ≤ 65536)

/-- Every line that a range touches is full; none of them is an estimate. -/
def LinesFull (sp : BitVec 3) (s : State) (a n : Nat) : Prop := ∀ x, a ≤ x → x < a + n → (s.core.buf sp).full (x / 128) = true
def LinesExact (sp : BitVec 3) (s : State) (a n : Nat) : Prop := ∀ x, a ≤ x → x < a + n → (s.core.buf sp).isEst (x / 128) = false

/-- The data cache holds the line of an address under its page's key id, or does not hold it (R95). -/
def LineTagged (pa : Nat) (e : TlbEntry) (s : State) : Prop :=
  s.core.cachedAs (pa / 64) (pteKey e.pte) = true ∨ s.core.dline (pa / 64) = none

/-- It holds the line under another key id, from before a KEY of another core. -/
def LineRetagged (pa : Nat) (e : TlbEntry) (s : State) : Prop := s.core.CacheWf ∧ ∃ l, s.core.dline (pa / 64) = some l ∧ l.key ≠ pteKey e.pte

/-- A line was evicted (R408): its dirty bytes, and no others of it, were written to DRAM. -/
def EvictedTo (pa : Nat) (s t : State) : Prop := ∀ x, t.memByte x = if x / 64 = pa / 64 then s.settledByte x else s.memByte x

/-- A plain page of the process that translates an address for an access (R324), with no memory error in its line. -/
def PlainPage (access : Nat) (addr : Word) (pa : Nat) (e : TlbEntry) (s : State) : Prop :=
  canonical addr = true ∧ s.translate s.core.proc access false (va57 addr) = .frame pa e ∧ s.isUnitPage (va57 addr) = false ∧
  s.memBad (pa / 64 * 64) 64 = false

end Sys2Proof.Machine

/-- R156, R157, R126, R90: a load from a buffer or from the cluster store, exact base, aligned, in range, writes the extended bytes; E = 1
only for LD.EH and LD.EW; nothing else changes. R99: at a buffer it completes where its bank grants it, and else waits. -/
def Obligations.BufferLoads : Prop :=
  ∀ p ∈ loadForms, ∀ (d a : Reg) (sp : BitVec 3) (off : BitVec 13) (s : State), s.tag a = false → (s.effAddr a off).toNat % p.2.1 = 0 →
    (InBuffer sp (s.effAddr a off) p.2.1 → LinesFull sp s (s.effAddr a off).toNat p.2.1 →
      (p.2.2.2 = true ∨ LinesExact sp s (s.effAddr a off).toNat p.2.1) →
      (s.BankGrants sp (s.effAddr a off).toNat p.2.1 → ∃ t, exec (p.1 d a sp off) s = .next t ∧
        s.Wrote d (extended p.2.2.1 p.2.1 (valueOf (bufferBytes sp s (s.effAddr a off).toNat p.2.1))) p.2.2.2 t ∧
        s.Advanced 4 (s.core.pc + 4) t ∧ s.noAsk.Frame t) ∧
      (¬ s.BankGrants sp (s.effAddr a off).toNat p.2.1 → WaitsAtBank (p.1 d a sp off) s)) ∧
    (sp = 4 → p.2.2.2 = false → (s.effAddr a off).toNat + p.2.1 ≤ s.core.clsz.toNat → s.cluster.badWords = [] →
      WritesRegister (p.1 d a sp off) d
        (extended p.2.2.1 p.2.1 (valueOf (clusterBytes s (s.effAddr a off).toNat p.2.1))) false s)

/-- R156, R157, R324: a load from mem: through a PRESENT page reads the thread's view of memory, and one from a DISCARDED page reads zero;
it writes an exact value and changes no byte of memory. R254, R255, R408: a line that the cache holds under another key id is evicted first, and
the load reads what DRAM then holds (that it goes at the next access is the model's choice, log 105; that only the bytes which the thread stored in it
reach DRAM is the model's reading, log 9). -/
def Obligations.MemoryLoads : Prop :=
  ∀ p ∈ loadForms, ∀ (d a : Reg) (off : BitVec 13) (pa : Nat) (e : TlbEntry) (s : State), p.2.2.2 = false → s.tag a = false →
    (s.effAddr a off).toNat % p.2.1 = 0 → pa % p.2.1 = 0 →
    (PlainPage 0 (s.effAddr a off) pa e s → LineTagged pa e s →
      ∃ t, exec (p.1 d a 0 off) s = .next t ∧ s.Wrote d (extended p.2.2.1 p.2.1 (valueOf (memoryBytes s pa p.2.1))) false t ∧
        s.Advanced 4 (s.core.pc + 4) t ∧ s.MemFrame t ∧ ∀ x, t.peek x = s.peek x) ∧
    (PlainPage 0 (s.effAddr a off) pa e s → LineRetagged pa e s →
      ∃ t, exec (p.1 d a 0 off) s = .next t ∧
        s.Wrote d (extended p.2.2.1 p.2.1 (valueOf ((List.range p.2.1).map (fun k => s.settledByte (pa + k))))) false t ∧
        s.Advanced 4 (s.core.pc + 4) t ∧ s.MemFrame { t with mem := s.mem } ∧ EvictedTo pa s t ∧
        ∀ x, t.peek x = if x / 64 = pa / 64 then s.settledByte x else s.peek x) ∧
    (canonical (s.effAddr a off) = true → s.translate s.core.proc 0 false (va57 (s.effAddr a off)) = .zeros e →
      s.isUnitPage (va57 (s.effAddr a off)) = false →
      ∃ t, exec (p.1 d a 0 off) s = .next t ∧ s.Wrote d 0 false t ∧ s.Advanced 4 (s.core.pc + 4) t ∧ s.MemFrame t ∧ ∀ x, t.peek x = s.peek x)

/-- R156, R158, R98: a store to a buffer or to the cluster store writes the low bytes of its register there and nothing else; it changes no
F or E bit and no register. R99: at a buffer it completes where its bank grants it, and else waits. -/
def Obligations.BufferStores : Prop :=
  ∀ p ∈ storeForms, ∀ (v a : Reg) (sp : BitVec 3) (off : BitVec 13) (s : State), s.tag a = false → (s.effAddr a off).toNat % p.2 = 0 →
    (InBuffer sp (s.effAddr a off) p.2 → (s.tag v = false ∨ ∀ x, (s.effAddr a off).toNat ≤ x → x < (s.effAddr a off).toNat + p.2 →
        (s.core.buf sp).isEst (x / 128) = true) →
      (s.BankGrants sp (s.effAddr a off).toNat p.2 → ∃ t, exec (p.1 v a sp off) s = .next t ∧ s.SameRegs t ∧ s.Advanced 4 (s.core.pc + 4) t ∧
        StoredAt (fun s x => (s.core.buf sp).byte x) (s.effAddr a off).toNat (bytesOf p.2 (s.reg v).toNat) s t ∧
        (∀ l, (t.core.buf sp).full l = (s.core.buf sp).full l ∧ (t.core.buf sp).isEst l = (s.core.buf sp).isEst l) ∧
        s.BufferFrame sp t) ∧
      (¬ s.BankGrants sp (s.effAddr a off).toNat p.2 → WaitsAtBank (p.1 v a sp off) s)) ∧
    (sp = 4 → s.tag v = false → (s.effAddr a off).toNat + p.2 ≤ s.core.clsz.toNat →
      ∃ t, exec (p.1 v a sp off) s = .next t ∧ s.SameRegs t ∧ s.Advanced 4 (s.core.pc + 4) t ∧
        StoredAt State.clsByte (s.effAddr a off).toNat (bytesOf p.2 (s.reg v).toNat) s t ∧
        PartitionStored (s.effAddr a off).toNat (bytesOf p.2 (s.reg v).toNat) s t ∧ s.ClusterFrame t)

/-- R156, R158: a store to mem: goes to the write-back cache: the thread's view changes at the bytes stored and nowhere else, DRAM and
every register stand. R254, R408: a line that the cache holds under another key id is evicted first (log 105), of which only the bytes that the thread
stored reach DRAM (the model's reading, log 9). -/
def Obligations.MemoryStores : Prop :=
  ∀ p ∈ storeForms, ∀ (v a : Reg) (off : BitVec 13) (pa : Nat) (e : TlbEntry) (s : State), s.tag a = false → s.tag v = false →
    (s.effAddr a off).toNat % p.2 = 0 → pa % p.2 = 0 → s.core.CacheWf → PlainPage 1 (s.effAddr a off) pa e s →
    (LineTagged pa e s → ∃ t, exec (p.1 v a 0 off) s = .next t ∧ s.SameRegs t ∧ s.Advanced 4 (s.core.pc + 4) t ∧
      StoredAt State.peek pa (bytesOf p.2 (s.reg v).toNat) s t ∧ s.MemFrame t) ∧
    (LineRetagged pa e s → ∃ t, exec (p.1 v a 0 off) s = .next t ∧ s.SameRegs t ∧ s.Advanced 4 (s.core.pc + 4) t ∧
      (∀ x, t.peek x = if pa ≤ x ∧ x < pa + p.2 then (bytesOf p.2 (s.reg v).toNat).getD (x - pa) 0
        else if x / 64 = pa / 64 then s.settledByte x else s.peek x) ∧
      EvictedTo pa s t ∧ s.MemFrame { t with mem := s.mem })

/-- R160: an ATOM on a buffer or the cluster store returns the old value, zero-extended and exact, and writes the combined one; on a form
that waits, the lines are full and exact. R99: at a buffer it completes where its bank grants it, and else waits. -/
def Obligations.BufferAtomics : Prop :=
  ∀ p ∈ atomForms, ∀ (d a b : Reg) (sp : BitVec 3) (dbl : Bool) (s : State), s.tag a = false → s.tag b = false →
    (p.2.2 = true → s.tag d = false) →
    let n := if dbl then 8 else 4
    let y := (s.reg b).toNat % 2 ^ (8 * n)
    let x := (s.reg d).toNat % 2 ^ (8 * n)
    (s.reg a).toNat % n = 0 →
    ((sp = 1 ∨ sp = 3) → InBuffer sp (s.reg a) n → LinesFull sp s (s.reg a).toNat n → LinesExact sp s (s.reg a).toNat n →
      (¬ s.BankGrants sp (s.reg a).toNat n → WaitsAtBank (p.1 d a b sp dbl) s) ∧
      (s.BankGrants sp (s.reg a).toNat n →
      ∃ t, exec (p.1 d a b sp dbl) s = .next t ∧ s.Wrote d (BitVec.ofNat 64 (valueOf (bufferBytes sp s (s.reg a).toNat n))) false t ∧
        s.Advanced 4 (s.core.pc + 4) t ∧
        StoredAt (fun s x => (s.core.buf sp).byte x) (s.reg a).toNat
          (bytesOf n (p.2.1 n (valueOf (bufferBytes sp s (s.reg a).toNat n)) y x)) s t ∧
        (∀ l, (t.core.buf sp).full l = (s.core.buf sp).full l ∧ (t.core.buf sp).isEst l = (s.core.buf sp).isEst l) ∧
        s.BufferFrame sp t)) ∧
    (sp = 4 → (s.reg a).toNat + n ≤ s.core.clsz.toNat → s.cluster.badWords = [] →
      let new := bytesOf n (p.2.1 n (valueOf (clusterBytes s (s.reg a).toNat n)) y x)
      ∃ t, exec (p.1 d a b sp dbl) s = .next t ∧
        s.Wrote d (BitVec.ofNat 64 (valueOf (clusterBytes s (s.reg a).toNat n))) false t ∧ s.Advanced 4 (s.core.pc + 4) t ∧
        StoredAt State.clsByte (s.reg a).toNat new s t ∧ PartitionStored (s.reg a).toNat new s t ∧ s.ClusterFrame t)

/-- R160, R161: an ATOM on mem: writes the thread's dirty bytes of the line back, drops the line, and then combines in DRAM.
That only the bytes which the thread stored reach DRAM, and not the whole line of which R161 and R408 speak, is the model's reading (log 9, DEDUCED). -/
def Obligations.MemoryAtomics : Prop :=
  ∀ p ∈ atomForms, ∀ (d a b : Reg) (dbl : Bool) (pa : Nat) (e : TlbEntry) (s : State), s.tag a = false → s.tag b = false →
    (p.2.2 = true → s.tag d = false) → s.core.CacheWf → PlainPage 1 (s.reg a) pa e s → pteR e.pte = true →
    let n := if dbl then 8 else 4
    let y := (s.reg b).toNat % 2 ^ (8 * n)
    let x := (s.reg d).toNat % 2 ^ (8 * n)
    let old := valueOf ((List.range n).map (fun k => s.settledByte (pa + k)))
    (s.reg a).toNat % n = 0 → pa % n = 0 →
    ∃ t, exec (p.1 d a b 0 dbl) s = .next t ∧ s.Wrote d (BitVec.ofNat 64 old) false t ∧ s.Advanced 4 (s.core.pc + 4) t ∧
      t.core.dline (pa / 64) = none ∧ (∀ k, k < n → t.memByte (pa + k) = (bytesOf n (p.2.1 n old y x)).getD k 0) ∧
      (∀ q, (q < pa ∨ pa + n ≤ q) → t.memByte q = if q / 64 = pa / 64 then s.settledByte q else s.memByte q) ∧
      s.MemFrame { t with mem := s.mem }

/-- R162, R163: LMARK marks whole lines from g[a] on and no others: EMPTY and FULL the F bit, EST the E bit with the bytes unchanged; EXACT
clears the bytes and the E bit of an estimate line alone; EST and EXACT wait at a line with F = 0, and go on there: the lines marked before are not
marked again (R164 has only an abandoned LMARK mark them again). A count of 0 does nothing. R99, R100: the marks complete where the banks grant them,
and else wait. LWAIT completes where its line is full. -/
def Obligations.LineMarks : Prop :=
  ∀ (a b : Reg) (sp : BitVec 3) (s : State), (sp = 1 ∨ sp = 2 ∨ sp = 3) → s.tag a = false → s.tag b = false →
    let l0 := (s.reg a).toNat / 128
    let n := (s.reg b).toNat
    let k := match s.core.wait with
      | .marks k => k
      | _ => 0
    let hit := fun l => decide (l0 + k ≤ l) && decide (l < l0 + n)
    let grants := s.BankGrants sp ((s.reg a).toNat + 128 * k) (128 * (n - k))
    (∀ i ∈ [Instr.lmarkEmpty a b sp, .lmarkFull a b sp, .lmarkEst a b sp, .lmarkExact a b sp], (s.reg a).toNat % 128 = 0 →
      (n = 0 → GoesTo i (s.core.pc + 4) s) ∧
      (n ≠ 0 → InBuffer sp (s.reg a) (128 * n) → ¬ grants → WaitsAtBank i s)) ∧
    ((s.reg a).toNat % 128 = 0 → InBuffer sp (s.reg a) (128 * n) → n ≠ 0 → k ≤ n → grants →
      (∃ t, exec (.lmarkEmpty a b sp) s = .next t ∧ s.SameRegs t ∧ s.Advanced 4 (s.core.pc + 4) t ∧ s.BufferFrame sp t ∧ ∀ l,
        (t.core.buf sp).full l = (if hit l then false else (s.core.buf sp).full l) ∧ (t.core.buf sp).isEst l = (s.core.buf sp).isEst l ∧
        ∀ x, (t.core.buf sp).byte x = (s.core.buf sp).byte x) ∧
      (∃ t, exec (.lmarkFull a b sp) s = .next t ∧ s.SameRegs t ∧ s.Advanced 4 (s.core.pc + 4) t ∧ s.BufferFrame sp t ∧ ∀ l,
        (t.core.buf sp).full l = (if hit l then true else (s.core.buf sp).full l) ∧ (t.core.buf sp).isEst l = (s.core.buf sp).isEst l ∧
        ∀ x, (t.core.buf sp).byte x = (s.core.buf sp).byte x) ∧
      (∀ m, k + m < n → (∀ l, l0 + k ≤ l → l < l0 + k + m → (s.core.buf sp).full l = true) → (s.core.buf sp).full (l0 + k + m) = false →
        ∃ t, exec (.lmarkEst a b sp) s = .next t ∧ s.SameRegs t ∧ t.core.pc = s.core.pc ∧ t.core.stalled = true ∧ t.core.wait = .marks (k + m) ∧ ∀ l,
          (t.core.buf sp).isEst l = (if l0 + k ≤ l ∧ l < l0 + k + m then true else (s.core.buf sp).isEst l) ∧
          (t.core.buf sp).full l = (s.core.buf sp).full l) ∧
      ((∀ l, hit l = true → (s.core.buf sp).full l = true) →
        (∃ t, exec (.lmarkEst a b sp) s = .next t ∧ s.SameRegs t ∧ s.Advanced 4 (s.core.pc + 4) t ∧ s.BufferFrame sp t ∧ ∀ l,
          (t.core.buf sp).isEst l = (if hit l then true else (s.core.buf sp).isEst l) ∧ (t.core.buf sp).full l = (s.core.buf sp).full l ∧
          ∀ x, (t.core.buf sp).byte x = (s.core.buf sp).byte x) ∧
        (∃ t, exec (.lmarkExact a b sp) s = .next t ∧ s.SameRegs t ∧ s.Advanced 4 (s.core.pc + 4) t ∧ s.BufferFrame sp t ∧ ∀ l,
          (t.core.buf sp).isEst l = (if hit l then false else (s.core.buf sp).isEst l) ∧ (t.core.buf sp).full l = (s.core.buf sp).full l ∧
          ∀ x, (t.core.buf sp).byte x = if hit (x / 128) && (s.core.buf sp).isEst (x / 128) then 0 else (s.core.buf sp).byte x))) ∧
    (InBuffer sp (s.reg a) 1 → (s.core.buf sp).full l0 = true → GoesTo (.lwait a sp) (s.core.pc + 4) s)

/-- R95, R156, R157, R158, R180, R181: where an access traps: ALIGN before PROT before TYPE on a line, each with the address that the rule
names; that TYPE on a line names a load's destination and a store's source register is the model's reading (log 13).
R156, R327, R328: an access without the right in mem: stalls the thread with a fault of reason 2, and raises PROT once the fault is fatal.
R148, R158, R180: an estimate stored into an exact line of a buffer raises TYPE with the address and the register. -/
def Obligations.AccessTraps : Prop :=
  (∀ p ∈ accessForms, ∀ (d a : Reg) (sp : BitVec 3) (off : BitVec 13) (s : State), sp.toNat < 5 → s.tag a = false → s.tag d = false →
    let addr := s.effAddr a off
    (addr.toNat % p.2.1 ≠ 0 → Traps (p.1 d a sp off) 3 addr s) ∧
    (addr.toNat % p.2.1 = 0 →
      ((sp = 1 ∨ sp = 2 ∨ sp = 3) → ¬ InBuffer sp addr p.2.1 → Traps (p.1 d a sp off) 4 addr s) ∧
      (sp = 4 → s.core.clsz.toNat < addr.toNat + p.2.1 → Traps (p.1 d a sp off) 4 addr s) ∧
      (sp = 0 → canonical addr = false → Traps (p.1 d a sp off) 4 addr s) ∧
      (sp = 0 → canonical addr = true → s.translate s.core.proc p.2.2.toNat false (va57 addr) = .right →
        (s.core.fatal = some (va57 addr) → Traps (p.1 d a sp off) 4 addr s) ∧
        (s.core.fatal ≠ some (va57 addr) → ∃ t, exec (p.1 d a sp off) s = .next t ∧ t.core.pc = s.core.pc ∧ t.core.stalled = true ∧
          s.SameRegs t ∧ t.mem = s.mem ∧ (s.faultSent .thread addr = false → s.core.faults = [] → ∃ f, t.core.faults = [f] ∧ f.reason = 2 ∧
            f.va = va57 addr ∧ f.access = p.2.2.toNat ∧ f.proc = s.core.proc))) ∧
      ((sp = 1 ∨ sp = 2 ∨ sp = 3) → InBuffer sp addr p.2.1 → LinesFull sp s addr.toNat p.2.1 → p.2.2 = false →
        (s.core.buf sp).isEst (addr.toNat / 128) = true → Traps (p.1 d a sp off) 5 (BitVec.ofNat 64 (addr.toNat * 2 ^ 32 + d.toNat)) s))) ∧
  (∀ p ∈ storeForms, ∀ (v a : Reg) (sp : BitVec 3) (off : BitVec 13) (s : State), s.tag a = false → s.tag v = true →
    (s.effAddr a off).toNat % p.2 = 0 → InBuffer sp (s.effAddr a off) p.2 → LinesExact sp s (s.effAddr a off).toNat p.2 →
    Traps (p.1 v a sp off) 5 (BitVec.ofNat 64 ((s.effAddr a off).toNat * 2 ^ 32 + v.toNat)) s)
namespace Sys2Proof.Machine

/-- The state behind a read of a record's or a header's page: its translation is in use, its line in the data cache. -/
def State.recordRead (pa : Nat) (e : TlbEntry) (s : State) : State := (s.touch e false).fillLine (pa / 64) (pteKey e.pte)

/-- A hasp reference names hasp `hid`, in the task's partition of the cluster store or on a plain page of mem: that the page table still holds
PRESENT, `u` being the state behind the check (R281). -/
inductive HaspAt (ref : Word) (s : State) : Nat → State → Prop where
  | cluster : ref.toNat / 2 ^ 61 = 4 → ref.toNat / 2 ^ 23 % 2 ^ 38 = 0 → ref.toNat % 2 ^ 23 + 64 ≤ s.core.clsz.toNat →
      HaspAt ref s (2 ^ 45 + s.core.id / 16 * 2 ^ 23 + (s.core.clsb.toNat + ref.toNat % 2 ^ 23)) s
  | memory (pa : Nat) (e w : TlbEntry) : ref.toNat / 2 ^ 61 ≠ 4 → canonical ref = true →
      s.translate s.core.proc 1 false (va57 ref) = .frame pa e → s.isUnitPage (va57 ref) = false → pteR e.pte = true →
      s.walk s.core.proc (va57 ref) = some w → pteState w.pte = 0 → pteFrame w.pte = pteFrame e.pte →
      HaspAt ref s pa (s.touch e true)

/-- The hasp flags of a command: none, or an aligned reference that names a hasp; `h` is what the command carries (R198, R281). -/
inductive FlagsAt (f : HaspFlags) (s : State) : CmdHasp → State → Prop where
  | none : f.acq = false → f.rel = false → FlagsAt f s { order := s.core.accepted } s
  | some (hid : Nat) (u : State) : (f.acq || f.rel) = true → (s.reg f.hr).toNat % 64 = 0 → HaspAt (s.reg f.hr) s hid u →
      FlagsAt f s { ref := s.reg f.hr, hid := hid, acq := f.acq, rel := f.rel, order := s.core.accepted } u

/-- A fibre page that translates a header's address for a read or a write, its home in reach (R346). -/
def FibreAt (va : Word) (write : Bool) (pa : Nat) (e : TlbEntry) (s : State) : Prop :=
  canonical va = true ∧ s.translate s.core.proc write.toNat true (va57 va) = .frame pa e ∧ s.stackGone (paStack pa) = false

/-- The header of a fibre stream's record is translated at issue, a SCAN's and a PROBE's for reading, a MERGE's for writing (R357); a DENSE or
IND record has none. -/
inductive HeaderAt (p : Pattern) (s : State) : State → Prop where
  | plain : p.kind ≤ 1 → HeaderAt p s s
  | scan (pa : Nat) (e : TlbEntry) : p.kind = 2 → FibreAt p.base false pa e s → HeaderAt p s (s.touch e false)
  | probe (pa : Nat) (e : TlbEntry) : p.kind = 3 → FibreAt p.xbase false pa e s → HeaderAt p s (s.touch e false)
  | merge (pa : Nat) (e : TlbEntry) : p.kind = 4 → FibreAt p.base true pa e s → HeaderAt p s (s.touch e true)

/-- What a stream instruction names: its SUB, engine, port, record address and hasp flags (R198). -/
def streamParts (i : Instr) (s : State) : Option (Nat × BitVec 3 × Reg × Word × HaspFlags) :=
  match i with
  | .srd e p r f => some (0, e, p, s.reg r, f) | .swr e p r f => some (1, e, p, s.reg r, f) | .sind e p r f => some (2, e, p, s.reg r, f)
  | .srdLit e p l f => some (0, e, p, s.core.pc + l.signExtend 64, f) | .swrLit e p l f => some (1, e, p, s.core.pc + l.signExtend 64, f)
  | .sindLit e p l f => some (2, e, p, s.core.pc + l.signExtend 64, f)
  | _ => none

/-- Every exact-only register is exact. -/
def AllExact (i : Instr) (s : State) : Prop := ∀ r ∈ exactOnly i, s.tag r = false

/-- What every accepted command leaves alone: registers, DRAM, the tasks, the processes, other cores; the thread went on. -/
structure Accepted (i : Instr) (s t : State) : Prop where
  regs : s.SameRegs t
  advanced : s.Advanced (BitVec.ofNat 64 i.size) (s.core.pc + BitVec.ofNat 64 i.size) t
  counted : t.core.accepted = s.core.accepted + 1
  memory : ∀ pa, t.memByte pa = s.memByte pa ∧ t.peek pa = s.peek pa
  rest : t.others = s.others ∧ t.tasks = s.tasks ∧ t.procs = s.procs ∧ t.tenants = s.tenants ∧ t.pkg = s.pkg

/-- Lines of act:, wgt: or acc: that a command empties at acceptance: F = 0 in the range, everything else of the buffer as it was. -/
def LinesEmptied (b c : Buffer) (line n : Nat) : Prop :=
  ∀ l, c.full l = (if line ≤ l ∧ l < line + n then false else b.full l) ∧ c.isEst l = b.isEst l ∧ ∀ x, c.byte x = b.byte x

/-- The legal checks of MMUL at issue on a state, with K and N of the shape its slot accepted last (R264, R295). -/
def MmulFits (m : MmulArgs) (k n : Nat) (s : State) : Prop :=
  (s.reg m.a).toNat % 128 = 0 ∧ (s.reg m.gd).toNat % 128 = 0 ∧ s.ownsSlot (opndSlot (s.reg m.opnd)) = true ∧
  (s.cluster.wslot (opndSlot (s.reg m.opnd))).accK = k ∧ (s.cluster.wslot (opndSlot (s.reg m.opnd))).accN = n ∧
  (s.reg m.a).toNat + blockBytes m.fmt (opndM (s.reg m.opnd) * k) ≤ 196608 ∧ (s.reg m.gd).toNat + 4 * opndM (s.reg m.opnd) * n ≤ 65536

/-- The ranges and alignments of a copy at issue (R203). -/
def CopyFits (c : CopyArgs) (s : State) : Prop :=
  (s.reg c.gd).toNat % 8 = 0 ∧ (s.reg c.gs).toNat % 8 = 0 ∧ (s.reg c.len).toNat % 8 = 0 ∧
  s.copyRange c.dsp (s.reg c.gd) (s.reg c.len).toNat = true ∧ s.copyRange c.ssp (s.reg c.gs) (s.reg c.len).toNat = true ∧
  (c.dsp = c.ssp → overlap (s.reg c.gd) (s.reg c.gs) (s.reg c.len).toNat = false) ∧ (c.est = true → c.dsp ≠ 0 ∧ c.dsp ≠ 4)

end Sys2Proof.Machine

/-- R185, R191, R198, R215: a stream instruction whose record passes every check is accepted: its command joins its engine's queue with the
record as memory holds it, the port, the flags and the epoch; nothing else that a program reads changes.
R190, R191, R217: a record with a refused field raises CFG that names the field's offset; one with a misaligned value raises ALIGN with
the value. That bits 17:16 of that CFG's TVAL name the plane of the stream's epoch is the model's choice (log 18). -/
def Obligations.Streams : Prop :=
  (∀ (i : Instr) (sub : Nat) (eng : BitVec 3) (port : Reg) (addr : Word) (fl : HaspFlags) (pa : Nat) (e : TlbEntry) (h : CmdHasp) (u v : State)
    (s : State), streamParts i s = some (sub, eng, port, addr, fl) → i.wellFormed = true → AllExact i s → addr.toNat % 64 = 0 → pa % 64 = 0 →
    PlainPage 0 addr pa e s → LineTagged pa e s → FlagsAt fl (s.recordRead pa e) h u →
    let p := patternOf addr (memoryBytes s pa 64)
    let f := s.core.fab
    p.refused sub = [] → p.misaligned = none → s.patternProt p = none → HeaderAt p u v →
    (∀ n, f.epochPlane = some n → (f.plane n).portUsed port.toNat = true → (f.plane n).portEst port.toNat = p.est) → f.epochPlane ≠ none →
    (sub = 1 → p.est = true → p.space ≠ 0 ∧ p.space ≠ 4) → (s.core.engine eng.toNat).queue.length < 8 →
    ∃ t, exec i s = .next t ∧ Accepted i s t ∧
      (t.core.engine eng.toNat).queue = (s.core.engine eng.toNat).queue ++
        [{ sub := sub, port := port.toNat, pat := p, epoch := if f.switch.isSome then f.epoch + 1 else f.epoch, hasp := h }] ∧
      (t.core.engine eng.toNat).slots = (s.core.engine eng.toNat).slots ∧ ∀ k, k ≠ eng.toNat → t.core.engine k = s.core.engine k) ∧
  (∀ (i : Instr) (sub : Nat) (eng : BitVec 3) (port : Reg) (addr : Word) (fl : HaspFlags) (pa : Nat) (e : TlbEntry) (n : Nat) (s : State),
    streamParts i s = some (sub, eng, port, addr, fl) → i.wellFormed = true → AllExact i s → fl.acq = false → fl.rel = false →
    s.core.ta = false → s.core.tvec ≠ 0 → s.core.fab.epochPlane = some n →
    (addr.toNat % 64 ≠ 0 → Traps i 3 addr s) ∧
    (addr.toNat % 64 = 0 → pa % 64 = 0 → PlainPage 0 addr pa e s → LineTagged pa e s →
      let p := patternOf addr (memoryBytes s pa 64)
      (∀ off, (p.refused sub).head? = some off → ∃ t, exec i s = .next t ∧ t.core.tcause = 11 ∧
        t.core.tval = BitVec.ofNat 64 (n % 4 * 65536 + 4096 + off % 64) ∧ t.core.tpc = s.core.pc ∧ t.core.pc = s.core.tvec ∧ s.SameRegs t ∧
        t.core.engines = s.core.engines) ∧
      (∀ v, p.refused sub = [] → p.misaligned = some v → ∃ t, exec i s = .next t ∧ t.core.tcause = 3 ∧ t.core.tval = v ∧
        t.core.tpc = s.core.pc ∧ t.core.pc = s.core.tvec ∧ s.SameRegs t ∧ t.core.engines = s.core.engines)))

namespace Sys2Proof.Machine

/-- A word has a value in each of some fields, each given by its highest and lowest bit. -/
def HasFields (w : Word) (l : List (Nat × Nat × Nat)) : Prop := ∀ x ∈ l, w.toNat / 2 ^ x.2.1 % 2 ^ (x.1 - x.2.1 + 1) = x.2.2

/-- The slots of an engine that hold a stream with a property, one bit each (R202). -/
def slotBits (g : Engine) (p : Stream → Bool) : Nat :=
  let bit := fun k => if (Map.find g.slots k).any p then 2 ^ k else 0
  bit 0 + bit 1 + bit 2 + bit 3

/-- What SSTAT writes of an engine, a channel, a port (R202). -/
def engineFields (e : Nat) (c : Core) : List (Nat × Nat × Nat) :=
  let g := Map.get {} c.engines e
  [(63, 62, c.fab.launch.toNat), (61, 48, 0), (47, 16, g.completed % 2 ^ 32), (15, 14, 0), (13, 13, if g.ovr then 1 else 0),
   (12, 12, if g.can then 1 else 0), (11, 8, g.queue.length), (7, 4, slotBits g (fun t => t.fault.isSome)), (3, 0, slotBits g (fun _ => true))]
def channelFields (n : Nat) (c : Core) : List (Nat × Nat × Nat) :=
  let g := Map.get {} c.chans n
  [(63, 62, c.fab.launch.toNat), (61, 48, 0), (47, 16, g.completed % 2 ^ 32), (15, 6, 0), (5, 5, if g.can then 1 else 0),
   (4, 4, match g.queue with
     | x :: _ => if x.started then 1 else 0
     | [] => 0), (3, 0, g.queue.length)]
def portFields (port : Nat) (c : Core) : List (Nat × Nat × Nat) :=
  let queue := if port < 16 then Map.get [] c.fab.inq port else Map.get [] c.fab.outq (port - 16)
  [(63, 62, c.fab.launch.toNat), (61, 48, 0), (47, 16, (c.fab.port c.fab.epoch port).tokens % 2 ^ 32), (15, 9, 0), (8, 4, queue.length),
   (3, 2, 0), (1, 1, match c.fab.active with
     | some n => if (c.fab.plane n).portEst port then 1 else 0
     | none => 0), (0, 0, if c.portHeld port then 1 else 0)]

/-- The code of an array's state (R275). -/
def stateCode (x : ArrayState) : Nat :=
  match x with
  | .zero => 0 | .ready => 1 | .drift => 2 | .programming => 3 | .worn => 4

/-- What XSTAT writes of an array (R303). -/
def arrayFields (n : Nat) (s : State) : List (Nat × Nat × Nat) :=
  let a := s.cluster.array n
  [(63, 32, a.progs), (31, 24, (a.queue.filter (fun q => q.core == s.core.id)).length), (23, 20, a.drs),
   (19, 19, if s.cluster.shimCache.contains n then 1 else 0), (18, 16, if s.cluster.lanesFenced.contains (n / 512) then 4 else stateCode a.state),
   (15, 13, 0), (12, 0, n)]

/-- A register form completes with a word that has the given fields, exact. -/
def WritesFields (i : Instr) (d : Reg) (l : List (Nat × Nat × Nat)) (s : State) : Prop := ∃ w, HasFields w l ∧ WritesRegister i d w false s

end Sys2Proof.Machine

/-- R201, R202, R206, R298: PWAIT, WPWAIT and MWAIT complete once what they wait for is so, and SSTAT writes the fields of R202, exact; WPWAIT
waits before (that the bytes of cancelled copies count once the channel holds no copy is the model's reading of R206 and R294, log 96; that SSTAT's EST
reads 0 where no plane is ACTIVE is its choice, log 126). -/
def Obligations.UnitWaits : Prop :=
  ∀ (port d a : Reg) (eng : BitVec 3) (st : BitVec 2) (s : State),
    ((∀ g ∈ s.core.engines, (∀ q ∈ g.2.queue, q.port ≠ port.toNat) ∧ (∀ x ∈ g.2.slots, x.2.cmd.port ≠ port.toNat) ∧
      (∀ x ∈ g.2.ending, x.cmd.port ≠ port.toNat)) → GoesTo (.pwait port) (s.core.pc + 4) s) ∧
    (eng.toNat < 4 → s.tag a = false →
      ((s.reg a).toNat ≤ (s.core.chan eng.toNat).wp.toNat → GoesTo (.wpwait eng a) (s.core.pc + 4) s) ∧
      ((s.core.chan eng.toNat).queue = [] → (s.reg a).toNat ≤ (s.core.chan eng.toNat).wp.toNat + (s.core.chan eng.toNat).gone →
        GoesTo (.wpwait eng a) (s.core.pc + 4) s) ∧
      ((s.core.chan eng.toNat).queue ≠ [] → (s.core.chan eng.toNat).wp.toNat < (s.reg a).toNat →
        ∃ t, exec (.wpwait eng a) s = .next t ∧ t.core.pc = s.core.pc ∧ t.core.stalled = true ∧ s.SameRegs t)) ∧
    (s.matrixBusy st.toNat = false → GoesTo (.mwait st) (s.core.pc + 4) s) ∧
    (eng.toNat < 4 → ((s.core.engine eng.toNat).queue.length ≤ 8 → WritesFields (.sstat eng 0 d 0) d (engineFields eng.toNat s.core) s) ∧
      ((s.core.chan eng.toNat).queue.length ≤ 8 → WritesFields (.sstat eng 0 d 1) d (channelFields eng.toNat s.core) s)) ∧
    ((∀ k, (Map.get [] s.core.fab.inq k).length ≤ 16 ∧ (Map.get [] s.core.fab.outq k).length ≤ 16) →
      WritesFields (.sstat 0 port d 2) d (portFields port.toNat s.core) s)

/-- R203, R204, R205, R185: a copy whose ranges fit joins its channel's queue; with EI the lines it writes whole are emptied; CPYM's
follow-on MMUL goes with its copy, its target lines emptied. That the pair goes on, closes a loop and counts in ICNT as one instruction of 16
bytes is the model's choice (log 88). -/
def Obligations.CopyAccepted : Prop :=
  ∀ (c : CopyArgs) (m : MmulArgs) (h hm : CmdHasp) (u v : State) (s : State), c.legal = true → CopyFits c s →
    (s.core.chan c.ch.toNat).queue.length < 8 → FlagsAt c.fl s h u →
    let a := (s.reg c.gd).toNat
    let n := (s.reg c.len).toNat
    (AllExact (.cpy c) s → ∃ t, exec (.cpy c) s = .next t ∧ Accepted (.cpy c) s t ∧
      (t.core.chan c.ch.toNat).queue = (s.core.chan c.ch.toNat).queue ++
        [{ dst := s.reg c.gd, src := s.reg c.gs, len := n, dsp := c.dsp, ssp := c.ssp, ei := c.ei, est := c.est, hasp := h }] ∧
      (∀ k, k ≠ c.ch.toNat → t.core.chan k = s.core.chan k) ∧
      LinesEmptied (s.core.buf c.dsp) (t.core.buf c.dsp) ((a + 127) / 128) (if c.ei then (a + n) / 128 - (a + 127) / 128 else 0)) ∧
    (∀ k w, m.legal = true → AllExact (.cpym c m) s → valuesLegal (.cpym c m) s = true → MmulFits m k w s → FlagsAt m.fl u hm v →
      ∃ t x, exec (.cpym c m) s = .next t ∧ Accepted (.cpym c m) s t ∧
        (t.core.chan c.ch.toNat).queue = (s.core.chan c.ch.toNat).queue ++ [x] ∧ x.dst = s.reg c.gd ∧ x.src = s.reg c.gs ∧ x.len = n ∧
        x.hasp = h ∧ x.mmul = some m ∧ (∀ y, x.mcmd = some y → y.slot = (s.reg m.opnd).toNat % 64 ∧ y.src = (s.reg m.a).toNat ∧
          y.dst = (s.reg m.gd).toNat ∧ y.k = k ∧ y.n = w ∧ y.m = (s.reg m.opnd).toNat / 256 % 65536 ∧ y.hasp = hm) ∧ x.mcmd ≠ none ∧
        ((c.dsp = 1 ∨ c.dsp = 2) → LinesEmptied (s.core.buf c.dsp) (t.core.buf c.dsp) ((a + 127) / 128)
          (if c.ei then (a + n) / 128 - (a + 127) / 128 else 0)) ∧
        ∃ acc, LinesEmptied s.core.acc acc ((s.reg m.gd).toNat / 128) (4 * ((s.reg m.opnd).toNat / 256 % 65536) * w / 128) ∧
          LinesEmptied acc t.core.acc ((a + 127) / 128) (if c.dsp = 3 ∧ c.ei then (a + n) / 128 - (a + 127) / 128 else 0))

/-- R208, R185: CFG and CFGS put a load into the loader's queue of four and make the plane LOADING; a count of zero completes at once; a
plane that is ACTIVE, SWITCHING or an armed trigger's target is refused with CFG. -/
def Obligations.PlaneLoads : Prop :=
  ∀ (p : BitVec 2) (a b : Reg) (s : State), s.tag a = false → s.tag b = false →
    let st := (s.core.fab.plane p.toNat).state
    let refused := st = .active ∨ st = .switching ∨ (s.core.ptrg.getLsbD 0 = true ∧ s.core.ptrg.toNat / 2 % 4 = p.toNat)
    ((s.reg a).toNat % 128 = 0 → ¬ refused → s.core.fab.loads.length < 4 →
      ∃ t, exec (.cfg p a) s = .next t ∧ s.SameRegs t ∧ s.Advanced 4 (s.core.pc + 4) t ∧ t = { s with core := t.core } ∧
        t.core.fab.loads = s.core.fab.loads ++ [{ plane := p.toNat, addr := (s.reg a).toNat }] ∧
        (t.core.fab.plane p.toNat).state = .loading ∧ (t.core.fab.plane p.toNat).fields = (s.core.fab.plane p.toNat).fields) ∧
    ((s.reg a).toNat % 4 = 0 → (s.reg a).toNat + 4 * (s.reg b).toNat ≤ 196608 → ¬ refused →
      ((s.reg b).toNat = 0 → GoesTo (.cfgs p b a) (s.core.pc + 4) s) ∧
      ((s.reg b).toNat ≠ 0 → s.core.fab.loads.length < 4 →
        ∃ t, exec (.cfgs p b a) s = .next t ∧ s.SameRegs t ∧ s.Advanced 4 (s.core.pc + 4) t ∧ t = { s with core := t.core } ∧
          t.core.fab.loads = s.core.fab.loads ++ [{ plane := p.toNat, addr := (s.reg a).toNat, bare := true, count := (s.reg b).toNat }] ∧
          (t.core.fab.plane p.toNat).state = .loading)) ∧
    ((s.reg a).toNat % 128 = 0 → refused → Traps (.cfg p a) 11 (BitVec.ofNat 64 (p.toNat * 65536 + 0x2000)) s)

/-- R210, R212, R214: PSWITCH to a READY plane starts a switch that the drain carries out, or, with no plane ACTIVE, makes it ACTIVE at
once in the next epoch (R210's next cycle and the instruction are one step: the model's reading, log 23); PDRAIN switches the ACTIVE plane to
itself; PTRIG arms a trigger; each waits while a switch is in progress. -/
def Obligations.PlaneSwitches : Prop :=
  ∀ (p : BitVec 2) (port a : Reg) (s : State),
    (s.core.fab.switch = none → (s.core.fab.plane p.toNat).state = .ready →
      ∃ t, exec (.pswitch p) s = .next t ∧ s.SameRegs t ∧ s.Advanced 4 (s.core.pc + 4) t ∧ t = { s with core := t.core } ∧
        t.core.ptrg.getLsbD 0 = false ∧
        (∀ n, s.core.fab.active = some n → n ≠ p.toNat → (t.core.fab.plane p.toNat).state = .switching ∧ t.core.fab.epoch = s.core.fab.epoch ∧
          ∃ w, t.core.fab.switch = some w ∧ w.out = n ∧ w.inc = p.toNat ∧ w.targets = [] ∧ w.routers = []) ∧
        (s.core.fab.active = none → t.core.fab.switch = none ∧ t.core.fab.act = p.toNat ∧ (t.core.fab.plane p.toNat).state = .active ∧
          t.core.fab.epoch = s.core.fab.epoch + 1)) ∧
    (s.core.fab.switch = none → (s.core.fab.plane p.toNat).state ≠ .ready → Traps (.pswitch p) 11 (BitVec.ofNat 64 (p.toNat * 65536 + 0x2000)) s) ∧
    (s.core.fab.switch = none → ∃ t, exec .pdrain s = .next t ∧ s.SameRegs t ∧ s.Advanced 4 (s.core.pc + 4) t ∧
      (∀ n, s.core.fab.active = some n → ∃ w, t.core.fab.switch = some w ∧ w.out = n ∧ w.inc = n) ∧
      (s.core.fab.active = none → t.core.fab.switch = none)) ∧
    (s.core.fab.switch = none → s.tag a = false → (s.core.fab.plane p.toNat).state = .ready →
      Changes (.ptrig p port a) (fun c => { c with ptrg := BitVec.ofNat 64 ((s.reg a).toNat % 2 ^ 32 * 2 ^ 32 + port.toNat * 8 + p.toNat * 2 + 1), fab := { c.fab with trigCount := 0 } })
        4 (s.core.pc + 4) s) ∧
    (s.core.fab.switch ≠ none → s.tag a = false → ∀ i ∈ [Instr.pswitch p, .pdrain, .ptrig p port a], ∃ t, exec i s = .next t ∧
      t.core.pc = s.core.pc ∧ t.core.fab = s.core.fab ∧ t.core.ptrg = s.core.ptrg ∧ t.core.stalled = true ∧ s.SameRegs t)

namespace Sys2Proof.Machine

/-- A sound hasp of a tenant at its home (R250, R251): reachable, initialised, every zero field zero, its fields in the ranges of its mode. -/
def HaspOk (s : State) (hid tenant : Nat) : Prop := s.hidBad hid = false ∧ (s.hasp hid).broken tenant = none

/-- The registers stand, the thread went on: what a hasp instruction that completes leaves beside the hasp. -/
def HaspDone (s t : State) : Prop := s.SameRegs t ∧ s.Advanced 4 (s.core.pc + 4) t

/-- A hasp whose fields are `v` at its home. -/
def State.HaspIs (t : State) (hid : Nat) (v : Hasp) : Prop := t.hasp hid = v

/-- A hasp's home is outside what a release of the thread may write: in a cluster store, or in a line that the thread's cache does not hold. -/
def HomeApart (s : State) (hid : Nat) : Prop :=
  hid % 64 = 0 ∧
  (2 ^ 45 ≤ hid ∨
   hid < 2 ^ 45 ∧ s.core.CacheWf ∧ ∀ l ∈ s.core.dcache, l.line ≠ hid / 64)

/-- No merge of the thread to a fibre with the hasp's key is still to be applied (R339). -/
def ReleaseFree (s : State) (hid : Nat) : Prop := s.mergesPending (s.hasp hid).key = false

end Sys2Proof.Machine

/-- R288, R289: HACQ takes a free lock for the task and does nothing to a hasp of another mode; HREL frees a lock that the task holds and no
other task waits for, and counts a release in RELSEQ; the lines of the hasp's key leave the data cache at the acquire and are written back at
the release. -/
def Obligations.HaspLock : Prop :=
  ∀ (h : Reg) (hid : Nat) (u s : State), s.tag h = false → (s.reg h).toNat % 64 = 0 → HaspAt (s.reg h) s hid u → HomeApart u hid →
    HaspOk u hid s.core.tenant → (u.hasp hid).wkind = 0 → s.core.wait = .none → s.core.task ≠ none → s.taskNum < 2 ^ 32 →
    let v := u.hasp hid
    (u.relPending hid s.core.accepted = false → (v.mode ≠ 0 ∨ v.p = 0xFFFFFFFF ∧ s.taskNum ≠ 0xFFFFFFFF) →
      ∃ t, exec (.hacq h) s = .next t ∧ HaspDone s t ∧ (∀ l ∈ t.core.dcache, l.key ≠ v.key) ∧
        t.HaspIs hid (if v.mode = 0 then { v with p := s.taskNum } else v)) ∧
    (ReleaseFree u hid → v.mode = 0 → v.p = s.taskNum → u.lockWaiter hid = none →
      ∃ t, exec (.hrel h) s = .next t ∧ HaspDone s t ∧ (∀ l ∈ t.core.dcache, l.key = v.key → t.lineGone l = false → l.dirty = 0) ∧
        t.HaspIs hid { v with p := 0xFFFFFFFF, relseq := (v.relseq + 1) % 2 ^ 32 }) ∧
    (ReleaseFree u hid → (v.mode = 1 ∨ v.mode = 2 ∨ v.mode = 4) →
      ∃ t, exec (.hrel h) s = .next t ∧ HaspDone s t ∧ (∀ l ∈ t.core.dcache, l.key = v.key → t.lineGone l = false → l.dirty = 0) ∧
        t.HaspIs hid { v with relseq := (v.relseq + 1) % 2 ^ 32 }) ∧
    (ReleaseFree u hid → v.mode = 3 → u.flipWaiters hid = [] →
      ∃ t, exec (.hrel h) s = .next t ∧ HaspDone s t ∧ (∀ l ∈ t.core.dcache, l.key = v.key → t.lineGone l = false → l.dirty = 0) ∧
        t.HaspIs hid { v with relseq := (v.relseq + 1) % 2 ^ 32, n := v.n + 1, phase := !v.phase })

/-- R252, R257, R284, R290, R291: HARR on a barrier counts an arrival and notes the phase; the last arrival clears the count and inverts the phase;
on a group it counts and marks a member's first arrival in a phase, the last clearing every mark, and any other arrival raises HASP reason 6;
HSIG adds to a counter and inverts its phase; HWAIT completes where the phase has moved past the task's note, and then notes it. -/
def Obligations.HaspPhases : Prop :=
  ∀ (h b : Reg) (hid n : Nat) (k : Task) (u s : State), s.tag h = false → s.tag b = false → (s.reg h).toNat % 64 = 0 →
    HaspAt (s.reg h) s hid u → HaspOk u hid s.core.tenant → (u.hasp hid).wkind = 0 → s.core.wait = .none → s.core.task = some n →
    Map.find s.tasks n = some k → Map.get {} s.tasks n = k → k.notes.length < 16 → HomeApart u hid → u.flipWaiters hid = [] →
    let v := u.hasp hid
    (ReleaseFree u hid → v.mode = 1 →
      ∃ t, exec (.harr h) s = .next t ∧ HaspDone s t ∧ (t.taskAt n).note hid = v.phase ∧
        t.HaspIs hid (if v.q + 1 = v.p then { v with relseq := (v.relseq + 1) % 2 ^ 32, q := 0, phase := !v.phase }
          else { v with relseq := (v.relseq + 1) % 2 ^ 32, q := v.q + 1 })) ∧
    (ReleaseFree u hid → v.mode = 4 → k.groups.contains hid = true → k.arrived.contains hid = false →
      ∃ t, exec (.harr h) s = .next t ∧ HaspDone s t ∧ (t.taskAt n).note hid = v.phase ∧
        (t.taskAt n).arrived.contains hid = decide (v.q + 1 ≠ v.p) ∧ (t.taskAt n).groups = k.groups ∧
        t.HaspIs hid (if v.q + 1 = v.p then { v with relseq := (v.relseq + 1) % 2 ^ 32, q := 0, phase := !v.phase }
          else { v with relseq := (v.relseq + 1) % 2 ^ 32, q := v.q + 1 })) ∧
    (ReleaseFree u hid → v.mode = 4 → k.groups.contains hid = false ∨ k.arrived.contains hid = true → s.core.ta = false → s.core.tvec ≠ 0 →
      ∃ t, exec (.harr h) s = .next t ∧ t.core.tcause = 12 ∧ t.core.tval = s.reg h + 6 ∧ t.core.tpc = s.core.pc ∧ t.hasp hid = v ∧
        (t.taskAt n).arrived = k.arrived) ∧
    (ReleaseFree u hid → v.mode = 3 →
      ∃ t, exec (.hsig h b) s = .next t ∧ HaspDone s t ∧
        t.HaspIs hid { v with relseq := (v.relseq + 1) % 2 ^ 32, n := v.n + s.reg b, phase := !v.phase }) ∧
    (v.mode ≠ 0 → v.phase ≠ k.note hid → ∃ t, exec (.hwait h) s = .next t ∧ HaspDone s t ∧ (t.taskAt n).note hid = v.phase ∧ t.HaspIs hid v) ∧
    (v.mode ≠ 0 → v.phase = k.note hid → u.slotForWait hid s.core.tenant = true → v.waiters + 1 < 2 ^ 32 →
      ∃ t, exec (.hwait h) s = .next t ∧ t.core.pc = s.core.pc ∧ t.core.wait = .hasp hid ∧ s.SameRegs t ∧
        t.HaspIs hid { v with waiters := v.waiters + 1 })

/-- R250, R286: HINIT on a hasp that is not initialised, with a legal count and a key id that is not 0, makes it a hasp of the task's tenant
in the mode, with the count where the mode keeps it and every other field zero.
R257, R292: JOIN makes the task a member and raises MEMBERS, LEAVE of a member that has not arrived lowers it. -/
def Obligations.HaspInitAndGroups : Prop :=
  (∀ (h b : Reg) (mode : BitVec 3) (hid : Nat) (u s : State), mode.toNat < 5 → s.tag h = false → s.tag b = false →
      (s.reg h).toNat % 64 = 0 → hid % 64 = 0 → HaspAt (s.reg h) s hid u → u.hidBad hid = false → (u.hasp hid).init = false →
      let count := (s.reg b).toNat / 4096
      let key := BitVec.ofNat 12 (s.reg b).toNat
      let startP := if mode = 0 then 0xFFFFFFFF else if mode = 1 then count else 0
      let startN : Word := if mode = 2 ∨ mode = 3 then BitVec.ofNat 64 count else 0
      key ≠ 0 → ((mode = 0 ∨ mode = 4) → count = 0) → (mode = 1 → count ≠ 0 ∧ count < 2 ^ 32) → s.core.tenant < 64 →
      ∃ t, exec (.hinit h mode b) s = .next t ∧ HaspDone s t ∧
        t.HaspIs hid { mode := mode.toNat, init := true, key := key, tenant := s.core.tenant, p := startP, n := startN }) ∧
  (∀ (h : Reg) (hid n : Nat) (k : Task) (u s : State), s.tag h = false → (s.reg h).toNat % 64 = 0 → HaspAt (s.reg h) s hid u →
      HaspOk u hid s.core.tenant → (u.hasp hid).mode = 4 → s.core.task = some n → Map.find s.tasks n = some k → Map.get {} s.tasks n = k →
      hid % 64 = 0 →
      (k.groups.contains hid = false → k.groups.length < 16 → (u.hasp hid).p + 1 < 2 ^ 32 →
        ∃ t, exec (.join h) s = .next t ∧ HaspDone s t ∧ (t.taskAt n).groups = k.groups ++ [hid] ∧
          t.HaspIs hid { u.hasp hid with p := (u.hasp hid).p + 1 }) ∧
      (k.groups.contains hid = true → k.arrived.contains hid = false → k.tenant = s.core.tenant → (u.hasp hid).q + 1 < (u.hasp hid).p →
        ∃ t, exec (.leave h) s = .next t ∧ HaspDone s t ∧ (t.taskAt n).groups.contains hid = false ∧
          t.HaspIs hid { u.hasp hid with p := (u.hasp hid).p - 1 }))

/-- R281, R282, R283: a hasp reference that is not a multiple of 64 raises ALIGN; a hasp that was never initialised refuses every operation
but HINIT with HASP reason 1, a hasp of another tenant with reason 2, and the hasp stands. -/
def Obligations.HaspRefused : Prop :=
  ∀ (h a b : Reg) (s : State), s.tag h = false → s.tag a = false → s.tag b = false → s.core.wait = .none →
    let refused := fun (i : Instr) (hid : Nat) (u : State) =>
      ((u.hasp hid).init = false → ∃ t, exec i s = .next t ∧ t.core.tcause = 12 ∧ t.core.tval = s.reg h + 1 ∧ t.core.tpc = s.core.pc ∧
        t.hasp hid = u.hasp hid) ∧
      ((u.hasp hid).broken s.core.tenant = some 2 → ∃ t, exec i s = .next t ∧ t.core.tcause = 12 ∧ t.core.tval = s.reg h + 2 ∧
        t.core.tpc = s.core.pc ∧ t.hasp hid = u.hasp hid)
    let others : List Instr := [.hacq h, .hrel h, .harr h, .hwait h, .join h, .leave h, .hsig h b]
    ((s.reg h).toNat % 64 ≠ 0 → ∀ i ∈ .key a h :: others, Traps i 3 (s.reg h) s) ∧
    ((s.reg h).toNat % 64 = 0 → s.core.ta = false → s.core.tvec ≠ 0 →
      (∀ i ∈ others, ∀ hid u, HaspAt (s.reg h) s hid u → HomeApart u hid → u.hidBad hid = false → ReleaseFree u hid →
        u.relPending hid s.core.accepted = false → refused i hid u) ∧
      (∀ hid u pa e, canonical (s.reg a) = true → s.translate s.core.proc 1 false (va57 (s.reg a)) = .frame pa e →
        HaspAt (s.reg h) (s.touch e true) hid u → u.hidBad hid = false → refused (.key a h) hid u))

/-- R287, R254: KEY writes the page's key id, the hasp's, drops the page's lines from the data cache, its stores written back, and waits for the
invalidation of the page's translations; under way, it completes once no TLB is left to acknowledge. -/
def Obligations.KeyChanges : Prop :=
  (∀ (a h : Reg) (s : State), s.tag a = false → s.tag h = false → s.core.wait = .key →
    s.pageUnacked s.core.proc (va57 (s.reg a)) = false → GoesTo (.key a h) (s.core.pc + 4) s) ∧
  (∀ (a h : Reg) (pa hid : Nat) (e : TlbEntry) (u s : State), s.tag a = false → s.tag h = false → s.core.wait ≠ .key →
    (s.reg h).toNat % 64 = 0 → canonical (s.reg a) = true → s.translate s.core.proc 1 false (va57 (s.reg a)) = .frame pa e →
    HaspAt (s.reg h) (s.touch e true) hid u → HaspOk u hid s.core.tenant →
    ∃ t, exec (.key a h) s = .next t ∧ t.core.pc = s.core.pc ∧ t.core.wait = .key ∧ s.SameRegs t ∧ pteKey (t.pteAt e.ptePa) = (u.hasp hid).key ∧
      (∀ l ∈ t.core.dcache, l.line < pteFrame e.pte / 64 ∨ (pteFrame e.pte + e.size) / 64 ≤ l.line) ∧
      (s.core.CacheWf → LinesWritten (fun l => decide (pteFrame e.pte / 64 ≤ l.line) && decide (l.line < (pteFrame e.pte + e.size) / 64)) s t) ∧
      t.pageUnacked s.core.proc e.va = true)

/-- R263, R264, R295, R296: MLDW and MMUL that pass their checks join their command stream; MLDW records the shape its slot accepted last;
MMUL empties its target lines. -/
def Obligations.MatrixAccepted : Prop :=
  ∀ (st : BitVec 2) (slot a shape : Reg) (fmt : BitVec 4) (fl : HaspFlags) (m : MmulArgs) (h : CmdHasp) (u s : State),
    let key := s.core.id % 16 * 4
    let kk := (s.reg shape).toNat % 256
    let nn := (s.reg shape).toNat / 256
    ((Instr.mldw st slot a shape fmt fl).wellFormed = true → valuesLegal (.mldw st slot a shape fmt fl) s = true →
      AllExact (.mldw st slot a shape fmt fl) s → (s.reg a).toNat % 128 = 0 → s.ownsSlot (s.reg slot).toNat = true →
      (s.reg a).toNat + blockBytes fmt (nn * kk) ≤ 65536 → FlagsAt fl s h u →
      (s.cluster.mstream (key + st.toNat)).length < 8 →
      ∃ t, exec (.mldw st slot a shape fmt fl) s = .next t ∧ Accepted (.mldw st slot a shape fmt fl) s t ∧
        t.cluster.mstream (key + st.toNat) = s.cluster.mstream (key + st.toNat) ++
          [{ load := true, slot := (s.reg slot).toNat, src := (s.reg a).toNat, fmt := fmt, k := kk, n := nn, hasp := h }] ∧
        (t.cluster.wslot (s.reg slot).toNat).accK = kk ∧ (t.cluster.wslot (s.reg slot).toNat).accN = nn ∧
        (t.cluster.wslot (s.reg slot).toNat).bytes = (s.cluster.wslot (s.reg slot).toNat).bytes) ∧
    (∀ k w, m.legal = true → valuesLegal (.mmul m) s = true → AllExact (.mmul m) s → MmulFits m k w s → FlagsAt m.fl s h u →
      (s.cluster.mstream (key + m.s.toNat)).length < 8 →
      ∃ t x, exec (.mmul m) s = .next t ∧ Accepted (.mmul m) s t ∧
        t.cluster.mstream (key + m.s.toNat) = s.cluster.mstream (key + m.s.toNat) ++ [x] ∧ x.load = false ∧ x.slot = (s.reg m.opnd).toNat % 64 ∧
        x.src = (s.reg m.a).toNat ∧ x.dst = (s.reg m.gd).toNat ∧ x.fmt = m.fmt ∧ x.k = k ∧ x.n = w ∧ x.m = (s.reg m.opnd).toNat / 256 % 65536 ∧
        x.hasp = h ∧ LinesEmptied s.core.acc t.core.acc ((s.reg m.gd).toNat / 128) (4 * ((s.reg m.opnd).toNat / 256 % 65536) * w / 128))

/-- R299 to R303, R94: XPROG, XFIRE and XCAL on an array of the tenant that is neither worn nor in a fenced lane join the array's queue; XFIRE
empties its sixteen target lines and counts an armed injection down; R303, R313: XSTAT issues and, as it completes, writes the fields of R303, exact
(that these are two steps, between which the array may go on, is the model's reading, log 21).
R279, R300 to R302, R304: a WORN array raises XWORN with reason 3, an array of a fenced lane XWORN with reason 4, a fire on a DRIFT array DRIFT
with reason 5. That reason 4 goes before reason 3, and reason 3 before reason 1 at the limit of PROGS, is the model's order (log 20). -/
def Obligations.CrossbarAccepted : Prop :=
  ∀ (arr b c d : Reg) (fl : HaspFlags) (h : CmdHasp) (u s : State),
    let n := (s.reg arr).toNat
    let x := s.cluster.array n
    let inj := s.core.inj.toNat / 65536 % 65536
    let injected := decide (s.core.inj.toNat % 16 = 1) && decide (inj = 1)
    let fenced := s.cluster.lanesFenced.contains (n / 512)
    let programs := fl.legal = true ∧ AllExact (.xprog arr b fl) s ∧ (s.reg b).toNat % 128 = 0 ∧ (s.reg b).toNat + 131076 ≤ s.core.clsz.toNat
    let fires := fl.legal = true ∧ AllExact (.xfire arr b c fl) s ∧ (s.reg b).toNat % 128 = 0 ∧ (s.reg c).toNat % 128 = 0 ∧
      (s.reg b).toNat + 640 ≤ 196608 ∧ (s.reg c).toNat + 2048 ≤ 65536
    n < 8192 → s.tag arr = false → x.owner = some s.core.tenant →
    (x.progs < 2 ^ 32 → (x.queue.filter (fun q => q.core == s.core.id)).length < 256 → x.drs < 16 → s.core.wait = .status →
      WritesFields (.xstat d arr) d (arrayFields n s) s) ∧
    (s.core.wait ≠ .status → ∃ t, exec (.xstat d arr) s = .next t ∧ t.core.wait = .status ∧ t.core.pc = s.core.pc ∧ s.SameRegs t ∧
      t = { s with core := { s.core with wait := .status, stalled := t.core.stalled } }) ∧
    (fenced = false → x.state ≠ .worn → s.cluster.xbarCount s.core.id < 16 →
      (∃ t, exec (.xcal arr) s = .next t ∧ Accepted (.xcal arr) s t ∧
        (t.cluster.array n).queue = x.queue ++ [{ kind := 2, core := s.core.id, acquired := true }]) ∧
      (programs → FlagsAt fl s h u → x.progs < 1000000 → ∃ t, exec (.xprog arr b fl) s = .next t ∧ Accepted (.xprog arr b fl) s t ∧
        (t.cluster.array n).queue = x.queue ++ [{ kind := 0, core := s.core.id, src := (s.reg b).toNat, hasp := h, acquired := !h.acq }]) ∧
      (fires → FlagsAt fl s h u → x.state ≠ .drift →
        ∃ t, exec (.xfire arr b c fl) s = .next t ∧ Accepted (.xfire arr b c fl) s t ∧
          (t.cluster.array n).queue = x.queue ++ [{ kind := 1, core := s.core.id, src := (s.reg b).toNat, dst := (s.reg c).toNat, hasp := h, inject := injected, acquired := !h.acq }] ∧
          LinesEmptied s.core.acc t.core.acc ((s.reg c).toNat / 128) 16 ∧
          (s.core.inj.toNat % 16 = 1 → inj ≠ 0 → t.core.inj.toNat / 65536 % 65536 = inj - 1) ∧
          (s.core.inj.toNat % 16 ≠ 1 → t.core.inj = s.core.inj))) ∧
    (s.core.ta = false → s.core.tvec ≠ 0 →
      let worn := BitVec.ofNat 64 (x.progs * 2 ^ 32 + (if fenced then 4 else 3) * 2 ^ 20 + n)
      (fenced = true ∨ x.state = .worn →
        Traps (.xcal arr) 8 worn s ∧
        (programs → FlagsAt fl s h u → ∃ t, exec (.xprog arr b fl) s = .next t ∧ u.Trapped 8 worn t) ∧
        (fires → FlagsAt fl s h u → ∃ t, exec (.xfire arr b c fl) s = .next t ∧ u.Trapped 8 worn t)) ∧
      (fenced = false → x.state = .drift → fires → FlagsAt fl s h u →
        ∃ t, exec (.xfire arr b c fl) s = .next t ∧ u.Trapped 7 (BitVec.ofNat 64 (5 * 2 ^ 20 + n)) t))

/-- R345 to R355: the fibre instructions on a header in reach with no damage: FNEW makes a live, empty fibre of the tenant's pool; FMERGE and
FMRGF are posted to the home's queue; FSTAT and FPROBE write what the header and the chain hold, exact; FCLR empties a fibre and keeps its
attributes; FFREE clears the header.
R346, R355: FSTAT answers a header that is not live, and raises PROT with reason 3 on another tenant's live header, with reason 4 on one whose
attributes are not admitted (that a zero bit of R332 which is set counts as such is the model's reading, log 70).
R346, R347: at issue a header that is not a multiple of 64 raises ALIGN, one without a fibre page that gives the right PROT with reason 0,
the reserved key PROT with reason 6. -/
def Obligations.FibreInstructions : Prop :=
  (∀ (d a b : Reg) (fmt : BitVec 4) (pa pb : Nat) (e eb : TlbEntry) (s : State),
    s.tag a = false → s.tag b = false → s.core.postFails = [] → s.core.asyncs = [] →
    s.fibDamaged pa .chain = false → pa % 64 = 0 →
    let u := s.touch e true
    let w := (s.reg b).toNat
    let idle := s.fibPending s.taskNum (pa / 64 * 64) s.core.accepted = false
    ((s.reg a).toNat % 64 = 0 → idle → FibreAt (s.reg a) true pa e s → (s.fhdr pa).live = false → (s.fhdr pa).bad = false →
      (∃ p, Map.find (s.dieAt (paStack pa)).pools (w / 2 ^ 32 % 2 ^ 16) = some p ∧ p.tenant = s.core.tenant) → w / 2 ^ 48 = 0 →
      w / 2 ^ 20 % 2 ^ 12 = 0 → w / 64 % 4 = 0 → fibAdmitted (w % 4) (w / 4 % 8) (w / 32 % 2 == 1) = true →
      ∃ t, exec (.fnew a b) s = .next t ∧ HaspDone s t ∧
        t.fhdr pa = { attr := 2 ^ 31 + s.core.tenant % 64 * 2 ^ 20 + w % 2 ^ 20, pool := w / 2 ^ 32 % 2 ^ 16 }) ∧
    ((s.reg a).toNat % 64 = 0 → FibreAt (s.reg a) true pa e s → w < 0xFFFFFFFF → s.tag d = false → mergeCode fmt = true → s.core.posted < 16 →
      ∃ t x, exec (.fmerge a b d fmt) s = .next t ∧ HaspDone s t ∧ t.core.posted = s.core.posted + 1 ∧ t.mem = s.mem ∧
        (t.dieAt (paStack pa)).fibQueue s.taskNum = (u.dieAt (paStack pa)).fibQueue s.taskNum ++ [x] ∧ x.kind = 0 ∧ x.hdr = pa ∧ x.key = low32 (s.reg b) ∧
        x.val = low32 (s.reg d) ∧ x.fmt = fmt ∧ x.tenant = s.core.tenant) ∧
    ((s.reg a).toNat % 64 = 0 → (s.reg b).toNat % 64 = 0 → FibreAt (s.reg a) true pa e s → FibreAt (s.reg b) false pb eb u → pa ≠ pb →
      s.core.posted < 16 → ∃ t x, exec (.fmrgf a b) s = .next t ∧ HaspDone s t ∧ t.core.posted = s.core.posted + 1 ∧ t.mem = s.mem ∧
        (t.dieAt (paStack pa)).fibQueue s.taskNum = (s.dieAt (paStack pa)).fibQueue s.taskNum ++ [x] ∧ x.kind = 1 ∧ x.hdr = pa ∧ x.src = pb) ∧
    ((s.reg a).toNat % 64 = 0 → idle → FibreAt (s.reg a) false pa e s → w < 0xFFFFFFFF → s.fibCheck pa s.core.tenant none false = none →
      ∃ t, exec (.fprobe d a b) s = .next t ∧ s.Advanced 4 (s.core.pc + 4) t ∧ t.mem = s.mem ∧
        s.Wrote d (match (((s.fibChain pa).flatMap (fun g => g.ents)).find? (fun x => x.1 == low32 (s.reg b))) with
          | some x => BitVec.ofNat 64 (2 ^ 32 + x.2.toNat)
          | none => 0) false t) ∧
    ((s.reg a).toNat % 64 = 0 → idle → FibreAt (s.reg a) false pa e s →
      ((s.fhdr pa).live = true → (s.fhdr pa).tenant = s.core.tenant ∧ (s.fhdr pa).admitted = true) →
      ∃ t, exec (.fstat d a) s = .next t ∧ s.Advanced 4 (s.core.pc + 4) t ∧ t.mem = s.mem ∧ s.Wrote d (BitVec.ofNat 64 (s.memNat pa 8)) false t) ∧
    ((s.reg a).toNat % 64 = 0 → idle → FibreAt (s.reg a) false pa e s → (s.fhdr pa).live = true →
      ((s.fhdr pa).tenant ≠ s.core.tenant ∨ (s.fhdr pa).admitted = false) → s.core.ta = false → s.core.tvec ≠ 0 →
      ∃ t, exec (.fstat d a) s = .next t ∧ s.SameRegs t ∧ t.mem = s.mem ∧ t.core.tcause = 4 ∧ t.core.tpc = s.core.pc ∧
        t.core.tval = s.reg a + (if (s.fhdr pa).tenant ≠ s.core.tenant then 3 else 4)) ∧
    ((s.reg a).toNat % 64 = 0 → idle → FibreAt (s.reg a) true pa e s → s.fibCheck pa s.core.tenant none true = none →
      (∀ g ∈ s.fibChain pa, rowPa (paStack pa) g.row + 1024 ≤ pa ∨ pa + 64 ≤ rowPa (paStack pa) g.row) →
      (∃ t, exec (.fclr a) s = .next t ∧ HaspDone s t ∧
        t.fhdr pa = { attr := if (s.fhdr pa).bad then (s.fhdr pa).attr - 128 else (s.fhdr pa).attr, pool := (s.fhdr pa).pool } ∧
        ∀ p, Map.find (s.dieAt (paStack pa)).pools (s.fhdr pa).pool = some p →
          ∃ q, Map.find (t.dieAt (paStack pa)).pools (s.fhdr pa).pool = some q ∧ q.used = p.used - (s.fibChain pa).length) ∧
      (∃ t, exec (.ffree a) s = .next t ∧ HaspDone s t ∧ ∀ k, k < 64 → t.memByte (pa + k) = 0))) ∧
  (∀ (a b d : Reg) (pa : Nat) (e : TlbEntry) (s : State), s.tag a = false → s.tag b = false → s.tag d = false → s.core.postFails = [] →
    s.core.asyncs = [] → s.core.wait ≠ .reply →
    ((s.reg a).toNat % 64 ≠ 0 → Traps (.fmerge a b d 0) 3 (s.reg a) s ∧ Traps (.fclr a) 3 (s.reg a) s ∧ Traps (.fnew a b) 3 (s.reg a) s) ∧
    ((s.reg a).toNat % 64 = 0 → canonical (s.reg a) = true → s.translate s.core.proc 1 true (va57 (s.reg a)) = .right →
      Traps (.fmerge a b d 0) 4 (s.reg a) s ∧ Traps (.fclr a) 4 (s.reg a) s ∧ Traps (.ffree a) 4 (s.reg a) s ∧ Traps (.fnew a b) 4 (s.reg a) s) ∧
    ((s.reg a).toNat % 64 = 0 → FibreAt (s.reg a) true pa e s → 0xFFFFFFFF ≤ (s.reg b).toNat → s.core.ta = false → s.core.tvec ≠ 0 →
      ∃ t, exec (.fmerge a b d 0) s = .next t ∧ t.core.tcause = 4 ∧ t.core.tval = s.reg a + 6 ∧ t.core.tpc = s.core.pc ∧ s.SameRegs t ∧
        t.core.posted = s.core.posted))

/-- R362, R363: PDISCARD of no bytes completes at once, of a range not in whole 64 KiB pages raises ALIGN; it completes past the last mapped page
of its range once no change in the range is left to acknowledge; a hint completes whatever it names and changes no byte and no register.
R363, R323, R325: TLB of one page that no last-level entry translates yet brings its leaf there, with A set.
R363, R327: FILL of one ZERO or SWAPPED page brings its serving pager a fault for it, which stays pending at the core while that pager's queue
is full.
R362, R325: PDISCARD turns the first PRESENT page of its range into a DISCARDED one, once no hasp operation is under way in it, and waits until
the change is acknowledged. R328, R393, R402: tables that the core cannot read fail it as they fail an access: with a fault of reason 4, and PROT once
that is fatal. -/
def Obligations.PageInstructions : Prop :=
  (∀ (a b : Reg) (s : State), s.tag a = false → s.tag b = false →
    let lo := (s.reg a).toNat
    let hi := (s.reg a).toNat + (s.reg b).toNat
    (lo % 65536 ≠ 0 → Traps (.pdiscard a b) 3 (s.reg a) s) ∧
    (lo % 65536 = 0 → (s.reg b).toNat % 65536 ≠ 0 → Traps (.pdiscard a b) 3 (s.reg b) s) ∧
    (lo % 65536 = 0 → (s.reg b).toNat = 0 → GoesTo (.pdiscard a b) (s.core.pc + 4) s) ∧
    (lo % 65536 = 0 → (s.reg b).toNat % 65536 = 0 → (s.reg b).toNat ≠ 0 → (∀ d, s.core.wait ≠ .pages d) → s.tableBad s.core.proc lo hi = none → s.discardCheck lo hi = none →
      s.leaves s.core.proc lo hi = [] → (∀ u ∈ s.pkg.unacked, u.1 = s.core.proc → meets u.2.1 u.2.2 lo hi = false) →
      GoesTo (.pdiscard a b) (s.core.pc + 4) s) ∧
    (∀ d, lo % 65536 = 0 → (s.reg b).toNat % 65536 = 0 → (s.reg b).toNat ≠ 0 → s.core.wait = .pages d → s.tableBad s.core.proc d hi = none →
      (∀ e ∈ s.leaves s.core.proc lo hi, wideVa e.va < d) → (∀ u ∈ s.pkg.unacked, u.1 = s.core.proc → meets u.2.1 u.2.2 lo hi = false) →
      GoesTo (.pdiscard a b) (s.core.pc + 4) s) ∧
    (∀ va, lo % 65536 = 0 → (s.reg b).toNat % 65536 = 0 → (s.reg b).toNat ≠ 0 → (∀ d, s.core.wait ≠ .pages d) → s.tableBad s.core.proc lo hi = some va →
      (s.core.fatal = some (faultVa va) → Traps (.pdiscard a b) 4 va s) ∧
      (s.core.fatal ≠ some (faultVa va) → ∃ t, exec (.pdiscard a b) s = .next t ∧ t.core.pc = s.core.pc ∧ t.core.stalled = true ∧ s.SameRegs t ∧
        t.mem = s.mem ∧ t.ptes = s.ptes ∧ (s.faultSent .thread va = false → s.core.faults = [] → ∃ f, t.core.faults = [f] ∧ f.reason = 4))) ∧
    (∀ i ∈ [Instr.phintTlb a b, .phintFill a b, .phintCold a b, .phintNear a b], ∃ t, exec i s = .next t ∧ s.SameRegs t ∧
      s.Advanced 4 (s.core.pc + 4) t ∧ t.mem = s.mem ∧ (i ≠ .phintTlb a b → t.ptes = s.ptes) ∧
      (i ≠ .phintFill a b → Core.SameButThread s.core t.core) ∧ Core.SameButThread s.core { t.core with faults := s.core.faults }) ∧
    (∀ e, s.hinted (s.reg a) (s.reg b) = [e] → pteState e.pte = 0 ∨ pteState e.pte = 4 → tlbFind s.die.tlb e.proc e.va = none →
      ∃ t, exec (.phintTlb a b) s = .next t ∧ t.die.tlb.head? = some { e with pte := e.pte ||| 0x800 } ∧ t.pteAt e.ptePa = e.pte ||| 0x800) ∧
    (∀ e, s.hinted (s.reg a) (s.reg b) = [e] → pteState e.pte = 1 ∨ pteState e.pte = 2 →
      let stack := paStack (pteFrame e.pte)
      let token : FaultTok := { proc := e.proc, va := e.va, core := s.core.id, unit := .hint }
      s.stackGone stack = false → ∃ t, exec (.phintFill a b) s = .next t ∧
        (((s.dieAt stack).pager.length < 256 ∧ (t.dieAt stack).pager = (s.dieAt stack).pager ++ [token] ∧ t.core.faults = s.core.faults) ∨
          (256 ≤ (s.dieAt stack).pager.length ∧ (t.dieAt stack).pager = (s.dieAt stack).pager ∧ t.core.faults = s.core.faults ++ [token])))) ∧
  (∀ (a b : Reg) (e : TlbEntry) (rest : List TlbEntry) (s : State), s.tag a = false → s.tag b = false →
    let lo := (s.reg a).toNat
    let hi := (s.reg a).toNat + (s.reg b).toNat
    lo % 65536 = 0 → (s.reg b).toNat % 65536 = 0 → (s.reg b).toNat ≠ 0 → (∀ d, s.core.wait ≠ .pages d) → s.tableBad s.core.proc lo hi = none → s.discardCheck lo hi = none →
    s.leaves s.core.proc lo hi = e :: rest → pteState e.pte = 0 →
    s.haspBusy (pteFrame e.pte) e.size = false →
    ∃ t, exec (.pdiscard a b) s = .next t ∧ t.core.pc = s.core.pc ∧ t.core.wait = .pages (wideVa e.va + e.size) ∧ s.SameRegs t ∧
      t.mem = s.mem ∧ pteState (t.pteAt e.ptePa) = 4 ∧ t.pageUnacked s.core.proc e.va = true)
namespace Sys2Proof.Machine

/-- Nothing but the core's fabric changed. -/
def FabOnly (s u : State) : Prop := u = { s with core := { s.core with fab := u.core.fab } }

/-- A step of a target: nothing but the fabric changed, and every other target keeps its slots and its operator state. -/
def FiringOf (t : Nat) (s u : State) : Prop :=
  FabOnly s u ∧ ∀ x, x ≠ t → (∀ q, q < 4 → u.core.fab.slot x q = s.core.fab.slot x q) ∧ u.core.fab.opOf x = s.core.fab.opOf x

/-- A token as a firing of this cycle emits it. -/
def State.fresh (s : State) (k : Token) : Flight := { tok := k, born := s.cyc, came := s.cyc }

/-- A target sent a token (R18, R58): it stands in the first stage of each route that the mask selects, or, where the operator takes more than
one cycle, behind the results on their way. -/
def Sent (t mask : Nat) (k : Token) (s u : State) : Prop :=
  if (s.core.fab.cfg t).latency t ≤ 1 then ∀ i ∈ s.core.fab.firsts t mask, Map.find u.core.fab.stages i = some (s.fresh k)
  else u.core.fab.pipe t = s.core.fab.pipe t ++ [s.fresh k]

/-- A firing used the token of a port (R13, R14): it is gone, or, resident, has one use fewer; a count of 0xFFFF stays. -/
def TokenUsed (t q : Nat) (s u : State) : Prop :=
  ∀ v, s.core.fab.slot t q = some v → u.core.fab.slot t q =
    if v.resident = true ∧ v.left ≠ 1 then (if v.left = 0xFFFF then some v else some { v with left := v.left - 1 }) else none

/-- No debugger is attached to the task on the core. -/
def Undebugged (s : State) : Prop := (s.taskAt s.taskNum).debug = false

/-- An asynchronous trap joined those that the core holds. -/
def Held (cause : Nat) (value : Word) (s u : State) : Prop := u.core.asyncs = s.core.asyncs ++ [{ cause := cause, value := value }]

/-- A step of a generic operator: the step, its OPER code (R57), its result from the configuration and a, b, c. -/
abbrev OperatorStep := (Nat → Instr) × Nat × (Plane → Nat → W32 → W32 → W32 → Option W32)

/-- The floating-point operators (R61 to R63). -/
def floatSteps : List OperatorStep :=
  [(.faddElement, 0x01, fun p t a b _ => some (fadd32 (p.rm t) (p.sat t) a b)), (.fsubElement, 0x02, fun p t a b _ => some (fsub32 (p.rm t) (p.sat t) a b)),
   (.fmulElement, 0x03, fun p t a b _ => some (fmul32 (p.rm t) (p.sat t) a b)), (.fmaElement, 0x04, fun p t a b c => some (fma32 (p.rm t) (p.sat t) a b c)),
   (.fmsElement, 0x05, fun p t a b c => some (fms32 (p.rm t) (p.sat t) a b c)), (.fminElement, 0x06, fun _ _ a b _ => some (smallerOf a b)),
   (.fmaxElement, 0x07, fun _ _ a b _ => some (largerOf a b)),
   (.fabsElement, 0x08, fun _ _ a _ _ => some (if isNaNWord a then 0x7FC00000 else a &&& 0x7FFFFFFF)),
   (.fnegElement, 0x09, fun _ _ a _ _ => some (if isNaNWord a then 0x7FC00000 else a ^^^ 0x80000000)),
   (.frcpElement, 0x0A, fun p t a _ _ => some (frcp32 (p.rm t) (p.sat t) a)), (.frsqElement, 0x0B, fun p t a _ _ => some (frsq32 (p.rm t) (p.sat t) a)),
   (.fsqrtElement, 0x0C, fun p t a _ _ => some (fsqrt32 (p.rm t) (p.sat t) a)), (.fdivElement, 0x0D, fun p t a b _ => some (fdiv32 (p.rm t) (p.sat t) a b)),
   (.frndElement, 0x0E, fun p t a _ _ => some (frnd32 (p.rm t) a))]

/-- The integer operators (R64). -/
def integerSteps : List OperatorStep :=
  [(.iaddElement, 0x10, fun _ _ a b _ => some (a + b)), (.isubElement, 0x11, fun _ _ a b _ => some (a - b)), (.imulElement, 0x12, fun _ _ a b _ => some (a * b)),
   (.imulhElement, 0x13, fun p t a b _ => some (if p.fmt t = 8 then BitVec.ofInt 32 (a.toInt * b.toInt / 2 ^ 32) else BitVec.ofNat 32 (a.toNat * b.toNat / 2 ^ 32))),
   (.imadElement, 0x14, fun _ _ a b c => some (a * b + c)),
   (.iminElement, 0x15, fun p t a b _ => some (if (if p.fmt t = 8 then decide (b.toInt < a.toInt) else decide (b.toNat < a.toNat)) then b else a)),
   (.imaxElement, 0x16, fun p t a b _ => some (if (if p.fmt t = 8 then decide (a.toInt < b.toInt) else decide (a.toNat < b.toNat)) then b else a)),
   (.andElement, 0x17, fun _ _ a b _ => some (a &&& b)), (.orElement, 0x18, fun _ _ a b _ => some (a ||| b)), (.xorElement, 0x19, fun _ _ a b _ => some (a ^^^ b)),
   (.andnElement, 0x1A, fun _ _ a b _ => some (a &&& ~~~b)), (.shlElement, 0x1B, fun _ _ a b _ => some (a <<< (b.toNat % 32))),
   (.shrElement, 0x1C, fun p t a b _ => some (if p.fmt t = 8 then a.sshiftRight (b.toNat % 32) else a >>> (b.toNat % 32))),
   (.clzElement, 0x1D, fun _ _ a _ _ => some (BitVec.ofNat 32 (leadingZeros 32 a.toNat))),
   (.popcElement, 0x1E, fun _ _ a _ _ => some (BitVec.ofNat 32 ((List.range 32).countP (fun k => a.getLsbD k))))]

/-- Compares, selection, conversion, ACCEPT (R65 to R67, R75). -/
def choiceSteps : List OperatorStep :=
  [(.fcmpElement, 0x20, fun p t a b _ => some (if compareHolds (BitVec.ofNat 3 (p.opf0 t)) a b then 1 else 0)),
   (.icmpElement, 0x21, fun p t a b _ => some (if icond (BitVec.ofNat 3 (p.opf0 t)) (p.fmt t == 8) a b then 1 else 0)),
   (.selElement, 0x22, fun _ _ a b c => some (if a = 0 then c else b)), (.passElement, 0x23, fun _ _ a _ _ => some a),
   (.fcvtElement, 0x28, fun p t a _ _ => some (fcvtToken (p.fmt t) (BitVec.ofNat 4 (p.opf0 t)) (p.rm t) (p.sat t) a)),
   (.acceptElement, 0x3E, fun p t a b c =>
     let tol := if p.used t 2 then c else p.k t
     if !isNaNWord tol && acceptTest (p.fmt t == 2) (fromLow32 a) b b && decide (fixedOf (b &&& 0x7FFFFFFF) ≤ fixedOf tol) then some a else none)]

/-- The operators of the generic rule. -/
def operatorSteps : List OperatorStep := floatSteps ++ integerSteps ++ choiceSteps

/-- The plane that a target follows, for a trap's TVAL (R25, R86). -/
def planeOf (t : Nat) (s : State) : Nat := (s.core.fab.follows t).getD s.core.fab.act

end Sys2Proof.Machine

/-- R21, R57, R59, R61 to R67, R75: a generic operator whose used ports hold data, and whose result finds room, uses one token of each and
sends its value with the sideband, ACCEPT with a's; bubbles and control tokens pass, dropping the tokens that are not resident; mixed classes hold ELEM with
the sub-code, ACCEPT's failed bound BOUND. ELEMENT_FIRE is the same firing; a parity error in a token holds ELEM 0x2. R22: a drain that passes is sent
on, and clears every resident token and all operator state of the element, which waits for its change-over. -/
def Obligations.OperatorFirings : Prop :=
  ∀ p ∈ operatorSteps, ∀ (t : Nat) (sb : BitVec 2) (v : W32) (s : State),
    let f := s.core.fab
    f.ready t p.2.1 = true → f.present t = true → f.canEmit t 15 = true → Undebugged s →
    let value := p.2.2 (f.cfg t) t (f.tok t 0).data (f.tok t 1).data (f.tok t 2).data
    let element := if t < 128 then t else (2 * ((t - 128) / 16)) * 16 + (t - 128) % 16
    (f.check t (f.live t) = .data sb → value = some v →
      ∃ u, exec (p.1 t) s = .next u ∧ FiringOf t s u ∧
      Sent t 15 (dataToken (if p.2.1 = 0x3E then (f.tok t 0).sb else sb) v) s u ∧ ∀ q ∈ (f.cfg t).usedPorts t, TokenUsed t q s u) ∧
    (f.check t (f.live t) = .bubbles → ∃ u, exec (p.1 t) s = .next u ∧ FiringOf t s u ∧ Sent t 15 bubble s u ∧
      ∀ q, q < 4 → u.core.fab.slot t q = if q ∈ f.live t then none else f.slot t q) ∧
    (∀ k, k % 2 ^ 32 ≠ 2 → f.check t (f.live t) = .ctl k → ∃ u, exec (p.1 t) s = .next u ∧ FiringOf t s u ∧ Sent t 15 (ctlToken k) s u ∧
      ∀ q, q < 4 → u.core.fab.slot t q = if q ∈ f.live t then none else f.slot t q) ∧
    (∀ k, k % 2 ^ 32 = 2 → f.check t (f.live t) = .ctl k → ∃ u, exec (p.1 t) s = .next u ∧ FiringOf t s u ∧ Sent t 15 drainToken s u ∧
      (∀ q, q < 4 → u.core.fab.slot t q = none) ∧ u.core.fab.opOf t = { out := (f.opOf t).out } ∧
      u.core.fab.switch = f.switch.map (fun w => { w with last := s.cyc, fired := w.fired ++ [t] })) ∧
    (∀ sub q, f.check t (f.live t) = .err sub q → ∃ u, exec (p.1 t) s = .next u ∧
      Held 16 (elemValue (planeOf t s) sub (if t < 128 then q else 4) element) s u) ∧
    (f.check t (f.live t) = .data sb → value = none → ∃ u, exec (p.1 t) s = .next u ∧
      Held 6 (BitVec.ofNat 64 ((f.tok t 1).data.toNat * 2 ^ 32 + 2 ^ 31 + planeOf t s % 4 * 2 ^ 18 + 3 * 2 ^ 16 + element % 128)) s u) ∧
    exec (.elementFire t none) s = exec (p.1 t) s ∧
    (t < 192 → ∀ q, ∃ u, exec (.elementFire t (some (.token q))) s = .next u ∧
      Held 16 (elemValue (planeOf t s) 2 (if t < 128 then q else 4) element) s u)

/-- R68 to R77: the operators with a firing rule of their own. BXQ takes a token into its block, and a full or row-ending one closes it; FACC
and IACC sum, and the launch's last element sends the sum; CTR begins a run from its token and sends the next index (the step that begins a run sends nothing, and the
next one sends index 0, where R70 has both in one cycle: logs 4 and 38); STEER sends to the mask
that its predicate selects; MERGE passes by arrival or by its select; CARRY passes its start, then circulates, then ends; RANK takes a score and
its index; CONST sends K; SINK consumes a token and holds EOS. -/
def Obligations.StatefulOperators : Prop :=
  ∀ (t : Nat) (s : State), Undebugged s →
    let f := s.core.fab
    let p := f.cfg t
    let o := f.opOf t
    let a := f.tok t 0
    let b := f.tok t 1
    let c := f.tok t 2
    (f.ready t 0x29 = true → f.vacant t 0 = false → f.canEmit t 15 = true → a.isData = true →
      let l := o.block ++ [(a.data, a.sb)]
      (l.length ≠ 32 → a.sb ≠ 1 → a.sb ≠ 3 →
        ∃ u, exec (.bxqElement t) s = .next u ∧ FiringOf t s u ∧ TokenUsed t 0 s u ∧ u.core.fab.opOf t = { o with block := l }) ∧
      ((l.length = 32 ∨ a.sb = 1 ∨ a.sb = 3) → ∃ u, exec (.bxqElement t) s = .next u ∧ FiringOf t s u ∧ TokenUsed t 0 s u ∧
        u.core.fab.opOf t = { o with block := [], pend := bxTokens (p.rm t) (p.sat t) (p.opf0 t) l })) ∧
    (∀ i ∈ ([(.faccElement, 0x30, fun x y => fadd32 (p.rm t) (p.sat t) x y), (.iaccElement, 0x31, fun x y => x + y)] :
        List ((Nat → Instr) × Nat × (W32 → W32 → W32))),
      f.ready t i.2.1 = true → f.vacant t 0 = false → f.canEmit t 15 = true → a.isData = true → p.used t 1 = false →
      let v := if o.accOpen then i.2.2 o.acc a.data else a.data
      (a.sb = 3 → ∃ u, exec (i.1 t) s = .next u ∧ FiringOf t s u ∧ TokenUsed t 0 s u ∧ Sent t 15 (dataToken 3 v) s u ∧
        u.core.fab.opOf t = { o with accOpen := false, acc := 0 }) ∧
      (a.sb = 0 → ∃ u, exec (i.1 t) s = .next u ∧ FiringOf t s u ∧ TokenUsed t 0 s u ∧ u.core.fab.opOf t = { o with accOpen := true, acc := v })) ∧
    (f.ready t 0x34 = true → p.flg t = false →
      (o.run = none → p.used t 0 = true → f.vacant t 0 = false → a.isData = true → a.data ≠ 0 →
        ∃ u, exec (.ctrElement t) s = .next u ∧ FiringOf t s u ∧ TokenUsed t 0 s u ∧
          u.core.fab.opOf t = { o with started := true, run := some { i := 0, n := a.data.toNat, fin := if a.sb = 3 then 3 else 1 } }) ∧
      (∀ r, o.run = some r → p.thr t = false → (o.lastIndex = none ∨ o.lastEmit + p.ii t ≤ s.cyc) → f.canEmit t 15 = true →
        ∃ u, exec (.ctrElement t) s = .next u ∧ FiringOf t s u ∧
          Sent t 15 (dataToken (if r.i + 1 = r.n then r.fin else 0) (BitVec.ofNat 32 r.i)) s u ∧
          (u.core.fab.opOf t).run = (if r.i + 1 = r.n then none else some { r with i := r.i + 1 }) ∧ (u.core.fab.opOf t).lastEmit = s.cyc)) ∧
    (∀ sb, f.ready t 0x38 = true → f.present t = true → f.check t (f.live t) = .data sb →
      let mask := if b.data ≠ 0 then p.opf0 t % 16 else 15 - p.opf0 t % 16
      f.canEmit t mask = true → ∃ u, exec (.steerElement t) s = .next u ∧ FiringOf t s u ∧ Sent t mask a s u ∧
        ∀ q ∈ p.usedPorts t, TokenUsed t q s u) ∧
    (f.ready t 0x39 = true → f.canEmit t 15 = true →
      (p.opf0 t % 2 = 1 → f.vacant t 0 = false → a.ctl = false →
        ∃ u, exec (.mergeElement t) s = .next u ∧ FiringOf t s u ∧ Sent t 15 a s u ∧ u.core.fab.slot t 0 = none ∧
          u.core.fab.slot t 1 = f.slot t 1) ∧
      (p.opf0 t % 2 = 0 → f.vacant t 2 = false → c.isData = true →
        let q := if c.data ≠ 0 then 0 else 1
        f.vacant t q = false → (f.tok t q).ctl = false → ∃ u, exec (.mergeElement t) s = .next u ∧ FiringOf t s u ∧ Sent t 15 (f.tok t q) s u ∧
          u.core.fab.slot t q = none ∧ u.core.fab.slot t 2 = none ∧ u.core.fab.slot t (1 - q) = f.slot t (1 - q))) ∧
    (f.ready t 0x3A = true →
      (o.looping = false → f.vacant t 0 = false → f.canEmit t 15 = true → a.isData = true →
        ∃ u, exec (.carryElement t) s = .next u ∧ FiringOf t s u ∧ Sent t 15 a s u ∧ u.core.fab.slot t 0 = none ∧
          u.core.fab.opOf t = { o with looping := true }) ∧
      (o.looping = true → f.vacant t 2 = false → c.isData = true →
        (c.data = 0 → ∃ u, exec (.carryElement t) s = .next u ∧ FiringOf t s u ∧ u.core.fab.slot t 2 = none ∧
          u.core.fab.opOf t = { o with looping := false }) ∧
        (c.data ≠ 0 → f.vacant t 1 = false → b.isData = true → f.canEmit t 15 = true →
          ∃ u, exec (.carryElement t) s = .next u ∧ FiringOf t s u ∧ Sent t 15 b s u ∧ u.core.fab.slot t 1 = none ∧ u.core.fab.slot t 2 = none))) ∧
    (f.ready t 0x3C = true → f.vacant t 0 = false → o.pend = [] → a.isData = true →
      (o.score = none → a.sb = 0 → ∃ u, exec (.rankElement t) s = .next u ∧ FiringOf t s u ∧ u.core.fab.slot t 0 = none ∧
        u.core.fab.opOf t = { o with score := some a.data }) ∧
      (∀ x, o.score = some x → a.sb = 0 → o.kept = none → isNaNWord x = false → ∃ u, exec (.rankElement t) s = .next u ∧ FiringOf t s u ∧
        u.core.fab.slot t 0 = none ∧ u.core.fab.opOf t = { o with score := none, kept := some (x, a.data) })) ∧
    (f.ready t 0x40 = true → f.canEmit t 15 = true → p.opf0 t % 2 = 0 →
      (p.used t 0 = true → f.vacant t 0 = false → a.isData = true → ∃ u, exec (.constElement t) s = .next u ∧ FiringOf t s u ∧
        Sent t 15 (dataToken a.sb (p.k t)) s u ∧ TokenUsed t 0 s u) ∧
      (p.used t 0 = false → f.sourceRuns t = true → o.count < p.opf1 t → ∃ u, exec (.constElement t) s = .next u ∧ FiringOf t s u ∧
        Sent t 15 (dataToken (if o.count + 1 = p.opf1 t then 3 else 0) (p.k t)) s u ∧ u.core.fab.opOf t = { o with count := o.count + 1 })) ∧
    (f.ready t 0x41 = true → f.vacant t 0 = false →
      (a.ctl = false → ∃ u, exec (.sinkElement t) s = .next u ∧ FiringOf t s u ∧ u.core.fab.slot t 0 = none) ∧
      (a = eosToken → ∃ u, exec (.sinkElement t) s = .next u ∧ FiringOf t s u ∧ u.core.fab.slot t 0 = f.slot t 0 ∧
        u.core.fab.opOf t = { o with heldEos := true }))

namespace Sys2Proof.Machine

/-- The classes of R99 in their order; the plane loader is of a stream engine's (R228). -/
def bankClass : BankAgent → Nat
  | .matrix _ true | .fire _ true => 1
  | .matrix _ false | .fire _ false => 2
  | .stream _ _ | .copy _ | .loader => 3
  | .fabric _ => 4
  | .thread => 5

/-- Of two fabric elements, which the round by element index reaches first behind the one granted last (R99). -/
def RoundFirst (turn : Nat) (r q : BankReq) : Prop :=
  ∃ a b, r.agent = .fabric a ∧ q.agent = .fabric b ∧ a < 192 ∧ b < 192 ∧ ((turn < a ∧ (a < b ∨ b ≤ turn)) ∨ (a < b ∧ b ≤ turn))

/-- Which of two requests a bank grants first (R99): one that has waited 16 cycles, the oldest of those, then by class, then by the round of the
fabric's elements. -/
def GrantedFirst (cyc turn : Nat) (r q : BankReq) : Prop :=
  (r.born + 16 ≤ cyc ∧ cyc < q.born + 16) ∨
  (r.born + 16 ≤ cyc ∧ q.born + 16 ≤ cyc ∧ r.born < q.born) ∨
  (cyc < r.born + 16 ∧ cyc < q.born + 16 ∧ (bankClass r.agent < bankClass q.agent ∨ RoundFirst turn r q))

/-- A request asks one bank, by the address bits that R99 names. -/
def AsksBank (buf : BitVec 3) (bank : Nat) (r : BankReq) : Prop :=
  r.buf = buf ∧ 0 < r.len ∧ r.addr / 8 = (r.addr + r.len - 1) / 8 ∧ r.addr / 8 % (if buf = 2 then 32 else 16) = bank

/-- The head access of a target, if it is one to a bank, is granted there: no request with precedence stands in its way (R99). -/
def FabricGranted (t : Nat) (s : State) : Prop :=
  (∀ r ∈ s.core.bankReqs, r.agent ≠ .fabric t) ∧
  ∀ r, s.core.fabricReqs.find? (fun r => r.agent == .fabric t) = some r → s.core.bankFree s.cluster s.cyc r = true

/-- A byte of the space of a fabric access as the core sees it: act:, acc: or its partition of cls: (R78, R85). -/
def fabricByte (sp : Nat) (s : State) (y : Nat) : Byte :=
  if sp = 2 then s.clsByte y else (s.core.buf (if sp = 0 then 1 else 3)).byte y

end Sys2Proof.Machine

/-- R79 to R83, R85, R99, R100: a firing of LD, ST or ATADD puts its access, at K plus its index times the format's size, behind those of the
target; a load's access brings its value, a store's writes its bytes, an ATADD's brings the old value and writes the sum. A store or an ATADD
to cls: writes the cluster's store at once, where every agent's next access finds it: R85 makes a fabric write visible to other agents outside the
core only after the drain and a release, which the model reads as from when they may count on it (DEDUCED, log 103). Of two requests that stand at a bank, one has precedence
by its age, its class or the round: its bank grants it, the fabric's by performing its access. -/
def Obligations.FabricMemory : Prop :=
  ∀ (t : Nat) (s : State), Undebugged s →
    let f := s.core.fab
    let p := f.cfg t
    let o := f.opOf t
    let addr := (p.k t).toNat + (f.tok t 0).data.toNat * fmtSize (p.fmt t)
    let off := p.used t 3 && (f.tok t 3).data == 0
    (∀ i ∈ ([(.ldElement, 0x44, 0), (.stElement, 0x45, 1), (.ataddElement, 0x46, 2)] : List ((Nat → Instr) × Nat × Nat)), ∀ sb,
      f.ready t i.2.1 = true → f.present t = true → o.out.length < 16 → (f.pipe t).length < p.latency t - 1 → f.check t (f.live t) = .data sb →
      (off = true ∨ s.fabInRange (p.opf0 t % 4) addr (fmtSize (p.fmt t)) = true ∧ (i.2.1 = 0x45 → s.storeTypeFails (f.accessOf t s.cyc) = false)) →
      ∃ u x, exec (i.1 t) s = .next u ∧ FiringOf t s u ∧ (∀ q ∈ p.usedPorts t, TokenUsed t q s u) ∧ (u.core.fab.opOf t).out = o.out ++ [x] ∧
        x.kind = i.2.2 ∧ x.space = p.opf0 t % 4 ∧ x.addr = addr ∧ x.value = (f.tok t 1).data ∧ x.fmt = p.fmt t ∧ x.off = off ∧ x.pass = none ∧
        (u.core.fab.opOf t).acks = (if i.2.2 ≠ 0 ∧ off = false then o.acks + 1 else o.acks)) ∧
    (∀ x rest, o.out = x :: rest → x.pass = none → x.off = false → x.lost = false → s.fabWaits x = false → s.fabTypeFails x = false →
      f.fencing = false → f.firsts t 15 ≠ [] → FabricGranted t s → (x.space = 2 → s.cluster.badWords = []) →
      let old := valueOf ((List.range (fmtSize x.fmt)).map (fun k => fabricByte x.space s (x.addr + k)))
      let sum := if x.fmt = 0 then fadd32 x.rm false (BitVec.ofNat 32 old) x.value else BitVec.ofNat 32 old + x.value
      let result := fun (u : State) (k : Token) => (u.core.fab.opOf t).out = rest ∧ u.core.fab.pipe t = f.pipe t ++ [s.fresh k]
      (x.kind = 0 → ∃ u, exec (.fabricAccessPerformed t) s = .next u ∧ FabOnly s u ∧ result u (dataToken x.sb (loadToken x old))) ∧
      (x.kind = 1 → ∃ u, exec (.fabricAccessPerformed t) s = .next u ∧ result u (dataToken x.sb 0) ∧ (u.core.fab.opOf t).acks = o.acks - 1 ∧
        StoredAt (fabricByte x.space) x.addr (bytesOf (fmtSize x.fmt) x.value.toNat) s u ∧
        (x.space = 2 → PartitionStored x.addr (bytesOf (fmtSize x.fmt) x.value.toNat) s u) ∧ (x.space ≠ 2 → u.clusters = s.clusters)) ∧
      (x.kind = 2 → x.fmt = 0 ∨ x.fmt = 8 ∨ x.fmt = 0xC →
        ∃ u, exec (.fabricAccessPerformed t) s = .next u ∧ result u (dataToken x.sb (BitVec.ofNat 32 old)) ∧ (u.core.fab.opOf t).acks = o.acks - 1 ∧
          StoredAt (fabricByte x.space) x.addr (bytesOf 4 sum.toNat) s u ∧
          (x.space = 2 → PartitionStored x.addr (bytesOf 4 sum.toNat) s u) ∧ (x.space ≠ 2 → u.clusters = s.clusters))) ∧
    (∀ buf bank (r q : BankReq), (∀ x, x ∈ s.core.standing s.cluster ↔ x = r ∨ x = q) → r.agent ≠ q.agent → r.granted = false → q.granted = false →
      AsksBank buf bank r → AsksBank buf bank q → s.core.bankTurnOf 4 buf bank < 1024 → GrantedFirst s.cyc (s.core.bankTurnOf 4 buf bank) r q →
      s.core.bankFree s.cluster s.cyc r = true ∧ s.core.bankFree s.cluster s.cyc q = false ∧
      (r.agent = .fabric t → exec (.bankGrant buf bank) s = exec (.fabricAccessPerformed t) s) ∧
      (bankClass r.agent ≠ 4 → ∃ u, exec (.bankGrant buf bank) s = .next u ∧
        u = { s with core := { s.core with bankReqs := s.core.bankReqs.map (fun x => if x.agent = r.agent then { x with granted := true } else x) } }))

namespace Sys2Proof.Machine

/-- The token that a stall names (R25): no other is older, then of a lower element, then of a lower port. -/
def Oldest (l : List (Nat × Nat × Nat × Nat)) (x : Nat × Nat × Nat × Nat) : Prop :=
  x ∈ l ∧ ∀ y ∈ l, x.1 < y.1 ∨ (x.1 = y.1 ∧ (x.2.1 < y.2.1 ∨ (x.2.1 = y.2.1 ∧ x.2.2.1 ≤ y.2.2.1)))

/-- A token stands in each of some stages. -/
def InStages (is : List Nat) (fl : Flight) (u : State) : Prop := ∀ i ∈ is, Map.find u.core.fab.stages i = some fl

end Sys2Proof.Machine

/-- R15, R18, R13, R77, R25: a token hops from an input port into every stage it forks to, from a stage into the next stages, into a free slot,
where a sticky count of 2 or more makes a data token resident, or to an output port's queue of 16 tokens, from the results of a target into its routes; a launch ends
where every sink has held its EOS, its stores are acknowledged and every used output port has recorded EOS: LS is 2 and no sink holds EOS; 4,096
cycles after a quiescence request without a firing a plane with a token that nothing holds is fenced and ELEM 0x5 names its oldest waiting
token. That a port's queue takes tokens before its stream has started follows R200, where R101 says otherwise (log 22). -/
def Obligations.TokenHops : Prop :=
  ∀ s : State,
    let f := s.core.fab
    (∀ k fl rest, Map.get [] f.inq k = fl :: rest → f.portEpoch k = some fl.epoch → f.fencing = false → s.core.qreq = none →
      (∀ i ∈ (f.routerCfg (inRouter k)).inStages k, f.stageFree i = true) →
      ∃ u, exec (.tokenHop (.inPort k)) s = .next u ∧ FabOnly s u ∧ InStages ((f.routerCfg (inRouter k)).inStages k) { fl with born := s.cyc, came := s.cyc } u ∧
        Map.get [] u.core.fab.inq k = rest ∧ (u.core.fab.port fl.epoch k).lastEos = fl.tok.isCtl 1 ∧
        (u.core.fab.port fl.epoch k).tokens = if fl.tok.isData then ((f.port fl.epoch k).tokens + 1) % 2 ^ 32 else (f.port fl.epoch k).tokens) ∧
    (∀ r o fl, Map.find f.stages (r * 30 + o) = some fl → f.switch = none →
      (∀ r' code, hopOf r o = .router r' code →
        let outs := ((f.routerCfg r').outputsOf r' code).map (fun o' => r' * 30 + o')
        outs ≠ [] → (∀ i ∈ outs, f.stageFree i = true) →
        ∃ u, exec (.tokenHop (.stage r o)) s = .next u ∧ FabOnly s u ∧ InStages outs { fl with came := s.cyc } u ∧
          Map.find u.core.fab.stages (r * 30 + o) = none) ∧
      (∀ t q, hopOf r o = .slot t q → f.slot t q = none →
        let stays := fl.tok.isData && decide (2 ≤ (f.cfg t).sticky t q)
        ∃ u, exec (.tokenHop (.stage r o)) s = .next u ∧ FabOnly s u ∧ Map.find u.core.fab.stages (r * 30 + o) = none ∧
          u.core.fab.slot t q = some { fl := { fl with came := s.cyc }, resident := stays, left := if stays then (f.cfg t).sticky t q else 0 }) ∧
      (∀ k, hopOf r o = .out k → fl.tok.isCtl 2 = false → (Map.get [] f.outq k).length < 16 →
        ∃ u, exec (.tokenHop (.stage r o)) s = .next u ∧ FabOnly s u ∧ Map.find u.core.fab.stages (r * 30 + o) = none ∧
          Map.get [] u.core.fab.outq k = Map.get [] f.outq k ++ [{ fl with came := s.cyc, epoch := f.epoch }])) ∧
    (∀ t fl rest, f.pipe t = fl :: rest → (∀ i ∈ f.firsts t 15, f.stageFree i = true) →
      ∃ u, exec (.tokenHop (.pipe t)) s = .next u ∧ FabOnly s u ∧ InStages (f.firsts t 15) { fl with came := s.cyc } u ∧ u.core.fab.pipe t = rest) ∧
    (∀ n, f.current = some n → f.launch = 1 → f.fencing = false → f.trace.node = none →
      ((∃ t, t < 192 ∧ (f.plane n).isSink t = true) ∨ ∃ k, k < 16 ∧ (f.plane n).outUsed k = true) →
      (∀ t, t < 192 → (f.plane n).isSink t = true → (f.opOf t).heldEos = true ∧ (f.opOf t).acks = 0) →
      (∀ k, k < 16 → (f.plane n).outUsed k = true → (f.port f.epoch (16 + k)).recorded = true) →
      ∃ u, exec .launchEnd s = .next u ∧ FabOnly s u ∧ u.core.fab.launch = 2 ∧
        ∀ t, t < 192 → (f.plane n).isSink t = true → (u.core.fab.opOf t).heldEos = false ∧ ∀ q, q < 4 → (u.core.fab.tok t q).isCtl 1 = false) ∧
    (∀ x, s.core.qreq ≠ none → f.switch = none → max s.core.qcyc f.lastFiring + 4096 ≤ s.cyc → s.core.unheld ≠ [] → Oldest f.waiting x →
      ∃ u, exec .stalledPlane s = .next u ∧ Held 16 (elemValue f.act 5 x.2.2.1 x.2.1) s u ∧ u.core.fab.slots = [] ∧ u.core.fab.stages = [] ∧
        u.core.fab.pipes = [] ∧ u.core.fab.inq = [] ∧ u.core.fab.outq = [])

/-- R210, R211, R214, R230, R232: a trigger that has counted its tokens starts the switch to its plane and disarms; drains enter at the
input ports, behind one EOS where the last token was none, and at the source elements; an element changes over behind its drain, a router when
the drain has left every stage of it and its slot has changed over; when every target, router and output port has, the incoming plane is
ACTIVE, the outgoing READY, and EPOCH one more; a switch without progress after a quiescence request fences the outgoing plane, raises ELEM 0x5
and completes. R22: an element changes over once its accesses are performed. R216, R231: the switch's end begins a
launch of the incoming plane where it uses no input port or a stream of it has started on one (how the model keeps that it has is log 28), none where
it uses one and no stream has; a launch that a trap has stopped is fenced, and over once its accesses are performed. Which token is the outgoing
plane's, and that ELEM 0x5 names element 0, port code 7 where none waits, are the model's readings (logs 27 and 109); that an incoming plane which is
INVALID at the switch's end keeps no token is its choice (log 130). -/
def Obligations.SwitchSteps : Prop :=
  ∀ s : State,
    let f := s.core.fab
    (ptrgArm s.core.ptrg = true → f.switch = none → ptrgCount s.core.ptrg ≤ f.trigCount → ∀ a, f.active = some a →
      ∃ u, exec .triggerFire s = .next u ∧ u.core.ptrg = s.core.ptrg &&& ~~~1#64 ∧ (u.core.fab.plane (ptrgTarget s.core.ptrg)).state = .switching ∧
        u.core.fab.switch = some { out := a, inc := ptrgTarget s.core.ptrg, last := s.cyc } ∧
        u = { s with core := { s.core with ptrg := u.core.ptrg, fab := u.core.fab } }) ∧
    (∀ w, f.switch = some w →
      let p := f.plane w.out
      (∀ k, p.inUsed k = true → k ∉ w.entered → s.core.portDone f.epoch k = true → (∀ x ∈ Map.get [] f.inq k, x.epoch ≠ f.epoch) →
        (∀ i ∈ p.inStages k, f.stageFree i = true) →
        ∃ u, exec (.drainEnter (.inPort k)) s = .next u ∧ FabOnly s u ∧
          if (f.port f.epoch k).lastEos then
            InStages (p.inStages k) (s.fresh drainToken) u ∧ u.core.fab.switch = some { w with entered := w.entered ++ [k] }
          else InStages (p.inStages k) (s.fresh eosToken) u ∧ (u.core.fab.port f.epoch k).lastEos = true) ∧
      (∀ t, p.isSource t = true → t ∉ w.fired → t ∉ w.targets → (f.launch ≠ 1 ∨ (f.opOf t).eosSent = true) → f.canEmit t 15 = true →
        ∃ u, exec (.drainEnter (.source t)) s = .next u ∧ FabOnly s u ∧ Sent t 15 drainToken s u ∧
          u.core.fab.switch = some { w with fired := w.fired ++ [t], last := s.cyc }) ∧
      (∀ t, t < 192 → t ∉ w.targets → (p.op t = 0 ∨ t ∈ w.fired) → (f.opOf t).out = [] →
        ∃ u, exec (.elementChangeover t) s = .next u ∧ FabOnly s u ∧
          u.core.fab = { f with
            notes := Map.erase f.notes t, lastFire := Map.erase f.lastFire t, switch := some { w with targets := w.targets ++ [t], last := s.cyc } }) ∧
      (∀ r, r < 64 → r ∉ w.routers → 128 + r ∈ w.targets → (∀ o, o < 30 → p.sel r o = 0 ∨ r * 30 + o ∈ w.passed) →
        exec (.routerChangeover r) s = .next (s.modFab (fun f => { f with switch := some { w with routers := w.routers ++ [r], last := s.cyc } }))) ∧
      ((∀ t, t < 192 → t ∈ w.targets) → (∀ r, r < 64 → r ∈ w.routers) → (∀ k, k < 16 → p.outUsed k = true → k ∈ w.left) →
        ∃ u, exec .switchComplete s = .next u ∧ u.core.fab.switch = none ∧ u.core.fab.act = w.inc ∧ u.core.fab.epoch = f.epoch + 1 ∧
          (u.core.fab.plane w.inc).state = (if w.bad then .invalid else .active) ∧
          (w.out ≠ w.inc → p.state ≠ .invalid → (u.core.fab.plane w.out).state = .ready) ∧
          (∀ k fl, fl ∈ Map.get [] u.core.fab.inq k → fl.epoch = f.epoch + 1) ∧
          (w.bad = true → u.core.fab.slots = [] ∧ u.core.fab.stages = [] ∧ u.core.fab.pipes = [] ∧ u.core.fab.inq = [] ∧ u.core.fab.outq = []) ∧
          (w.cut = false → w.bad = false → (w.started = true ∨ ∀ k, k < 16 → (f.plane w.inc).inUsed k = false) → u.core.fab.launch = 1) ∧
          (w.cut = false → w.started = false → (∃ k, k < 16 ∧ (f.plane w.inc).inUsed k = true) → u.core.fab.launch = 0) ∧
          (w.cut = true → (u.core.fab.fencing = true ∧ u.core.fab.launch = 1) ∨ (u.core.fab.fencing = false ∧ u.core.fab.launch = 2))) ∧
      (s.core.qreq ≠ none → (∀ g ∈ s.core.engines, ∀ x ∈ g.2.slots, x.2.fault = none) → (∀ g ∈ s.core.chans, ∀ x ∈ g.2.queue, x.fault = none) → max s.core.qcyc w.last + 4096 ≤ s.cyc →
        ∀ x, (Oldest (f.outgoing w).waiting x ∨ ((f.outgoing w).waiting = [] ∧ x = (0, 0, 7, 0))) →
        ∃ u, exec .switchStall s = .next u ∧ Held 16 (elemValue w.out 5 x.2.2.1 x.2.1) s u ∧ u.core.fab.switch = none ∧ u.core.fab.act = w.inc ∧
          u.core.fab.epoch = f.epoch + 1))

namespace Sys2Proof.Machine

/-- A generator's read succeeds with a value (R194, R199, R324): from full lines of a buffer, exact unless the stream takes estimates, from a
plain page of mem:, or from the cluster store; `u` is the state behind it. -/
inductive GenReads (sp : BitVec 3) (a : Word) (n : Nat) (est : Bool) (s : State) : Nat → State → Prop where
  | buffer : sp = 1 ∨ sp = 2 ∨ sp = 3 → 0 < n → LinesFull sp s a.toNat n → (est = true ∨ LinesExact sp s a.toNat n) →
      GenReads sp a n est s (valueOf (bufferBytes sp s a.toNat n)) s
  | memory (pa : Nat) (e : TlbEntry) : sp = 0 → canonical a = true → s.translate s.core.proc 0 false (va57 a) = .frame pa e →
      s.isUnitPage (va57 a) = false → s.memBad pa n = false →
      GenReads sp a n est s (valueOf ((List.range n).map (fun k => s.memByte (pa + k)))) ((s.touch e false).openRow pa)
  | cluster : sp = 4 → s.clsBad a.toNat n = false → GenReads sp a n est s (valueOf (clusterBytes s a.toNat n)) s

/-- The banks of a buffer grant an agent's access (R99): no request with precedence stands there. A space that is no buffer has none. -/
def AtBank (agent : BankAgent) (order : Nat) (sp : BitVec 3) (a n : Nat) (s : State) : Prop :=
  sp = 0 ∨ sp = 4 ∨ s.core.bankFree s.cluster s.cyc (s.core.bankAsk agent order sp a n s.cyc) = true

/-- The state behind that grant: the round of the banks goes on from the agent. -/
def State.afterBank (agent : BankAgent) (order : Nat) (sp : BitVec 3) (a n : Nat) (s : State) : State :=
  if sp = 0 ∨ sp = 4 then s else { s with core := s.core.bankServed (s.core.bankAsk agent order sp a n s.cyc) }

/-- An agent of the core is refused at its bank: its request stands, nothing else changes. -/
def WaitsForBank (agent : BankAgent) (s u : State) : Prop :=
  ∃ r, r.agent = agent ∧ u = { s with core := { s.core with bankReqs := r :: s.core.bankReqs.filter (fun x => x.agent != agent) } }

/-- The same of a unit of the cluster at the banks of core `n` of it. -/
def AtBankOf (n : Nat) (agent : BankAgent) (order : Nat) (sp : BitVec 3) (a len : Nat) (s : State) : Prop :=
  (s.coreAt n).bankFree s.cluster s.cyc ((s.coreAt n).bankAsk agent order sp a len s.cyc) = true

/-- The bytes of a copy's access of one of its sides, `k` bytes behind its first address: a line of a buffer that it covers whole, else a word
(R99, R204). -/
def copyAsk (x : Copy) (sp : BitVec 3) (first : Word) (k : Nat) : Nat :=
  let a := (first + BitVec.ofNat 64 k).toNat
  if (sp = 1 ∨ sp = 2 ∨ sp = 3) ∧ a % 128 = 0 ∧ first.toNat ≤ a ∧ a + 128 ≤ first.toNat + x.len then 128 else 8

/-- The read of a copy that comes next is granted at its bank, and gives a value. -/
def CopyReads (ch : Nat) (x : Copy) (s : State) (v : Nat) (w : State) : Prop :=
  let k := x.landed + x.staged.length
  let a := x.src + BitVec.ofNat 64 k
  GenReads x.ssp a (copyAsk x x.ssp x.src k) x.est s v w ∧ AtBank (.copy ch) x.hasp.order x.ssp a.toNat (copyAsk x x.ssp x.src k) w

/-- A copy behind that read, its bytes waiting to land. -/
def Copy.behindRead (x : Copy) (v : Nat) : Copy :=
  { x with staged := x.staged ++ bytesOf (copyAsk x x.ssp x.src (x.landed + x.staged.length)) v }

/-- The bytes of a copy that land next have been read, before this step or first in it: the copy and the state then. -/
inductive CopyReady (ch : Nat) (x : Copy) (s : State) : Copy → State → Prop where
  | held : copyAsk x x.dsp x.dst x.landed ≤ x.staged.length → CopyReady ch x s x s
  | reads (v : Nat) (w : State) : x.staged.length < copyAsk x x.dsp x.dst x.landed → CopyReads ch x s v w →
      copyAsk x x.dsp x.dst x.landed ≤ (x.behindRead v).staged.length →
      CopyReady ch x s (x.behindRead v) ((w.afterBank (.copy ch) x.hasp.order x.ssp (x.src + BitVec.ofNat 64 (x.landed + x.staged.length)).toNat
        (copyAsk x x.ssp x.src (x.landed + x.staged.length))).modCore (Core.modCopy ch (fun _ => x.behindRead v)))

/-- A stream in its slot, and the next token that a port gets from a stream. -/
def SlotIs (e slot : Nat) (t : Stream) (u : State) : Prop := Map.find (u.core.engine e).slots slot = some t
def Delivered (t : Stream) (k : Token) (s u : State) : Prop :=
  Map.get [] u.core.fab.inq t.cmd.port = Map.get [] s.core.fab.inq t.cmd.port ++ [{ tok := k, born := s.cyc, came := s.cyc, epoch := t.cmd.epoch }]

/-- The head of an output port's queue was taken. -/
def TokenTaken (t : Stream) (s u : State) : Prop :=
  Map.get [] u.core.fab.outq (t.cmd.port - 16) = (Map.get [] s.core.fab.outq (t.cmd.port - 16)).drop 1

end Sys2Proof.Machine

/-- R209, R222, R217, R228: the loader starts the next load, applies its writes, each to the field that it names and to no other, and checks the
plane behind the last one: it is READY, or INVALID with a CFG that names target and field, or the first write that named no field (R49), or no
single write where the image's CHECK or LEN differs; a plane with another load behind it stays LOADING (R208). A load whose header or LEN is wrong
fails before any write and changes no field (R222). A read of act: takes its bank with a stream engine's priority, and stands while it is refused
(R228, R99). Which refusal goes first is the model's choice (log 30). -/
def Obligations.LoaderSteps : Prop :=
  ∀ (l : PlaneLoad) (rest : List PlaneLoad) (s : State), s.core.fab.loads = l :: rest → s.core.qreq = none →
    let p := s.core.fab.plane l.plane
    let word := fun a => valueOf (bufferBytes 1 s a 4)
    let sound := fun a n => a + n ≤ 196608 ∧ LinesFull 1 s a n ∧ LinesExact 1 s a n
    let granted := fun a n => AtBank .loader 0 1 a n s
    let read := fun a n => sound a n ∧ granted a n
    let loads := fun (u : State) => u = { s with core := { s.core with fab := u.core.fab, bankReqs := u.core.bankReqs } }
    let becomes := fun (st : PlaneState) (u : State) =>
      (u.core.fab.plane l.plane).state = if rest.any (fun m => m.plane == l.plane) then .loading else st
    let checked := fun (q : Plane) (u : State) => match q.refusal s.core.efnc s.core.rfence with
      | none => becomes .ready u ∧ u.core.asyncs = s.core.asyncs
      | some x => becomes .invalid u ∧
          Held 11 (BitVec.ofNat 64 (0xFFFFFFFF * 2 ^ 32 + x.1 % 256 * 2 ^ 24 + x.2 % 32 * 2 ^ 19 + l.plane % 4 * 2 ^ 16)) s u
    (l.started = false → l.bare = true → ∃ u, exec .planeLoadStart s = .next u ∧ FabOnly s u ∧
      u.core.fab.loads = { l with started := true, done := 0, bad := none } :: rest ∧ (u.core.fab.plane l.plane).state = .loading) ∧
    (∀ nw ns full, l.started = false → l.bare = false → l.image = none → sound l.addr (0x28 + 4 * nw) → granted l.addr 32 →
      AtBank .loader 0 1 (l.addr + (0x24 + 4 * nw)) 4 (s.afterBank .loader 0 1 l.addr 32) →
      word l.addr = 0x494C544E → word (l.addr + 4) = 0x00010000 → word (l.addr + 8) = nw → nw ≤ 16384 → word (l.addr + 0xC) = ns → ns ≤ 192 →
      word (l.addr + 0x10) = (if full then 1 else 0) → (full = true → nw ≠ 0) →
      word (l.addr + 0x14) = 0 → word (l.addr + 0x18) = 0 → word (l.addr + 0x1C) = 0 → word (l.addr + 0x24 + 4 * nw) = 0x28 + 4 * nw + 8 * ns →
      ∃ u c, exec .planeLoadStart s = .next u ∧ loads u ∧
        u.core.fab.loads = { l with started := true, done := 0, bad := none, count := nw, ns := ns, full := full, crc := c } :: rest ∧
        (u.core.fab.plane l.plane).state = .loading) ∧
    (l.started = false → l.bare = false → l.image = none → read l.addr 32 →
      let nw := word (l.addr + 8)
      let ns := word (l.addr + 0xC)
      let good := word l.addr = 0x494C544E ∧ word (l.addr + 4) = 0x00010000 ∧ nw ≤ 16384 ∧ ns ≤ 192 ∧ word (l.addr + 0x10) ≤ 1 ∧
        word (l.addr + 0x14) = 0 ∧ word (l.addr + 0x18) = 0 ∧ word (l.addr + 0x1C) = 0 ∧ (word (l.addr + 0x10) = 1 → nw ≠ 0)
      (¬good ∨ (sound (l.addr + 0x24 + 4 * nw) 4 ∧ AtBank .loader 0 1 (l.addr + (0x24 + 4 * nw)) 4 (s.afterBank .loader 0 1 l.addr 32) ∧ word (l.addr + 0x24 + 4 * nw) ≠ 0x28 + 4 * nw + 8 * ns)) →
      ∃ u, exec .planeLoadStart s = .next u ∧ u.core.fab.loads = rest ∧ (u.core.fab.plane l.plane).fields = p.fields ∧
        (u.core.fab.plane l.plane).nodes = p.nodes ∧ becomes .invalid u ∧
        Held 11 (BitVec.ofNat 64 (0xFFFFFFFF * 2 ^ 32 + l.plane % 4 * 2 ^ 16)) s u) ∧
    (l.started = true → l.image = none → l.done + 1 = l.count →
      let a := l.addr + (if l.bare then 0 else 0x20) + 4 * l.done
      let t := word a / 2 ^ 24
      let f := word a / 2 ^ 19 % 32
      (sound a 4 → ¬ granted a 4 → ∃ u, exec .planeLoadWrite s = .next u ∧ WaitsForBank .loader s u) ∧
      (read a 4 → ((t < 128 ∧ f < 14) ∨ (128 ≤ t ∧ t < 192 ∧ f < 22) ∨ (t = 0xC0 ∧ f < 14)) → (l.full = false ∨ l.done ≠ 0) →
      ∃ u c, exec .planeLoadWrite s = .next u ∧ loads u ∧ u.core.fab.loads = { l with done := l.count, crc := c } :: rest ∧
        (u.core.fab.plane l.plane).field t f = word a % 2 ^ 19 ∧
        (∀ t' f', f' < 32 → (t' ≠ t ∨ f' ≠ f) → (u.core.fab.plane l.plane).field t' f' = p.field t' f') ∧
        ∀ n, n ≠ l.plane → u.core.fab.plane n = s.core.fab.plane n)) ∧
    (l.started = true → l.count ≤ l.done →
      (l.bare = true → l.bad = none →
        ∃ u, exec .planeLoadCheck s = .next u ∧ u.core.fab.loads = rest ∧ (u.core.fab.plane l.plane).fields = p.fields ∧ checked p u) ∧
      (∀ x, l.bare = true → l.bad = some x → p.refusal s.core.efnc s.core.rfence = none →
        ∃ u, exec .planeLoadCheck s = .next u ∧ u.core.fab.loads = rest ∧ becomes .invalid u ∧
          Held 11 (BitVec.ofNat 64 (x.1 % 2 ^ 32 * 2 ^ 32 + x.2.1 % 256 * 2 ^ 24 + x.2.2 % 32 * 2 ^ 19 + l.plane % 4 * 2 ^ 16)) s u) ∧
      (l.bare = false → l.image = none →
        let a := l.addr + 0x20 + 4 * l.count
        let table := bufferBytes 1 s (a + 8) (8 * l.ns)
        let es := tableEntries table l.ns
        read a (8 + 8 * l.ns) →
        ((table.foldl crcByte l.crc ^^^ 0xFFFFFFFF).toNat = word a → word (a + 4) = 0x28 + 4 * l.count + 8 * l.ns → twiceNamed es = none → l.bad = none →
          ∃ u, exec .planeLoadCheck s = .next u ∧ u.core.fab.loads = rest ∧ (u.core.fab.plane l.plane).fields = p.fields ∧
            (∀ e ∈ es, Map.find (u.core.fab.plane l.plane).nodes (e.toNat / 2 ^ 56) = some e) ∧ checked (p.setNodes l.full es) u) ∧
        (((table.foldl crcByte l.crc ^^^ 0xFFFFFFFF).toNat ≠ word a ∨ word (a + 4) ≠ 0x28 + 4 * l.count + 8 * l.ns) →
          ∃ u, exec .planeLoadCheck s = .next u ∧ u.core.fab.loads = rest ∧ becomes .invalid u ∧
            Held 11 (BitVec.ofNat 64 (0xFFFFFFFF * 2 ^ 32 + l.plane % 4 * 2 ^ 16)) s u)))

/-- R187, R192, R193, R194, R195, R196, R197, R188, R202: the oldest command of all queues starts in the lowest free slot, its acquire on its
way; a generator delivers a row's value with the sideband of its place, a gathered value, or EOS behind the last row; an index and a gather
come back; a write stream stores a token's value at its position and counts its bytes; an ended stream's line is written, its release goes
out, and it counts as completed.
R216: a start on a port that the plane uses begins a launch, one for the incoming plane is kept for the switch's end (log 28); R26: none starts while
a fence waits for its accesses. R99: an access to a buffer goes where its bank grants it, and its request stands where it does not. R329: a fault at
the exponent of a bx32 element stops the stream before any byte of the position is written. -/
def Obligations.StreamSteps : Prop :=
  ∀ (e slot : Nat) (s : State),
    (∀ q rest, e < 4 → (s.core.engine e).queue = q :: rest → slot < 4 → Map.find (s.core.engine e).slots slot = none →
      (∀ k, k < slot → Map.find (s.core.engine e).slots k ≠ none) →
      (∀ x, x < 4 → x ≠ e → ∀ r ∈ (s.core.engine x).queue.head?, q.hasp.order < r.hasp.order) → s.core.portHeld q.port = false →
      ((s.core.fab.switch = none ∧ s.core.fab.fencing = false ∧ (16 ≤ q.port ∨ s.core.qreq = none)) ∨
        (16 ≤ q.port ∧ ∃ w, s.core.fab.switch = some w ∧ (w.cut = false ∨ q.epoch = s.core.fab.epoch))) → (q.pat.kind = 1 → s.indirect < 8) →
      ∃ u, exec .streamStart s = .next u ∧ (u.core.engine e).queue = rest ∧ SlotIs e slot { cmd := q, acquired := !q.hasp.acq } u ∧
        (∀ n, s.core.fab.active = some n → s.core.fab.switch = none → q.epoch = s.core.fab.epoch → (s.core.fab.plane n).portUsed q.port = true →
          (∃ k, k < 16 ∧ (s.core.fab.plane n).inUsed k = true) → u.core.fab.launch = 1) ∧
        (∀ w, s.core.fab.switch = some w → q.epoch ≠ s.core.fab.epoch →
          u.core.fab.switch = some { w with started := w.started || (s.core.fab.plane w.inc).portUsed q.port }) ∧
        u.core.flights = s.core.flights ++
          (if q.hasp.acq then [{ ref := q.hasp.ref, hid := q.hasp.hid, order := q.hasp.order, a := e, b := slot }] else [])) ∧
    (s.core.fab.switch = none → s.core.fab.fencing = true → exec .streamStart s = .next s) ∧
    (∀ t, SlotIs e slot t s →
      let p := t.cmd.pat
      let n := t.row * p.inner + t.pos
      let flow := t.runs = true ∧ t.cmd.port < 16 ∧ s.core.qreq = none
      let sb : BitVec 2 := if t.pos + 1 = p.inner then (if t.row + 1 = p.outer then 3 else 1) else 0
      let a := p.address n
      let bare := ({ s with core := { s.core with utlb := [] } } : State)
      (flow → p.kind = 0 → t.tile = false → (Map.get [] s.core.fab.inq t.cmd.port).length < 16 →
        (p.outer ≤ t.row → ∃ u, exec (.streamDeliver e slot) s = .next u ∧ Delivered t eosToken s u ∧ SlotIs e slot { t with count := t.count + 1, eos := true } u) ∧
        (t.row < p.outer → p.inner ≠ 0 → p.fmt ≠ 5 → ∀ fm v w, fmtOf p.fmt = some fm → GenReads p.space a p.size p.est s v w →
          (AtBank (.stream e slot) t.cmd.hasp.order p.space a.toNat p.size s →
            ∃ u x, exec (.streamDeliver e slot) s = .next u ∧ Delivered t (dataToken sb (tokenLayout fm v)) s u ∧ SlotIs e slot x u ∧ x.count = t.count + 1 ∧
              x.row = (if sb = 0 then t.row else t.row + 1) ∧ x.pos = (if sb = 0 then t.pos + 1 else 0) ∧ x.cmd = t.cmd) ∧
          (¬AtBank (.stream e slot) t.cmd.hasp.order p.space a.toNat p.size s →
            ∃ u, exec (.streamDeliver e slot) s = .next u ∧ WaitsForBank (.stream e slot) s u))) ∧
      (flow → p.kind = 1 → (Map.get [] s.core.fab.inq t.cmd.port).length < 16 → ∀ m b v, t.due = .value m b → Map.find t.gathered m = some v →
        ∃ u, exec (.streamDeliver e slot) s = .next u ∧ Delivered t (dataToken b v) s u) ∧
      (flow → p.kind = 1 → p.inner ≠ 0 → ∀ m, t.gatherOpen m = true →
        (Map.find t.indices (m / p.len 0) = none → ∀ v w, GenReads 0 (p.indexAddress m) 4 true bare v w →
          ∃ u, exec (.gatherComplete e slot m) s = .next u ∧ SlotIs e slot { t with indices := Map.set t.indices (m / p.len 0) (BitVec.ofNat 32 v) } u) ∧
        (∀ x fm v w, Map.find t.indices (m / p.len 0) = some x → x ≠ 0xFFFFFFFF → n ≤ m → Map.find t.gathered m = none → fmtOf p.fmt = some fm →
          GenReads 0 (p.base + (if p.ifmt = 8 then x.signExtend 64 else x.zeroExtend 64) * p.iscale.zeroExtend 64 + p.offset [0] m) p.size true bare v w →
          ∃ u, exec (.gatherComplete e slot m) s = .next u ∧ SlotIs e slot { t with gathered := Map.set t.gathered m (tokenLayout fm v) } u)) ∧
      (∀ x rest, t.failed = none → Map.get [] s.core.fab.outq (t.cmd.port - 16) = x :: rest → t.runs = true → 16 ≤ t.cmd.port → x.epoch = t.cmd.epoch →
        let size := p.size
        let v := x.tok.data.toNat % 2 ^ (8 * size)
        let ends := t.pos + 1 = p.inner ∨ (p.sbp ≠ 1 ∧ (x.tok.sb = 1 ∨ x.tok.sb = 3))
        let next := { t with count := t.count + size, row := if ends then t.row + 1 else t.row, pos := if ends then 0 else t.pos + 1 }
        (x.tok = eosToken → ∃ u, exec (.streamWriteToken e slot) s = .next u ∧ TokenTaken t s u ∧ SlotIs e slot { t with eos := true, key := none } u) ∧
        (x.tok.isData = true → p.kind = 0 → p.fmt ≠ 5 → t.exhausted = false →
          (∀ pa y, p.space = 0 → canonical a = true → s.isUnitPage (va57 a) = false → s.translate s.core.proc 1 false (va57 a) = .frame pa y →
            s.memBad pa size = false → ∃ u, exec (.streamWriteToken e slot) s = .next u ∧ TokenTaken t s u ∧ SlotIs e slot next u ∧
              StoredAt State.memByte pa (bytesOf size v) s u) ∧
          (p.space = 4 → ∃ u, exec (.streamWriteToken e slot) s = .next u ∧ TokenTaken t s u ∧ SlotIs e slot next u ∧
            StoredAt (fun s y => Map.get 0 s.cluster.store y) (s.core.clsb.toNat + a.toNat) (bytesOf size v) s u) ∧
          (p.space = 1 ∨ p.space = 3 → (∀ y ∈ t.line, y.1 / 128 = a.toNat / 128) →
            ∃ u l, exec (.streamWriteToken e slot) s = .next u ∧ TokenTaken t s u ∧ SlotIs e slot { next with line := l } u ∧
              (∀ k, k < size → Map.find l (a.toNat + k) = some ((bytesOf size v).getD k 0)) ∧
              (∀ y, (y < a.toNat ∨ a.toNat + size ≤ y) → Map.find l y = Map.find t.line y) ∧ u.core.buf p.space = s.core.buf p.space)) ∧
        (x.tok.isData = true → p.kind = 0 → p.fmt = 5 → p.space = 0 → t.second = false → t.exhausted = false → ∀ v0 w va r, s.genWrite 0 a p.size 0 = .ok v0 w →
          w.genWrite 0 (p.expAddress a) 2 0 = .fault va r →
          ∃ u, exec (.streamWriteToken e slot) s = .next u ∧ u.mem = s.mem ∧ Map.get [] u.core.fab.outq (t.cmd.port - 16) = x :: rest ∧
            SlotIs e slot { t with fault := some (faultVa va), spot := t.position } u) ∧
        (x.tok.isData = true → p.kind = 0 → t.exhausted = true → ∃ u, exec (.streamWriteToken e slot) s = .next u ∧ TokenTaken t s u ∧ SlotIs e slot t u ∧
          (u.core.engine e).ovr = true)) ∧
      (slot < 4 → t.failed = none → t.eos = true → t.acquired = true → t.fault = none → s.streamMerges e slot t = false →
        (∀ line, t.ended = false → p.space = 1 ∨ p.space = 3 → t.line.Pairwise (fun x y => x.1 < y.1) → (∀ y ∈ t.line, y.1 / 128 = line) →
          (128 ≤ t.line.length ∨ p.est = false ∨ (s.core.buf p.space).isEst line = true) →
          (∀ x y, t.line.head? = some x → t.line.getLast? = some y → AtBank (.stream e slot) t.cmd.hasp.order p.space x.1 (y.1 - x.1 + 1) s) →
          ∃ u, exec (.streamEnd e slot) s = .next u ∧ SlotIs e slot { t with ended := true, line := [] } u ∧
            (∀ y ∈ t.line, (u.core.buf p.space).byte y.1 = y.2) ∧
            (∀ y, Map.find t.line y = none → (u.core.buf p.space).byte y = (s.core.buf p.space).byte y) ∧
            (128 ≤ t.line.length → (u.core.buf p.space).full line = true ∧ (u.core.buf p.space).isEst line = p.est)) ∧
        (t.ended = true → t.cmd.hasp.rel = true → t.relSent = false → ∃ u, exec (.streamEnd e slot) s = .next u ∧ SlotIs e slot { t with relSent := true } u ∧
          ∃ x, u.core.flights = s.core.flights ++ [x] ∧ x.rel = true ∧ x.hid = t.cmd.hasp.hid ∧ x.order = t.cmd.hasp.order ∧
            x.bytes = (if t.cmd.sub ≠ 1 then 0 else if p.kind = 4 then 8 * t.merges else t.count)) ∧
        (t.ended = true → t.cmd.hasp.rel = false → ∃ u, exec (.streamEnd e slot) s = .next u ∧ Map.find (u.core.engine e).slots slot = none ∧
          (u.core.engine e).completed = (s.core.engine e).completed + 1)))

/-- R203, R204, R205, R103, R99, R100: a channel's next copy begins, its acquire on its way; its bytes are read, a line of a buffer that it covers
whole at once, and land in memory, in the cluster store or in a buffer, where a line that it writes whole gets its bytes, F and the copy's E in one
access (that such bytes wait in the channel until the line is together is the model's reading of R99 beside R204, log 104), and WP counts them; behind
the last byte the follow-on enters its command stream and the release goes out, or the copy counts as completed; while that stream holds its eight
commands (R266) the follow-on waits (its copy with it: the model's choice, log 139). -/
def Obligations.CopySteps : Prop :=
  ∀ (ch : Nat) (x : Copy) (rest : List Copy) (s : State), (s.core.chan ch).queue = x :: rest →
    (x.started = false → ∃ u, exec (.copyStart ch) s = .next u ∧ (u.core.chan ch).queue = { x with started := true, acquired := !x.hasp.acq } :: rest ∧
      u.core.flights = s.core.flights ++ (if x.hasp.acq then [{ ref := x.hasp.ref, hid := x.hasp.hid, order := x.hasp.order, unit := 1, a := ch }] else [])) ∧
    (∀ v w, x.acquired = true → x.fault = none → x.landed < x.len → CopyReads ch x s v w →
      (x.behindRead v).staged.length < copyAsk x x.dsp x.dst x.landed →
      ∃ u, exec (.copyLand ch 1) s = .next u ∧ (u.core.chan ch).queue = x.behindRead v :: rest ∧ (u.core.chan ch).wp = (s.core.chan ch).wp ∧
        u.mem = s.mem ∧ u.clusters = s.clusters ∧ ∀ sp, u.core.buf sp = s.core.buf sp) ∧
    (∀ y w, x.acquired = true → x.fault = none → x.landed < x.len → CopyReady ch x s y w →
      let d := x.dst + BitVec.ofNat 64 x.landed
      let page := some (va57 d / 65536 * 65536)
      let n := copyAsk x x.dsp x.dst x.landed
      let bs := y.staged.take n
      AtBank (.copy ch) x.hasp.order x.dsp d.toNat n w →
      let counted := fun (u : State) => (u.core.chan ch).queue = { y with landed := x.landed + n, staged := y.staged.drop n } :: rest ∧
        (u.core.chan ch).wp = (s.core.chan ch).wp + BitVec.ofNat 64 n
      (∀ pa e, x.dsp = 0 → (s.procAt s.core.proc).sendVa ≠ page → (s.procAt s.core.proc).launchVa ≠ page →
        w.translate s.core.proc 1 false (va57 d) = .frame pa e → w.memBad pa 8 = false →
        ∃ u, exec (.copyLand ch 1) s = .next u ∧ counted u ∧ StoredAt State.memByte pa bs s u) ∧
      (x.dsp = 4 → ∃ u, exec (.copyLand ch 1) s = .next u ∧ counted u ∧
        PartitionStored d.toNat bs s u) ∧
      (x.dsp = 1 ∨ x.dsp = 2 ∨ x.dsp = 3 →
        (n = 128 ∨ x.est = false ∨ (s.core.buf x.dsp).isEst (d.toNat / 128) = true) →
        ∃ u, exec (.copyLand ch 1) s = .next u ∧ counted u ∧ StoredAt (fun s y => (s.core.buf x.dsp).byte y) d.toNat bs s u ∧
          ∀ k, ((u.core.buf x.dsp).full k, (u.core.buf x.dsp).isEst k) =
            if k = d.toNat / 128 ∧ n = 128 then (true, x.est) else ((s.core.buf x.dsp).full k, (s.core.buf x.dsp).isEst k))) ∧
    (x.acquired = true → x.fault = none → x.len ≤ x.landed → x.relSent = false →
      (∀ m, x.mmul = some m → x.mcmd ≠ none → 8 ≤ (s.cluster.mstream (s.core.id % 16 * 4 + m.s.toNat)).length → exec (.copyComplete ch) s = .next s) ∧
      (x.hasp.rel = true → x.mmul = none → ∃ u, exec (.copyComplete ch) s = .next u ∧ (u.core.chan ch).queue = { x with relSent := true } :: rest ∧
        u.core.flights = s.core.flights ++
          [{ ref := x.hasp.ref, hid := x.hasp.hid, rel := true, bytes := x.len, order := x.hasp.order, unit := 1, a := ch }]) ∧
      (x.hasp.rel = false → (∀ m, x.mmul = some m → (s.cluster.mstream (s.core.id % 16 * 4 + m.s.toNat)).length < 8) →
        ∃ u, exec (.copyComplete ch) s = .next u ∧ (u.core.chan ch).queue = rest ∧
        (u.core.chan ch).completed = (s.core.chan ch).completed + 1 ∧
        (∀ m cmd, x.mmul = some m → x.mcmd = some cmd → m.s.toNat < 4 →
          u.cluster.mstream (s.core.id % 16 * 4 + m.s.toNat) = s.cluster.mstream (s.core.id % 16 * 4 + m.s.toNat) ++ [cmd])))

/-- R105, R106, R89, R233 to R236, R239, R96, R237, R238: a quiescence request closes the input ports behind the row limit; at the
quiescent point QST says so, the task's registers, buffers and fabric are saved and the core is free, or, for a debugger, the stop is recorded;
a withdrawal opens the ports, and a PDISCARD whose wait it ends runs from its first page again (R356); a restore, once the cluster's engine has room
for its indirect streams (R326), brings back what was saved, of the trap frame under TA = 1 (R184), and the core's own identity and fences
stay; the invalidation of a translation change drops the page's instruction lines (R236), and a miss fetches its line; a trace walk records a step and goes on to the target that fed it.
What the model chooses or infers here: what keeps a core from its quiescent point (logs 48 and 124), the row limit of a port that is held open
(log 132), the EPOCH of a stop record over a switch (log 111), the port code and ENDP of trace steps (log 127), that a ring's page stays PRESENT
(log 141). -/
def Obligations.ContextSteps : Prop :=
  ∀ s : State,
    let c := s.core
    let f := c.fab
    (∀ why, c.run = .running → c.qreq = none → c.stop = none → (why = .save ∨ (why = .stop ∧ (s.taskAt s.taskNum).debug = true) ∨
        ((why = .preempt ∨ why = .waiting) ∧ s.tenantHeld c.stack c.tenant = false)) →
      ∃ u, exec (.quiescenceRequest why) s = .next u ∧ u.core.qreq = some why ∧ u.core.qcyc = s.cyc ∧ u.core.pc = c.pc ∧ s.SameRegs u ∧
        (f.switch = none → ∀ k, k < 16 → (f.plane f.act).inUsed k = true → (u.core.fab.port f.epoch k).limit = some c.rowLimit)) ∧
    (c.qreq ≠ none → c.run ≠ .idle → c.qpt = false → f.switch = none → c.generatorsDone = true → c.unheld = [] →
      (c.heldTokens = true → s.fabricStill = true) → s.unitsDone = true →
      (c.ptrg.getLsbD 0 = true → f.trigCount < c.ptrg.toNat / 2 ^ 32) →
      exec .quiescentPoint s = .next { s with core := { c with qpt := true, held := c.heldTokens } }) ∧
    (∀ n why, c.qreq = some why → c.qpt = true → s.quiescent = true → c.task = some n → Map.find s.tasks n ≠ none → (s.taskAt n).killing = false →
      let kept := fun (u : State) => u.core.task = none ∧ u.core.run = .idle ∧ u.core.dcache = [] ∧ u.core.efnc = c.efnc ∧
        ∃ v, (u.taskAt n).saved = some v ∧ v.core.regs = c.regs ∧ v.core.etag = c.etag ∧ v.core.pc = c.pc ∧ v.core.lcnt = c.lcnt ∧
          v.core.lstart = c.lstart ∧ v.core.lend = c.lend ∧ v.core.tvec = c.tvec ∧ v.core.tpc = c.tpc ∧ v.core.tcause = c.tcause ∧ v.core.tval = c.tval ∧
          v.core.tstat = c.tstat ∧ v.core.act = c.act ∧ v.core.wgt = c.wgt ∧ v.core.acc = c.acc ∧ v.core.fab.planes = f.planes ∧
          v.core.fab.slots = f.slots ∧ v.core.fab.ops = f.ops ∧ v.core.fab.epoch = f.epoch ∧ v.core.qreq = none ∧
          v.core.asyncs = c.asyncs ++ c.postFails.map (fun f => { cause := f.1, value := f.2, fibre := true })
      (why ≠ .stop → c.stop = none → (why = .save ∨ s.tenantHeld c.stack c.tenant = false) → ∃ u, exec .contextSave s = .next u ∧ kept u ∧
        (u.taskAt n).status = (match c.wait with
          | .hasp _ => .parked
          | _ => .queued)) ∧
      (∀ x, c.stop = some x → ∃ u, exec .preciseStop s = .next u ∧ kept u ∧ (u.taskAt n).status = .stopped ∧
        ((u.taskAt n).stopRecord.take 8 = bytesOf 8 c.pc.toNat ∧ (u.taskAt n).stopRecord.length = 48 ∧
          ((u.taskAt n).stopRecord.drop 8).take 8 = bytesOf 4 x.1 ++ bytesOf 4 f.epoch.toNat))) ∧
    (c.qreq ≠ none → (c.stop = none ∨ c.qreq = some .stop) → (s.taskAt s.taskNum).killing = false → ∃ u, exec .quiescenceWithdrawal s = .next u ∧ u.core.qreq = none ∧ u.core.qpt = false ∧
      u.core.held = false ∧ u.core.stop = none ∧ u.core.pc = c.pc ∧ s.SameRegs u ∧ (∀ d, c.wait = .pages d → u.core.wait = .none) ∧
      ∀ e k, (u.core.fab.port e k).limit = none) ∧
    (∀ n v, c.task = some n → c.run = .idle → c.scrub = false → (s.taskAt n).saved = some v → Map.find s.tasks n ≠ none →
      (v.core.indirect ≠ 0 → 8 < s.indirect + v.core.indirect → exec (.contextRestore n) s = .next s) ∧
      ((v.core.indirect = 0 ∨ s.indirect + v.core.indirect ≤ 8) → ∃ u, exec (.contextRestore n) s = .next u ∧ u.core.run = .running ∧ u.core.regs = v.core.regs ∧ u.core.etag = v.core.etag ∧ u.core.pc = v.core.pc ∧
        u.core.lcnt = v.core.lcnt ∧ u.core.tstat = v.core.tstat ∧
        (v.core.ta = true → u.core.tpc = v.core.tpc ∧ u.core.tcause = v.core.tcause ∧ u.core.tval = v.core.tval) ∧ u.core.act = v.core.act ∧ u.core.wgt = v.core.wgt ∧
        u.core.acc = v.core.acc ∧ u.core.engines = v.core.engines ∧ u.core.chans = v.core.chans ∧ u.core.fab.planes = v.core.fab.planes ∧
        u.core.fab.slots = v.core.fab.slots ∧ u.core.id = c.id ∧ u.core.efnc = c.efnc ∧ (u.taskAt n).status = .running ∧ (u.taskAt n).saved = none)) ∧
    (∀ p va e, s.walk p (va57 va) = some e →
      ∃ u, exec (.instructionPageInvalidate p va) s = .next u ∧ u = { s with core := { c with icache := u.core.icache } } ∧
        ∀ l, l ∈ u.core.icache ↔ (l ∈ c.icache ∧ (l.proc ≠ p ∨ l.line < e.va / 64 ∨ (e.va + e.size) / 64 ≤ l.line))) ∧
    (∀ va pa e, canonical va = true → s.translate c.proc 2 false (va57 va) = .frame pa e → s.memBad (pa / 64 * 64) 64 = false →
      ∃ u, exec (.fetchMiss va) s = .next u ∧ u.core.pc = c.pc ∧ s.SameRegs u ∧
        (u.core.iline (va57 va)).map (fun l => l.bytes) = some ((List.range 64).map (fun k => s.memByte (pa / 64 * 64 + k)))) ∧
    (∀ va, canonical va = false → Traps (.fetchMiss va) 4 va s) ∧
    (∀ va, canonical va = true → s.translate c.proc 2 false (va57 va) = .right →
      (c.fatal = some (va57 va) → Traps (.fetchMiss va) 4 va s) ∧
      (c.fatal ≠ some (va57 va) → ∃ u, exec (.fetchMiss va) s = .next u ∧ u.core.pc = c.pc ∧ u.core.stalled = true ∧ s.SameRegs u)) ∧
    (∀ t, f.trace.node = some t →
      let x := f.trace
      let note := Map.get (5, 0) x.snapshot t
      let p := f.plane x.plane
      let node := if note.1 < 4 then p.origin (feedOf t note.1).1 (feedOf t note.1).2 32 else .none
      let step := fun port endp => BitVec.ofNat 64 (p.nodeOf t % 2 ^ 24 * 2 ^ 40 + note.2 % 256 * 2 ^ 32 + t % 256 * 2 ^ 24 + note.1 % 8 * 2 ^ 21 +
        port % 32 * 2 ^ 16 + endp * 2 ^ 15)
      (∀ y l, node = .lane y l → t ∉ x.seen → x.steps.length < 127 → ∃ u, exec .traceWalkStep s = .next u ∧ FabOnly s u ∧
        u.core.fab.trace = { x with node := some y, steps := x.steps ++ [step 0 0], seen := t :: x.seen }) ∧
      (∀ k r e, node = .port k → x.steps.length < 6 → (s.taskAt s.taskNum).ring = some r → x.ring < r.2 →
        s.leafFor c.proc (va57 (r.1 + BitVec.ofNat 64 (64 * x.ring))) = some e → pteState e.pte = 0 → pteW e.pte = false →
        s.stackGone (paStack (e.paOf (va57 (r.1 + BitVec.ofNat 64 (64 * x.ring))))) = false →
        ∃ u, exec .traceWalkStep s = .next u ∧ u.core.fab.trace.node = none ∧ u.core.fab.trace.ring = x.ring + 1 ∧ u.core.fab.trace.dropped = 0 ∧
          StoredAt State.memByte (e.paOf (va57 (r.1 + BitVec.ofNat 64 (64 * x.ring))))
            (bytesOf 8 x.cyc ++ bytesOf 4 x.epoch.toNat ++
              bytesOf 4 ((x.steps.length + 1) % 128 * 2 ^ 24 + min x.dropped 255 * 2 ^ 16 + x.start % 256 * 256) ++
              (List.range 6).flatMap (fun i => bytesOf 8 ((x.steps ++ [step k 1]).getD i 0).toNat)) s u))

namespace Sys2Proof.Machine

/-- A hasp after a counted arrival or release of its mode, no task waiting for its flip (R252, R294): a BARRIER counts an arrival, BYTES subtracts
the bytes, a COUNTER adds one; RELSEQ counts. -/
def Hasp.counted (v : Hasp) (bytes : Nat) : Hasp :=
  let h := { v with relseq := (v.relseq + 1) % 2 ^ 32 }
  if v.mode = 1 then (if v.q + 1 = v.p then { h with q := 0, phase := !v.phase } else { h with q := v.q + 1 })
  else if v.mode = 2 then
    (if bytes = 0 then h else if v.n.toNat < bytes then { h with n := 0, ovr := true, phase := !v.phase }
     else if v.n.toNat = bytes then { h with n := 0, phase := !v.phase } else { h with n := v.n - BitVec.ofNat 64 bytes })
  else { h with n := v.n + 1, phase := !v.phase }

/-- The thread of a task, on the core, stands at an instruction that it issues in its next step. -/
def StandsAt (n : Nat) (i : Instr) (s : State) : Prop :=
  s.core.holds n = true ∧ s.core.issues = true ∧ ∃ ws rest, s.core.fetch = .words ws ∧ decode (fetchedBytes ws) = .ok (i, rest)

/-- A word of a buffer. -/
def wordAt (b : Buffer) (a : Nat) : Nat := valueOf ((List.range 4).map (fun k => b.byte (a + k)))

/-- The lines from one on hold results: full, estimates or exact. -/
def LinesHold (b : Buffer) (line n : Nat) (est : Bool) : Prop := ∀ k, k < n → b.full (line + k) = true ∧ b.isEst (line + k) = est

end Sys2Proof.Machine

/-- R249, R282, R285, R288 to R292, R293, R294, R256, R374: check bits count corrected errors at their bank and take a lasting one's word out of
use; the home's operation for a task is that of the hasp instruction at which its thread stands, and a refusal is that instruction's trap; a wake completes the wait on the task's core or in
its saved context, which joins the tail of its queue; a command's acquire lets it go on, its release counts by the hasp's mode and ends it, and
one that the hasp's mode refuses cancels it with HASP reason 3. -/
def Obligations.HaspsAtWork : Prop :=
  ∀ s : State,
    (∀ off, exec (.clusterStoreAccess off .clean) s = .next s ∧
      (∀ ecc, (ecc = .corrected ∨ ecc = .transient) → ∃ u, exec (.clusterStoreAccess off ecc) s = .next u ∧
        ({ u.cluster with corrected := s.cluster.corrected } : Cluster) = s.cluster ∧ ∀ b,
          Map.get 0 u.cluster.corrected b = if b = off / 64 % 32 then Map.get 0 s.cluster.corrected b + 1 else Map.get 0 s.cluster.corrected b) ∧
      (off < 2 ^ 23 → off / 8 ∉ s.cluster.badWords → ∃ u, exec (.clusterStoreAccess off .lasting) s = .next u ∧
        u.cluster.badWords = s.cluster.badWords ++ [off / 8] ∧ off / 64 ∈ u.cluster.badLines ∧ u.cluster.store = s.cluster.store)) ∧
    (∀ n op ref, s.coreOfTask n = none → exec (.haspOperation n op ref) s = .next s) ∧
    (∀ (n : Nat) (k : Task) (h b : Reg) (hid : Nat) (u : State), Map.find s.tasks n = some k → Map.get {} s.tasks n = k → s.core.task = some n →
      s.core.wait = .none → s.tag h = false → s.tag b = false → (s.reg h).toNat % 64 = 0 → HaspAt (s.reg h) s hid u → HomeApart u hid →
      ReleaseFree u hid → u.relPending hid s.core.accepted = false → n < 2 ^ 32 → n ≠ 0xFFFFFFFF →
      let v := u.hasp hid
      let at' := fun (op : HaspOp) => exec (.haspOperation n op (s.reg h)) s
      (∀ p ∈ ([(.acquire, .hacq h), (.release, .hrel h), (.arrive, .harr h), (.wait, .hwait h), (.join, .join h), (.leave, .leave h)] :
          List (HaspOp × Instr)), StandsAt n p.2 s → u.hidBad hid = false → v.init = false → s.core.ta = false → s.core.tvec ≠ 0 →
        ∃ t, at' p.1 = .next t ∧ t.core.tcause = 12 ∧ t.core.tval = s.reg h + 1 ∧ t.core.tpc = s.core.pc ∧ t.hasp hid = v) ∧
      (HaspOk u hid s.core.tenant → v.wkind = 0 → u.flipWaiters hid = [] → u.lockWaiter hid = none → k.notes.length < 16 →
        (StandsAt n (.hacq h) s → v.mode = 0 → v.p = 0xFFFFFFFF → ∃ t, at' .acquire = .next t ∧ HaspDone s t ∧ t.HaspIs hid { v with p := n } ∧
          hid ∈ (t.taskAt n).locks) ∧
        (StandsAt n (.hrel h) s → v.mode = 0 → v.p = n → ∃ t, at' .release = .next t ∧ HaspDone s t ∧
          t.HaspIs hid { v with p := 0xFFFFFFFF, relseq := (v.relseq + 1) % 2 ^ 32 }) ∧
        (StandsAt n (.harr h) s → v.mode = 1 → ∃ t, at' .arrive = .next t ∧ HaspDone s t ∧ t.HaspIs hid (v.counted 0) ∧
          (t.taskAt n).note hid = v.phase) ∧
        (StandsAt n (.hsig h b) s → v.mode = 3 → ∃ t, at' (.signal (s.reg b)) = .next t ∧ HaspDone s t ∧
          t.HaspIs hid { v with relseq := (v.relseq + 1) % 2 ^ 32, n := v.n + s.reg b, phase := !v.phase }) ∧
        (StandsAt n (.hwait h) s → v.mode ≠ 0 → v.phase ≠ k.note hid → ∃ t, at' .wait = .next t ∧ HaspDone s t ∧ t.HaspIs hid v ∧
          (t.taskAt n).note hid = v.phase) ∧
        (StandsAt n (.join h) s → v.mode = 4 → k.groups.contains hid = false → k.groups.length < 16 → v.p + 1 < 2 ^ 32 →
          ∃ t, at' .join = .next t ∧ HaspDone s t ∧ t.HaspIs hid { v with p := v.p + 1 } ∧ (t.taskAt n).groups = k.groups ++ [hid]))) ∧
    (∀ (n hid : Nat) (k : Task), Map.find s.tasks n = some k → Map.get {} s.tasks n = k → k.wake = some hid →
      (s.core.holds n = true → s.core.wait = .hasp hid →
        ∃ u, exec (.wakeDelivery n) s = .next u ∧ s.SameRegs u ∧ s.Advanced 4 (s.core.pc + 4) u ∧ u.core.wait = .none ∧ (u.taskAt n).wake = none ∧
          ∀ key, k.granted = some key → ∀ l ∈ u.core.dcache, l.key ≠ key) ∧
      (∀ v, s.coreOfTask n = none → k.status = .parked → k.saved = some v → v.core.wait = .hasp hid →
        ∃ u w, exec (.wakeDelivery n) s = .next u ∧ (u.taskAt n).saved = some w ∧ w.core.wait = .none ∧ (v.core.lcnt = 0 → w.core.pc = v.core.pc + 4) ∧
          (u.taskAt n).status = .queued ∧ (u.taskAt n).wake = none ∧ (u.dieAt k.die).queue k.tenant k.prio = (s.dieAt k.die).queue k.tenant k.prio ++ [n])) ∧
    (∀ (j : Nat) (x : HaspFlight), s.core.flights[j]? = some x → HaspOk s x.hid s.core.tenant → x.hid % 64 = 0 →
      let v := s.hasp x.hid
      (x.rel = false → s.relPending x.hid x.order = false → (v.mode = 1 ∨ v.mode = 2 ∨ v.mode = 3) →
        (∀ t, x.unit = 0 → SlotIs x.a x.b t s → ∃ u, exec (.engineHaspOperation j) s = .next u ∧ SlotIs x.a x.b { t with acquired := true } u ∧
          u.core.flights = s.core.flights.eraseIdx j ∧ u.HaspIs x.hid v) ∧
        (∀ y rest, x.unit = 1 → (s.core.chan x.a).queue = y :: rest → ∃ u, exec (.engineHaspOperation j) s = .next u ∧
          (u.core.chan x.a).queue = { y with acquired := true } :: rest ∧ u.HaspIs x.hid v)) ∧
      (x.rel = true → (v.mode = 1 ∨ v.mode = 2 ∨ v.mode = 3) → v.wkind = 0 → s.flipWaiters x.hid = [] →
        (x.unit = 0 → x.b < 4 → ∃ u, exec (.engineHaspOperation j) s = .next u ∧ u.HaspIs x.hid (v.counted x.bytes) ∧
          Map.find (u.core.engine x.a).slots x.b = none ∧ (u.core.engine x.a).completed = (s.core.engine x.a).completed + 1) ∧
        (∀ y rest, x.unit = 1 → (s.core.chan x.a).queue = y :: rest → ∃ u, exec (.engineHaspOperation j) s = .next u ∧
          u.HaspIs x.hid (v.counted x.bytes) ∧ (u.core.chan x.a).queue = rest ∧ (u.core.chan x.a).completed = (s.core.chan x.a).completed + 1)) ∧
      (x.rel = true → (v.mode = 0 ∨ v.mode = 4) → x.unit = 0 → x.b < 4 → x.ref.toNat % 64 = 0 →
        ∃ u, exec (.engineHaspOperation j) s = .next u ∧ Held 12 (x.ref + 3) s u ∧ Map.find (u.core.engine x.a).slots x.b = none ∧
          (u.core.engine x.a).can = true ∧ (u.core.engine x.a).queue = [] ∧ u.HaspIs x.hid v))

/-- R261, R263 to R268, R296, R297, R6: the array takes the next ready command after the stream served last; an MLDW replaces its slot, an MMUL
writes its sums in lines that are full and exact, counting a corrected error of its weights; a shape that is not the slot's cancels the stream with
PROT, a sum that would start from estimates with TYPE; a slot passes on zeroed.
R269 to R280, R300 to R304: a lane starts the next ready fire; a ZERO array answers zeros, a drift writes NaN and infinity and declares the
array DRIFT, a sound fire writes estimates with their bounds, a lane that proves faulty is fenced with XWORN; a calibration holds its lane, then ends READY or DRIFT; an XPROG writes the cells,
counts, and ends READY or WORN; an array passes on erased, its shim record zero apart from ID and PROGS (where the record lies is log 98's choice).
R99: each of these accesses of a buffer goes where its banks grant it.
That an MMUL reads its activations as it completes and its accumulator as it stood at the start, or, where it acquires, behind its acquire, and that the
shapes are compared before the acquire, are the model's readings (log 45), and so is that READY follows whenever the verify of an XPROG passes (log 47);
that an XPROG takes its source bytes as the store holds them, a word with a lasting error too, is its choice (log 114). -/
def Obligations.EnginesAtWork : Prop :=
  ∀ s : State,
    let c := s.cluster
    (∀ key m rest, key < 64 → c.mturn < key → s.matrixReady key = true → (∀ k, c.mturn < k → k < key → s.matrixReady k = false) →
      c.mstream key = m :: rest →
      let n := s.core.id / 16 * 16 + key / 4
      ((m.load = true ∨ (m.k = (c.wslot m.slot).k ∧ m.n = (c.wslot m.slot).n)) → (m.hasp.acq = true ∨ m.accEst (s.coreAt n).acc = none) →
        (m.hasp.acq = false → m.load = false → opndAcc m.opnd = true → m.m ≠ 0 → AtBankOf n (.matrix key false) m.hasp.order 3 m.dst (4 * m.m * m.n) s) →
        ∃ u x, exec .matrixCommandStart s = .next u ∧ u.cluster.mturn = key ∧ u.cluster.mstream key = x :: rest ∧ x.acquired = !m.hasp.acq ∧ x.slot = m.slot ∧
          x.src = m.src ∧ x.dst = m.dst ∧
          (m.hasp.acq = false → m.load = false → opndAcc m.opnd = true → m.m ≠ 0 → x.prior = (s.coreAt n).acc.read m.dst (4 * m.m * m.n)) ∧ (if m.load then u.cluster.loading else u.cluster.multiplying) = some key ∧
          (u.coreAt n).flights = (s.coreAt n).flights ++
            (if m.hasp.acq then [{ ref := m.hasp.ref, hid := m.hasp.hid, order := m.hasp.order, unit := 2, a := key }] else [])) ∧
      (m.load = false → m.k = (c.wslot m.slot).k → m.n = (c.wslot m.slot).n → m.hasp.acq = false → m.accEst (s.coreAt n).acc = none → opndAcc m.opnd = true → m.m ≠ 0 →
        ¬AtBankOf n (.matrix key false) m.hasp.order 3 m.dst (4 * m.m * m.n) s →
        ∃ u, exec .matrixCommandStart s = .next u ∧ u.cluster.mstream key = c.mstream key ∧ u.cluster.multiplying = c.multiplying) ∧
      (m.load = false → (m.k ≠ (c.wslot m.slot).k ∨ m.n ≠ (c.wslot m.slot).n) →
        ∃ u, exec .matrixCommandStart s = .next u ∧ u.cluster.mstream key = [] ∧
          (u.coreAt n).asyncs = (s.coreAt n).asyncs ++ [{ cause := 4, value := BitVec.ofNat 64 m.dst }]) ∧
      (∀ l, m.load = false → m.k = (c.wslot m.slot).k → m.n = (c.wslot m.slot).n → m.hasp.acq = false → m.accEst (s.coreAt n).acc = some l →
        ∃ u, exec .matrixCommandStart s = .next u ∧ u.cluster.mstream key = [] ∧ (u.coreAt n).asyncs = (s.coreAt n).asyncs ++
          [{ cause := 5, value := BitVec.ofNat 64 (l * 128 % 2 ^ 32 * 2 ^ 32 + 2 ^ 30 + 3 * 2 ^ 16 + 32 + key % 4 * 4) }])) ∧
    (∀ key m rest, c.mstream key = m :: rest → m.acquired = true → m.relSent = false → m.hasp.rel = false →
      let n := s.core.id / 16 * 16 + key / 4
      let b := s.coreAt n
      (c.loading = some key → 0 < blockBytes m.fmt (m.n * m.k) →
        (∀ x, m.src ≤ x → x < m.src + blockBytes m.fmt (m.n * m.k) → b.wgt.full (x / 128) = true ∧ b.wgt.isEst (x / 128) = false) →
        AtBankOf n (.matrix key false) m.hasp.order 2 m.src (blockBytes m.fmt (m.n * m.k)) s →
        ∃ u, exec (.matrixCommandComplete true .clean) s = .next u ∧ u.cluster.mstream key = rest ∧ u.cluster.loading = none ∧
          (let w := u.cluster.wslot m.slot
           w.fmt = m.fmt ∧ w.k = m.k ∧ w.n = m.n ∧ w.owner = (c.wslot m.slot).owner ∧
             ∀ i, i < blockBytes m.fmt (m.n * m.k) → Map.get 0 w.bytes i = b.wgt.byte (m.src + i))) ∧
      (c.multiplying = some key → m.load = false → m.hasp.acq = true → opndAcc m.opnd = true → m.m ≠ 0 → m.prior = [] → m.n ≠ 0 →
        m.accEst b.acc = none → AtBankOf n (.matrix key false) m.hasp.order 3 m.dst (4 * m.m * m.n) s →
        ∃ u, exec (.matrixCommandComplete false .clean) s = .next u ∧ u.cluster.multiplying = some key ∧
          u.cluster.mstream key = { m with prior := b.acc.read m.dst (4 * m.m * m.n) } :: rest) ∧
      (c.multiplying = some key → m.m ≠ 0 → 0 < blockBytes m.fmt (m.m * m.k) → m.dst % 128 = 0 →
        (m.hasp.acq = true → opndAcc m.opnd = true → m.load = false → 4 * m.m * m.n ≤ m.prior.length) →
        (∀ x, m.src ≤ x → x < m.src + blockBytes m.fmt (m.m * m.k) → b.act.full (x / 128) = true ∧ b.act.isEst (x / 128) = false) →
        AtBankOf n (.matrix key false) m.hasp.order 1 m.src (blockBytes m.fmt (m.m * m.k)) s →
        AtBankOf n (.matrix key true) m.hasp.order 3 m.dst (4 * m.m * m.n) s →
        ∀ ecc, (ecc = .clean ∨ ecc = .corrected ∨ ecc = .transient) →
        ∃ u, exec (.matrixCommandComplete false ecc) s = .next u ∧ u.cluster.mstream key = rest ∧ u.cluster.multiplying = none ∧
          u.cluster.weightCorrected = c.weightCorrected + (if ecc = .clean then 0 else 1) ∧
          LinesHold (u.coreAt n).acc (m.dst / 128) (4 * m.m * m.n / 128) false ∧
          ∀ row col, row < m.m → col < m.n → wordAt (u.coreAt n).acc (m.dst + 4 * (row * m.n + col)) =
            (matrixResult m.fmt (c.wslot m.slot).fmt m.k (fun k => blockValue b.act.byte m.fmt m.src (m.m * m.k) (row * m.k + k))
              (fun k => blockValue (fun a => Map.get 0 (c.wslot m.slot).bytes a) (c.wslot m.slot).fmt 0 ((c.wslot m.slot).n * (c.wslot m.slot).k)
                (col * (c.wslot m.slot).k + k))
              (BitVec.ofNat 32 (leValue ((m.prior.drop (4 * (row * m.n + col))).take 4)))).toNat)) ∧
    (∀ slot tenant, slot < 64 → (∀ e ∈ c.mstreams, ∀ m ∈ e.2, m.slot ≠ slot) → (c.wslot slot).bad = false →
      ∃ u, exec (.slotReassign slot tenant) s = .next u ∧ u.cluster.wslot slot = { owner := some tenant }) ∧
    (∀ lane k arr x rest, k < 16 → Map.find c.lanes lane = none → Map.get 15 c.laneTurn lane < k → s.fireReady lane (s.core.id / 16 * 16 + k) = some arr →
      (∀ j, Map.get 15 c.laneTurn lane < j → j < k → s.fireReady lane (s.core.id / 16 * 16 + j) = none) → (c.array arr).queue = x :: rest →
      (x.hasp.acq = false ∨ x.acquired = true) → (∀ y, x.src ≤ y → y < x.src + 640 → (s.coreAt x.core).act.isEst (y / 128) = false) →
      AtBankOf x.core (.fire arr false) x.hasp.order 1 x.src 640 s →
      ∃ u z, exec (.fireStart lane) s = .next u ∧ (u.cluster.array arr).queue = z :: rest ∧ z.started = true ∧
        z.badShim = (!c.shimCache.contains arr && s.shimBad arr) ∧ z.input = (s.coreAt x.core).act.read x.src 516 ∧
        z.dst = x.dst ∧ Map.get 15 u.cluster.laneTurn lane = k) ∧
    (∀ lane arr a x rest, (arr, a) ∈ c.arrays → c.array arr = a → laneOf arr = lane → a.queue = x :: rest → x.kind = 1 → x.started = true → x.relSent = false →
      (∀ e ∈ c.arrays, laneOf e.1 = lane → (∃ y ∈ e.2.queue.head?, y.kind = 1 ∧ y.started = true ∧ y.relSent = false) → e = (arr, a)) →
      c.fencedLane arr = false → x.hasp.rel = false → x.dst % 128 = 0 → AtBankOf x.core (.fire arr true) x.hasp.order 3 x.dst 2048 s →
      let done := fun (u : State) => (u.cluster.array arr).queue = rest ∧ LinesHold (u.coreAt x.core).acc (x.dst / 128) 16 true
      let row := fun (u : State) j => (wordAt (u.coreAt x.core).acc (x.dst + 4 * j), wordAt (u.coreAt x.core).acc (x.dst + 1024 + 4 * j))
      (a.state = .zero → ∃ u, exec (.fireComplete { lane := lane }) s = .next u ∧ done u ∧ ∀ j, j < 256 → row u j = (0, 0)) ∧
      (a.state = .ready → ∀ r, a.driftReason x s.free = some r → ∃ u, exec (.fireComplete { lane := lane }) s = .next u ∧ done u ∧
        (u.cluster.array arr).state = .drift ∧ (u.cluster.array arr).drs = r ∧ (∀ j, j < 256 → row u j = (0x7FC00000, 0x7F800000)) ∧
        (u.coreAt x.core).asyncs = (s.coreAt x.core).asyncs ++ [{ cause := 7, value := BitVec.ofNat 64 (x.dst * 2 ^ 32 + r * 2 ^ 20 + arr) }]) ∧
      (a.state = .ready → a.driftReason x s.free = none → ∃ u, exec (.fireComplete { lane := lane }) s = .next u ∧ done u ∧ (u.cluster.array arr).state = .ready ∧
        ∀ j, j < 256 → row u j = ((a.output x s.free j).1.toNat, (a.output x s.free j).2.toNat)) ∧
      (∃ u, exec (.fireComplete { lane := lane, fault := true }) s = .next u ∧ done u ∧ u.cluster.fencedLane arr = true ∧
        (∀ j, j < 256 → row u j = (0x7FC00000, 0x7F800000)) ∧ (u.coreAt x.core).asyncs = (s.coreAt x.core).asyncs ++
          [{ cause := 8, value := BitVec.ofNat 64 (a.progs * 2 ^ 32 + 4 * 2 ^ 20 + arr) }])) ∧
    (∀ arr x rest, (c.array arr).queue = x :: rest → x.kind = 2 →
      (x.started = false → Map.find c.lanes (laneOf arr) = none → c.fencedLane arr = false → (c.array arr).state ≠ .worn → (c.array arr).state ≠ .zero →
        ∃ u, exec (.calibration arr) s = .next u ∧ (u.cluster.array arr).queue = { x with started := true } :: rest ∧
          (u.cluster.array arr).state = .programming ∧ Map.find u.cluster.lanes (laneOf arr) = some arr) ∧
      (x.started = true → ∃ u, exec (.calibration arr) s = .next u ∧ (u.cluster.array arr).queue = rest ∧ Map.find u.cluster.lanes (laneOf arr) = none ∧
        ((u.cluster.array arr).state = .ready ∨ (u.cluster.array arr).state = .drift) ∧ (u.cluster.array arr).calCyc = BitVec.ofNat 64 s.cyc ∧
        (u.cluster.array arr).levels = (c.array arr).levels)) ∧
    (∀ arr x rest, (c.array arr).queue = x :: rest → x.kind = 0 → x.relSent = false → x.core = s.core.id →
      (∀ v, x.started = false → (x.hasp.acq = false ∨ x.acquired = true) → c.fencedLane arr = false → (c.array arr).state ≠ .worn → (c.array arr).progs < 1000000 →
        (∀ k, k < 131072 → -15 ≤ s.sourceLevel x.src k ∧ s.sourceLevel x.src k ≤ 15) →
        ∃ u, exec (.programming arr v) s = .next u ∧ (u.cluster.array arr).queue = { x with started := true } :: rest ∧
          (u.cluster.array arr).state = .programming ∧ (u.cluster.array arr).progs = (c.array arr).progs + 1 ∧
          ∀ k, k < 131072 → Map.get 0 (u.cluster.array arr).levels k = s.sourceLevel x.src k) ∧
      (x.started = true → Map.find c.lanes (laneOf arr) = none → x.hasp.rel = false →
        (∃ u, exec (.programming arr true) s = .next u ∧ (u.cluster.array arr).queue = rest ∧ (u.cluster.array arr).state = .ready ∧ (u.cluster.array arr).drs = 0) ∧
        (∃ u, exec (.programming arr false) s = .next u ∧ (u.cluster.array arr).queue = rest ∧ (u.cluster.array arr).state = .worn ∧
          Held 8 (BitVec.ofNat 64 ((c.array arr).progs * 2 ^ 32 + 2 * 2 ^ 20 + arr)) s u))) ∧
    (∀ arr tenant, arr < 8192 → (c.array arr).queue = [] → (c.array arr).state ≠ .worn →
      ∃ u, exec (.arrayErase arr tenant) s = .next u ∧ u.cluster.array arr = { owner := some tenant, progs := (c.array arr).progs + 1 } ∧
        StoredAt State.memByte (s.shimAt s.core.clusterKey arr)
          (bytesOf 4 (shimId s.core.clusterKey arr) ++ bytesOf 4 ((c.array arr).progs + 1) ++ List.replicate 568 0) s u)

namespace Sys2Proof.Machine

/-- No TLB of the package holds a translation of a page, no instruction cache a line of it (R325, R236). -/
def Invalidated (p va size : Nat) (u : State) : Prop :=
  (∀ k, ∀ e ∈ (u.dieAt k).tlb, ¬(e.proc = p ∧ va ≤ e.va ∧ e.va < va + size)) ∧
  ∀ k, (∀ e ∈ (u.coreAt k).utlb, ¬(e.proc = p ∧ va ≤ e.va ∧ e.va < va + size)) ∧
    ∀ l ∈ (u.coreAt k).icache, ¬(l.proc = p ∧ va ≤ 64 * l.line ∧ 64 * l.line < va + size)

/-- Every data-cache line of a frame is clean. -/
def CleanFrame (frame size : Nat) (s : State) : Prop :=
  (∀ l ∈ s.core.dcache, inFrame frame size l = true → l.dirty = 0) ∧ ∀ c ∈ s.others, ∀ l ∈ c.2.dcache, inFrame frame size l = true → l.dirty = 0

/-- A page's entry as it stands: its STATE and its frame (R323). -/
def PageIs (e : TlbEntry) (st frame : Nat) (u : State) : Prop := pteState (u.pteAt e.ptePa) = st ∧ pteFrame (u.pteAt e.ptePa) = frame

/-- A frame's contents moved unchanged. -/
def Moved (old new size : Nat) (s u : State) : Prop := ∀ i, i < size → u.memByte (new + i) = s.memByte (old + i)

/-- A number that can be a frame's address in an entry. -/
def FrameNumber (frame : Nat) : Prop := frame % 65536 = 0 ∧ frame < 2 ^ 52

end Sys2Proof.Machine

/-- R318 to R330, R363: a controller opens the row of a present address, counts activations and errors, and takes a lasting one's frame out of use;
an absent address is a fault of the model; refreshes clear a row's counter, the periodic one behind the neighbours' refresh and the hold that a row at
2,048 is owed; a walk that can read its tables enters a leaf in the TLB and sets A; the broadcast invalidates
the oldest change everywhere; a fault goes to its serving pager, or, where no path reaches that one, to its own die's as a memory error (R393, R402); the pager gives a ZERO page a cleared frame and a SWAPPED one its contents, and makes
a DISCARDED one PRESENT and zero, in no TLB any more; Hythen gives a frame where the tenant's list is empty, or declares the fault fatal; migration,
swapping and reclamation move a page with its contents unchanged, and wait while commands have hasps in it (R281); a migration's end returns every
token that waits for it in the same step (R327). A page whose copy fails with a lasting memory error, or that lies on a fenced die (R402), is not
copied: that escalates.
That a swap-out and a reclamation change entry, TLBs and lines in one step is the model's reading (log 57), and so is how a migration ends (log 58); that
Hythen leaves its own record pages alone is its choice (log 141). -/
def Obligations.MemoryAtWork : Prop :=
  ∀ s : State,
    (∀ pa w ecc, ¬(pa < 2 ^ 41 ∧ pa % 2 ^ 37 < 0x1800000000) → exec (.dramAccess pa w ecc) s = .fault (.absentAddress pa)) ∧
    (∀ pa w, pa < 2 ^ 41 → pa % 2 ^ 37 < 0x1800000000 →
      let k := pa / 2 ^ 37
      let row := pa % 2 ^ 37 / 1024
      let d := s.dieAt k
      d.fenced = false → (∀ e ∈ d.activations, bankOf e.1 = bankOf row → e.2 < 2048) →
      ∀ ecc, ∃ u, exec (.dramAccess pa w ecc) s = .next u ∧ Map.find (u.dieAt k).openRow (bankOf row) = some row ∧
        Map.get 0 (u.dieAt k).activations row = (if Map.find d.openRow (bankOf row) = some row then Map.get 0 d.activations row else Map.get 0 d.activations row + 1) ∧
        (u.dieAt k).corrected = (if ecc = .corrected ∨ ecc = .transient then d.corrected + 1 else d.corrected) ∧
        (ecc = .lasting → pa / 8 ∈ (u.dieAt k).badWords ∧ (pa / 8 ∉ d.badWords → pa / 65536 * 65536 ∈ (u.dieAt k).outOfUse))) ∧
    (∀ row, 2048 ≤ Map.get 0 s.die.activations row → ∃ u, exec (.rowHammerRefresh row) s = .next u ∧ Map.get 0 u.die.activations row = 0 ∧
      Map.get 0 u.die.holds (bankOf row) = Map.get 0 s.die.holds (bankOf row) + 1) ∧
    (∀ row, ∃ u, exec (.periodicRefresh row) s = .next u ∧ Map.get 0 u.die.activations row = 0 ∧ u.mem = s.mem ∧
      Map.get 0 u.die.holds (bankOf row) = Map.get 0 s.die.holds (bankOf row) + (if 2048 ≤ Map.get 0 s.die.activations row then 1 else 0)) ∧
    (∀ p va e, tlbFind s.die.tlb p (va57 va) = none → s.walk p (va57 va) = some e → (pteState e.pte = 0 ∨ pteState e.pte = 4) → s.walkBad p (va57 va) = false →
      ∃ u, exec (.tlbMissWalk p va) s = .next u ∧ u.die.tlb.head? = some { e with pte := e.pte ||| 0x800 } ∧ u.pteAt e.ptePa = e.pte ||| 0x800) ∧
    (∀ p va size rest, s.pkg.unacked = (p, va, size) :: rest →
      ∃ u, exec .invalidationBroadcast s = .next u ∧ u.pkg.unacked = rest ∧ Invalidated p va size u ∧ u.mem = s.mem ∧ u.ptes = s.ptes) ∧
    (∀ k f, s.core.faults[k]? = some f → s.faultCase f ≠ .fine → s.stackCut (f.core / 256) (s.serving f) = true → (s.dieAt (f.core / 256)).pager.length < 256 →
      ∃ u, exec (.faultToken k) s = .next u ∧ u.core.faults = s.core.faults.eraseIdx k ∧
        (u.dieAt (f.core / 256)).pager = (s.dieAt (f.core / 256)).pager ++ [{ f with reason := 4 }]) ∧
    (∀ k f, s.core.faults[k]? = some f → s.faultCase f ≠ .fine → s.stackCut (f.core / 256) (s.serving f) = false → (s.dieAt (s.serving f)).pager.length < 256 →
      ∃ u, exec (.faultToken k) s = .next u ∧ u.core.faults = s.core.faults.eraseIdx k ∧
        (u.dieAt (s.serving f)).pager = (s.dieAt (s.serving f)).pager ++ [f]) ∧
    (∀ k f e, s.die.pager[k]? = some f → s.faultCase f = .paged e → s.memWf = true →
      let old := pteFrame e.pte
      let key := s.tenantOf e.proc * 2 + (if e.size = 65536 then 0 else 1)
      let free := Map.get [] (s.dieAt (paStack old)).free key
      (pteState e.pte = 4 → s.cutOff old = false → ∃ u, exec (.pagerResolution k) s = .next u ∧ PageIs e 0 old u ∧ (∀ i, i < e.size → u.memByte (old + i) = 0) ∧ f ∉ u.die.pager ∧
        Invalidated e.proc e.va e.size u ∧ u.pkg.unacked = s.pkg.unacked) ∧
      (∀ frame rest, free = frame :: rest → e.size ≤ 2 ^ 21 → FrameNumber frame → paStack frame = paStack old → (s.dieAt (paStack old)).fenced = false →
        (pteState e.pte = 1 → ∃ u, exec (.pagerResolution k) s = .next u ∧ PageIs e 0 frame u ∧ (∀ i, i < e.size → u.memByte (frame + i) = 0) ∧
          f ∉ u.die.pager ∧ Map.get [] (u.dieAt (paStack old)).free key = rest) ∧
        (pteState e.pte = 2 → CleanFrame old e.size s → s.wordsBad old e.size = false → ∃ u, exec (.pagerResolution k) s = .next u ∧ PageIs e 0 frame u ∧ Moved old frame e.size s u ∧
          f ∉ u.die.pager)) ∧
      (pteState e.pte = 2 → s.wordsBad old e.size = true → exec (.pagerResolution k) s = .next s) ∧
      (∀ frame, free = [] → e.size ≤ 2 ^ 21 → pteState e.pte = 1 → FrameNumber frame → s.frameOk e frame = true → s.cutOff frame = false →
        ∃ u, exec (.faultEscalation k (.resolved (some frame))) s = .next u ∧ PageIs e 0 frame u ∧ (∀ i, i < e.size → u.memByte (frame + i) = 0) ∧
          f ∉ u.die.pager)) ∧
    (∀ f r, s.die.pager = [f] → (s.faultCase f = .noLeaf ∧ r = 1 ∨ s.faultCase f = .right ∧ r = 2 ∨
        ∃ e, s.faultCase f = .paged e ∧ pteState e.pte = 2 ∧ s.wordsBad (pteFrame e.pte) e.size = true ∧ r = 4) → f.unit = .thread → f.core = s.core.id → f.proc = s.core.proc →
      ∃ u, exec (.faultEscalation 0 (.fatal r)) s = .next u ∧ u.core.fatal = some f.va ∧ u.die.pager = []) ∧
    (∀ p va e, s.walk p (va57 va) = some e → s.memWf = true →
      let old := pteFrame e.pte
      let busy := s.haspBusy old e.size
      let back := fun (u : State) => ∀ f ∈ s.migrationTokens e, f ∉ (u.dieAt (paStack old)).pager
      let copies := fun (a b : Nat) => s.wordsBad a e.size = false ∧ s.cutOff a = false ∧ s.cutOff b = false ∧ s.reaches (paStack a) (paStack b) = true
      (busy = true → (pteState e.pte = 0 ∨ pteState e.pte = 4) →
        (∀ stack, exec (.pageMigration p va stack) s = .next s) ∧ (∀ copy, exec (.swapOut p va copy) s = .next s) ∧ exec (.reclamation p va) s = .next s) ∧
      (∀ stack, pteState e.pte = 0 → pteFib e.pte = false → s.recordPage e = false → stack < 16 → busy = false → ∃ u, exec (.pageMigration p va stack) s = .next u ∧ PageIs e 3 old u ∧
        u.mem = s.mem ∧ u.pkg.migrations = s.pkg.migrations ++ [(p, e.va, stack)] ∧ u.pkg.unacked = s.pkg.unacked ++ [(p, e.va, e.size)]) ∧
      (∀ stack, pteState e.pte = 3 → s.migration p e.va = some stack → s.pageUnacked p e.va = false →
        (∃ u, exec (.migrationEnd p va .returned) s = .next u ∧ PageIs e 0 old u ∧ u.migration p e.va = none ∧ u.mem = s.mem ∧ back u) ∧
        (∃ u, exec (.migrationEnd p va .fatal) s = .next u ∧ pteV (u.pteAt e.ptePa) = false ∧ u.migration p e.va = none ∧ back u) ∧
        (∀ frame, FrameNumber frame → paStack frame = stack → frame ∈ s.freeFrames stack (s.tenantOf p) e.size → CleanFrame old e.size s →
          copies old frame →
          ∃ u, exec (.migrationEnd p va (.done frame)) s = .next u ∧ PageIs e 0 frame u ∧ Moved old frame e.size s u ∧ u.migration p e.va = none ∧ back u) ∧
        (∀ frame, s.wordsBad old e.size = true ∨ s.cutOff old = true ∨ s.cutOff frame = true → exec (.migrationEnd p va (.done frame)) s = .next s)) ∧
      (∀ copy, pteState e.pte = 0 → pteFib e.pte = false → s.recordPage e = false → FrameNumber copy → s.frameOk e copy = true →
        copies old copy → busy = false → CleanFrame old e.size s → ∃ u, exec (.swapOut p va copy) s = .next u ∧ PageIs e 2 copy u ∧ Moved old copy e.size s u ∧ Invalidated p e.va e.size u) ∧
      (pteState e.pte = 4 → s.pageUnacked p e.va = false → busy = false → ∃ u, exec (.reclamation p va) s = .next u ∧ PageIs e 1 (old / 2 ^ 37 * 2 ^ 37) u ∧ u.mem = s.mem ∧
        Invalidated p e.va e.size u))

namespace Sys2Proof.Machine

/-- The entries of a fibre in the order of its chain. -/
def State.entries (s : State) (pa : Nat) : List (W32 × W32) := (s.fibChain pa).flatMap (fun g => g.ents)

/-- A row that can join a fibre's chain: no row of it, off its header. -/
def RowApart (pa u : Nat) : Prop := rowPa (paStack pa) u + 1024 ≤ pa ∨ pa + 64 ≤ rowPa (paStack pa) u

/-- A sound fibre (R332, R334): as many segments as NSEG says, in distinct rows off the header, 1 to 126 entries each, keys ascending over the
chain. -/
structure FibreOk (s : State) (pa : Nat) : Prop where
  whole : (s.fibChain pa).length = (s.fhdr pa).nseg ∧ (s.fhdr pa).nseg + 1 < 2 ^ 32
  rows : ((s.fibChain pa).map (fun g => g.row)).Nodup
  segs : ∀ g ∈ s.fibChain pa, 0 < g.ents.length ∧ g.ents.length ≤ 126 ∧ RowApart pa g.row
  keys : (s.entries pa).Pairwise (fun x y => x.1.toNat < y.1.toNat)

/-- The pool can give a row (R342): a guaranteed one, and every free row is off the fibre. -/
def PoolRoom (s : State) (pa : Nat) : Prop :=
  (∃ p, Map.find (s.dieAt (paStack pa)).pools (s.fhdr pa).pool = some p ∧ p.used < p.quota) ∧ (s.dieAt (paStack pa)).rowsFree ≠ [] ∧
  ∀ u ∈ (s.dieAt (paStack pa)).rowsFree, u < 0xFFFFFFFF ∧ RowApart pa u ∧ ∀ g ∈ s.fibChain pa, g.row ≠ u

/-- The core of a posted operation reaches its home (R393); a flow's operation comes from the home's own package (R412). -/
def Posted (o : FibOp) (pa : Nat) (s : State) : Prop := o.flow ≠ none ∨ s.reaches (o.core / 256) (paStack pa) = true

/-- The entry that a home applies next from an issuer's queue (R337, R353): of an FMERGE its own, of an FMRGF the next one that its scan
delivered; the format in which it comes, and the queue behind it. -/
inductive NextMerge (s : State) (o : FibOp) (rest : List FibOp) : W32 → W32 → BitVec 4 → List FibOp → Prop where
  | single : o.kind = 0 → Posted o o.hdr s → (∀ id a, o.flow = some id → s.pkg.arriving.find? (fun a => a.id == id) = some a → a.op.href = none) → s.fibCheck o.hdr o.tenant (some o.fmt) false = none → NextMerge s o rest o.key o.val o.fmt rest
  | fibre (k v : W32) (more : List (W32 × W32)) : o.kind ≠ 0 → o.buffer = (k, v) :: more → Posted o o.hdr s → s.fibCheck o.hdr o.tenant none false = none →
      fmrgfOk o.srcFmt (s.fhdr o.hdr).vfmt = true →
      NextMerge s o rest k v (if (s.fhdr o.hdr).vfmt = 0 then 0 else 0xC) ({ o with buffer := more } :: rest)

end Sys2Proof.Machine

/-- R333, R336, R337, R340 to R343, R348, R349, R353, R357, R358: a home applies an entry to a sound fibre: an old value combines with the new one, a new
key is inserted in order, a result of zero goes where the fibre drops zeros; the operation leaves its queue; a refused one reaches the task, on its core
or in its saved context, or fails the stream that sent it and drops that stream's later merges (R359, R361); one whose core no longer reaches the home
fails with reason 5, an entry of an FMRGF whose destination does not take its format with reason 4 (R353; R393: that it fails at its application is the model's reading, log 117). A probe answers its key's value or AUX, a scan step the entries above its cursor; an acceptance notice and a failure report reach the core. -/
def Obligations.FibreHomes : Prop :=
  ∀ s : State,
    (∀ issuer o rest k v fmt q, s.die.fibQueue issuer = o :: rest → NextMerge s o rest k v fmt q → FibreOk s o.hdr → s.fibDamaged o.hdr .chain = false →
      let h := s.fhdr o.hdr
      let x := fibConvert h.vfmt fmt v
      let applied := fun (u : State) => u.die.fibQueue issuer = q ∧ (o.kind = 0 → ∀ e j t, o.stream = some (e, j) → s.core.holds o.task = true → SlotIs e j t s →
        SlotIs e j (if o.seq = t.cmd.hasp.order then { t with merges := t.merges + 1 } else t) u)
      (∀ w, (s.entries o.hdr).find? (fun e => e.1 == k) = some (k, w) →
        let r := fibCombine h.vfmt h.comb w x
        ((h.dz = false ∨ fibIsZero h.vfmt r = false) → ∃ u, exec (.mergeEntry issuer) s = .next u ∧ applied u ∧
          u.entries o.hdr = replaceEntry k (fibStore h.vfmt r) (s.entries o.hdr) ∧ (u.fhdr o.hdr).ncomb = (h.ncomb + 1) % 2 ^ 32) ∧
        (h.dz = true → fibIsZero h.vfmt r = true → ∃ u, exec (.mergeEntry issuer) s = .next u ∧ applied u ∧
          u.entries o.hdr = (s.entries o.hdr).filter (fun e => e.1 != k) ∧ (u.fhdr o.hdr).ndrop = (h.ndrop + 1) % 2 ^ 32)) ∧
      ((s.entries o.hdr).find? (fun e => e.1 == k) = none → (h.dz = false ∨ fibIsZero h.vfmt x = false) →
        ((s.fibChain o.hdr ≠ [] ∧ ∀ g ∈ s.fibChain o.hdr, g.ents.length < 126) ∨ PoolRoom s o.hdr) →
        ∃ u, exec (.mergeEntry issuer) s = .next u ∧ applied u ∧ u.entries o.hdr = insertEntry k (fibStore h.vfmt x) (s.entries o.hdr))) ∧
    (∀ issuer o rest r, s.die.fibQueue issuer = o :: rest → o.kind = 0 → s.fibDamaged o.hdr .chain = false →
      (if s.reaches (o.core / 256) (paStack o.hdr) then s.fibCheck o.hdr o.tenant (some o.fmt) false else some 5) = some r → o.flow = none →
      (∀ e j t, o.stream = some (e, j) → s.core.holds o.task = true → SlotIs e j t s → ∃ u, exec (.mergeEntry issuer) s = .next u ∧ u.mem = s.mem ∧
        u.die.fibQueue issuer = rest.filter (fun q => q.seq != o.seq) ∧
        SlotIs e j (if o.seq = t.cmd.hasp.order then { t with failed := some r } else t) u) ∧
      (o.stream = none →
      let cause := if r = 1 then 9 else 4
      let value := BitVec.ofNat 64 (o.va.toNat / 64 * 64 + r)
      (s.core.holds o.task = true → ∃ u, exec (.mergeEntry issuer) s = .next u ∧ u.die.fibQueue issuer = rest ∧ u.mem = s.mem ∧
        u.core.postFails = s.core.postFails ++ [(cause, value)]) ∧
      (∀ k v, s.coreOfTask o.task = none → Map.find s.tasks o.task = some k → k.saved = some v →
        ∃ u k' v', exec (.mergeEntry issuer) s = .next u ∧ u.die.fibQueue issuer = rest ∧ u.mem = s.mem ∧ Map.find u.tasks o.task = some k' ∧
          k'.saved = some v' ∧ v'.core.asyncs = v.core.asyncs ++ [{ cause := cause, value := value, fibre := true }]))) ∧
    (∀ e slot t pa x w, SlotIs e slot t s → t.runs = true → t.cmd.port < 16 → s.core.qreq = none → s.fibUsed s.taskNum pa t.cmd.hasp.order = false →
      s.fibDamaged pa .chain = false → s.fibCheck pa s.core.tenant none false = none →
      let p := t.cmd.pat
      let h := s.fhdr pa
      (∀ key, p.kind = 3 → t.buffer = [] → t.tile = false → t.row < p.outer → p.inner ≠ 0 →
        GenReads p.space (p.address (t.row * p.inner + t.pos)) 4 p.est s key w →
        AtBank (.stream e slot) t.cmd.hasp.order p.space (p.address (t.row * p.inner + t.pos)).toNat 4 s → w.translate w.core.proc 0 true (va57 p.xbase) = .frame pa x →
        ∃ u, exec (.probe e slot) s = .next u ∧ SlotIs e slot { t with buffer := [(BitVec.ofNat 32 key,
          match (s.entries pa).find? (fun y => y.1 == BitVec.ofNat 32 key) with
          | some y => if key = 0xFFFFFFFF then p.aux else fibToken h.vfmt p y.2
          | none => p.aux)] } u) ∧
      (∀ g, p.kind = 2 → t.done = false → t.buffer.length < 2 → s.translate s.core.proc 0 true (va57 p.base) = .frame pa x →
        let lo := p.xbase.toNat % 2 ^ 32
        let hi := p.xbase.toNat / 2 ^ 32
        let above := fun (y : W32 × W32) => match t.cursor with
          | some c => decide (c < y.1.toNat)
          | none => decide (lo ≤ y.1.toNat)
        (s.fibChain pa).find? (fun g => g.ents.any above) = some g →
        let all := g.ents.filter above
        let kept := all.filter (fun y => hi == 0 || decide (y.1.toNat < hi))
        ∃ u z, exec (.scanStep (.stream e slot)) s = .next u ∧ SlotIs e slot z u ∧
          z.buffer = t.buffer ++ kept.map (fun y => (y.1, fibToken h.vfmt p y.2)) ∧ z.done = decide (kept.length < all.length) ∧
          z.cursor = (all.getLast?).map (fun y => y.1.toNat))) ∧
    (∀ issuer o rest g, s.die.fibQueue issuer = o :: rest → o.kind = 1 → o.scanned = false → o.buffer = [] → s.fibPending o.task o.src o.seq = false → s.fibUsed o.task o.hdr o.seq = false →
      Posted o o.hdr s → Posted o o.src s →
      s.fibDamaged o.hdr .header = false → s.fibDamaged o.src .chain = false → s.fibCheck o.hdr o.tenant none false = none → s.fibCheck o.src o.tenant none false = none →
      fmrgfOk (s.fhdr o.src).vfmt (s.fhdr o.hdr).vfmt = true →
      let above := fun (y : W32 × W32) => match o.cursor with
        | some c => decide (c < y.1.toNat)
        | none => true
      (s.fibChain o.src).find? (fun g => g.ents.any above) = some g →
      ∃ u, exec (.scanStep (.merge issuer)) s = .next u ∧ u.mem = s.mem ∧
        (let last := ((g.ents.filter above).getLast?).map (fun y => y.1.toNat)
         u.die.fibQueue issuer = { o with buffer := g.ents.filter above, cursor := last, srcFmt := (s.fhdr o.src).vfmt } :: rest)) ∧
    (∀ issuer o rest e more, s.die.fibQueue issuer = o :: rest → o.kind ≠ 0 → o.buffer = e :: more → o.stream = none → o.flow = none → Posted o o.hdr s →
      s.fibDamaged o.hdr .chain = false → s.fibCheck o.hdr o.tenant none false = none → fmrgfOk o.srcFmt (s.fhdr o.hdr).vfmt = false →
      s.core.holds o.task = true → ∃ u, exec (.mergeEntry issuer) s = .next u ∧ u.die.fibQueue issuer = rest ∧ u.mem = s.mem ∧
        u.core.postFails = s.core.postFails ++ [(4, BitVec.ofNat 64 (o.va.toNat / 64 * 64 + 4))]) ∧
    (s.core.posted ≠ 0 → exec .acceptanceNotice s = .next { s with core := { s.core with posted := s.core.posted - 1 } }) ∧
    (∀ f rest, s.core.postFails = f :: rest → exec .postedFailure s =
      .next { s with core := { s.core with postFails := rest, asyncs := s.core.asyncs ++ [{ cause := f.1, value := f.2, fibre := true }] } })

/-- R364, R365, R367, R369, R371 to R380, R258: a launch on a bound slot creates and queues a task and counts in the slot, whose CODE says what became of
it; a free core takes the task that the scheduler chooses, from its first state, or is scrubbed first where another tenant used it last; a pre-emption
asks one running core for quiescence, a long wait its own; entries spill in order, each as a record of 64 bytes in its tenant's spill region, whose leaf has A and D set then (R323), or, where that fails, stay and hold their tenant, and return in
order; a hold ends once the region works again and the tenant's entries on chip fit its guaranteed count (R377); a kill ends a task that is on no core or at a stop, and asks
a running one for its quiescent point; a scrub and the end of a partition leave zeros (but for the fault-seen bits, which mark the core's hardware: log 106).
That a task counts as running on its core from the scheduler's decision on is the model's reading (log 50), and so is that every launch of a tenant
which is not held finds a slot and is QUEUED (R367's SlotAvailable; log 52); the bytes of a spill record are its choice (log 95). -/
def Obligations.Scheduling : Prop :=
  ∀ s : State,
    let c := s.core
    (∀ p slot arg pr, slot < 64 → Map.find s.procs p = some pr → Map.get {} s.procs p = pr →
      let v := Map.get {} pr.slots slot
      let coded := fun (u : State) (k : Nat) => let w := (u.procAt p).slot slot
        w.code = k ∧ w.arg = arg ∧ w.handle = v.handle ∧ w.launches = (v.launches + 1) % 2 ^ 16
      (v.binding = none → ∃ u, exec (.launch p slot arg) s = .next u ∧ coded u 3 ∧ u.tasks = s.tasks) ∧
      (∀ b, v.binding = some b →
        let named := v.handle = BitVec.ofNat 64 (p % 2 ^ 32 * 2 ^ 32 + b.gen % 2 ^ 16 * 2 ^ 16 + slot)
        (¬ named → ∃ u, exec (.launch p slot arg) s = .next u ∧ coded u 4 ∧ u.tasks = s.tasks) ∧
        (named → s.tenantHeld b.die pr.tenant = true → ∃ u, exec (.launch p slot arg) s = .next u ∧ coded u 2 ∧ u.tasks = s.tasks) ∧
        (named → s.tenantHeld b.die pr.tenant = false → (s.dieAt b.die).fenced = false →
          ∃ u n, exec (.launch p slot arg) s = .next u ∧ coded u 1 ∧ ((u.procAt p).slot slot).last = n ∧ n / 2 ^ 28 = b.die % 16 ∧
            (let t := u.taskAt n
             t.entry = b.entry ∧ t.arg = arg ∧ t.images = b.images ∧ t.prio = b.prio ∧ t.tenant = pr.tenant ∧ t.proc = p ∧ t.die = b.die ∧ t.status = .queued) ∧
            (u.dieAt b.die).queue pr.tenant b.prio = (s.dieAt b.die).queue pr.tenant b.prio ++ [n]))) ∧
    (∀ n turn used, c.free = true → c.id % 256 ≠ 255 → s.die.fenced = false → s.choose c = some (n, turn, used) → Map.find s.tasks n ≠ none →
      (s.taskAt n).saved = none → (s.taskAt n).num = n →
      let k := s.taskAt n
      ∃ u, exec .dispatch s = .next u ∧ u.core.task = some n ∧ u.core.dispatched = s.cyc ∧ (u.taskAt n).status = .running ∧ u.die.turn = turn ∧ u.die.used = used ∧
        u.die.queue k.tenant k.prio = (s.die.queue k.tenant k.prio).erase n ∧
        (if c.last = none ∨ c.last = some k.tenant then
          u.core.run = .running ∧ u.core.pc = k.entry ∧ u.core.tid = BitVec.ofNat 64 (k.num % 2 ^ 32 * 2 ^ 32 + k.prio % 4 * 256 + k.tenant % 64) ∧
            u.reg 1 = k.arg ∧ (∀ r : Reg, r ≠ 1 → u.reg r = 0) ∧ (∀ r, u.tag r = false) ∧ u.core.tvec = 0 ∧ u.core.lcnt = 0 ∧ u.core.icache = [] ∧
            u.core.asyncs = k.asyncs
         else u.core.scrub = true ∧ u.core.run = c.run)) ∧
    (∀ n turn used, s.choose c = some (n, turn, used) → ∃ t p, t ∈ s.candidates c ∧ p < 4 ∧ n ∈ (s.dieAt c.stack).queue t p ∧ s.admits c n = true ∧
      ∀ q, p < q → q < 4 → ∀ x ∈ s.candidates c, ∀ m ∈ (s.dieAt c.stack).queue x q, s.admits c m = false) ∧
    (∀ n k, s.preemptChoice c.stack 4 = some (n, k) → Map.find s.tasks n ≠ none →
      ∃ u, exec .preemption s = .next u ∧ (u.coreAt k).qreq = some .preempt ∧ (u.coreAt k).qcyc = s.cyc ∧ (u.taskAt n).asked = some k ∧
        ∀ x, x ≠ k → u.coreAt x = s.coreAt x) ∧
    (∀ q e n, c.run = .running → c.qreq = none → c.stalled = true → (∃ n, c.stallCyc = some n ∧ n + 65536 ≤ s.cyc) → s.tenantHeld c.stack c.tenant = false →
      (s.taskAt s.taskNum).prio ≤ q → q < 4 → e ∈ s.die.weights → (s.die.queue e.1 q).head? = some n → c.eligible (s.taskAt n).tenant = true →
      s.admits c n = true → s.coreFor c.stack n = false →
      ∃ u, exec .waitPreemption s = .next u ∧ u.core.qreq = some .waiting ∧ u.core.pc = c.pc ∧ s.SameRegs u) ∧
    (∀ n rest, s.die.spilling = n :: rest →
      let t := s.entryTenant n
      let kept := fun (u : State) => u.die.spilling = rest ∧ u.die.onChip = s.die.onChip ++ [n] ∧ t ∈ u.die.heldTenants
      (∀ ecc pa e, s.spillAt c.stack t = some (pa, e) →
        (ecc ≠ .lasting → ∃ u, exec (.spill ecc) s = .next u ∧ u.die.spilling = rest ∧ u.die.spilled = s.die.spilled ++ [n] ∧
          StoredAt State.memByte pa ((List.range 64).map (Config.spillByte s.free)) s u ∧
          u.pteAt e.ptePa = s.pteAt e.ptePa ||| 0x840) ∧
        (ecc = .lasting → ∃ u, exec (.spill ecc) s = .next u ∧ kept u)) ∧
      (∀ ecc, s.spillAt c.stack t = none → ∃ u, exec (.spill ecc) s = .next u ∧ kept u ∧ u.mem = s.mem)) ∧
    (∀ n rest, s.die.spilled = n :: rest → s.slotFree c.stack (s.entryTenant n) = true →
      ∃ u, exec .spillReturn s = .next u ∧ u.die.spilled = rest ∧ u.die.onChip = s.die.onChip ++ [n]) ∧
    (∀ h : HoldEnd, let t := s.restoreSpill c.stack h.tenant h.region
      (s.slotsUsed c.stack h.tenant ≤ s.slotsOf c.stack h.tenant → t.spillAt c.stack h.tenant ≠ none →
        ∃ u, exec (.tenantHoldEnd h) s = .next u ∧ u.die.heldTenants = s.die.heldTenants.erase h.tenant ∧
          ∀ r, h.region = some r → Map.find (Map.get {} u.tenants h.tenant).spill c.stack = some r) ∧
      (s.slotsOf c.stack h.tenant < s.slotsUsed c.stack h.tenant ∨ t.spillAt c.stack h.tenant = none → exec (.tenantHoldEnd h) s = .next s)) ∧
    (∀ n, Map.find s.tasks n ≠ none → (s.taskAt n).status ≠ .retired → (s.taskAt n).status ≠ .killed →
      (s.coreOfTask n = none → ∃ u, exec (.taskKill n) s = .next u ∧ (u.taskAt n).status = .killed ∧ (u.taskAt n).saved = none) ∧
      (c.holds n = true → (c.qpt = true ∨ ∃ x y, c.run = .stopped x y) →
        ∃ u, exec (.taskKill n) s = .next u ∧ (u.taskAt n).status = .killed ∧ u.core.task = none ∧ u.core.run = .idle ∧
          (∀ i, i < 4 → u.cluster.mstream (c.id % 16 * 4 + i) = []) ∧ ∀ arr, ∀ x ∈ (u.cluster.array arr).queue, x.core ≠ c.id) ∧
      (c.holds n = true → c.run = .running → c.qpt = false → c.qreq = none → c.fab.switch = none →
        ∃ u, exec (.taskKill n) s = .next u ∧ (u.taskAt n).killing = true ∧ u.core.qreq = some .save ∧ u.core.task = c.task)) ∧
    (c.scrub = true → c.task = none → ∃ u, exec .scrub s = .next u ∧
      u.core = { id := c.id, efnc := c.efnc, rfence := c.rfence, owner := c.owner, dispatched := c.dispatched, qreq := c.qreq, qcyc := c.qcyc, faults := c.hintFaults
                 fab := { seenElem := c.fab.seenElem, seenRouter := c.fab.seenRouter, transient := c.fab.transient } } ∧
      ∀ i, i < 4 → u.cluster.mstream (c.id % 16 * 4 + i) = []) ∧
    (∀ t, (s.partition t).2 ≠ 0 →
      (∀ i, i < 16 → let x := s.coreAt (c.id / 16 * 16 + i)
        x.owner ≠ some t ∧ (x.task = none ∨ ∃ n, x.task = some n ∧ (s.taskAt n).tenant ≠ t)) →
      ∃ u, exec (.partitionZero t) s = .next u ∧ u.partition t = (0, 0) ∧
        ∀ a, Map.get 0 u.cluster.store a = if (s.partition t).1 ≤ a ∧ a < (s.partition t).1 + (s.partition t).2 then 0 else Map.get 0 s.cluster.store a)

namespace Sys2Proof.Machine

/-- Every byte of a range lies on a PRESENT page of a process that gives an agent outside the cores its access, at consecutive physical addresses of
sound words on dies in use (R324). -/
def AgentRange (proc access : Nat) (va : Word) (n pa : Nat) (s : State) : Prop :=
  ∀ i, i < n → canonical (va + BitVec.ofNat 64 i) = true ∧ ∃ e, s.walk proc (va57 (va + BitVec.ofNat 64 i)) = some e ∧
    e.paOf (va57 (va + BitVec.ofNat 64 i)) = pa + i ∧ pteState e.pte = 0 ∧ pteFib e.pte = false ∧
    (if access = 0 then pteR e.pte = true else pteW e.pte = true) ∧ (s.dieAt (paStack (pa + i))).fenced = false ∧ s.wordsBad (pa + i) 1 = false ∧
    s.tablesGone proc (va57 (va + BitVec.ofNat 64 i)) = false ∧
    (s.procAt proc).unitPage (va57 (va + BitVec.ofNat 64 i)) = false

/-- A die is out of service (R402): fenced, every task of it that had not retired killed, a strike notice out. -/
def DieFenced (die : Nat) (s u : State) : Prop :=
  (u.dieAt die).fenced = true ∧ (∀ n t, Map.find s.tasks n = some t → t.die = die → t.status ≠ .retired → (u.taskAt n).status = .killed) ∧
  u.pkg.striking = s.pkg.striking ++ [(Config.packageNumber.toNat, die)]

/-- A task waits for the service of a code, and Hythen runs (R170, R401). -/
def Asks (task code : Nat) (args : List Word) (t : Task) (s : State) : Prop :=
  Map.find s.tasks task = some t ∧ Map.get {} s.tasks task = t ∧ t.request = some (code, args) ∧ t.reply = none ∧ s.pkg.serviceDown.length < 8

/-- The reply of a service. -/
def Replied (task : Nat) (v : Word) (u : State) : Prop := (u.taskAt task).reply = some v

end Sys2Proof.Machine

/-- R391, R393, R396 to R402, R417, R421, R422: a flit that passes counts its retries, the eighth failed retry fences its link; bring-up
verifies the four images in order and is ready, or stays in recovery, and reports the elements, lanes, dies, links and ports that it fences; the governor steps its throttle, a droop stretches a domain and is recorded
with its cores' PCs, of an I/O die the service cores'; a fenced or striking die loses its tasks; a service core and a port, with the flows that it serves, fail over; a strike notice counts its live-expert record's GEN
up, clears the dead experts' bits and releases its hasp.
Bring-up leaves DRAM zero but for the shim records of the arrays (R276), whose place is the model's choice (log 98). That the throttle falls to 0 at once
is its reading (log 64), the numbers of the voltage domains too (log 63); the form of the fence report and its number as a reply are its choice
(log 101). -/
def Obligations.PackageAtWork : Prop :=
  ∀ s : State,
    let k := s.pkg
    (∀ link, link ∈ linkKeys → (Map.get {} k.links link).fenced = false →
      let l := Map.get {} k.links link
      (∃ u, exec (.flitReceive link true) s = .next u ∧
        Map.get {} u.pkg.links link = { l with tries := 0, retries := if l.tries = 0 then l.retries else l.retries + 1 }) ∧
      (∃ u, exec (.flitReceive link false) s = .next u ∧
        Map.get {} u.pkg.links link = if l.tries < 8 then { l with tries := l.tries + 1 } else { l with tries := 0, fenced := true })) ∧
    (∀ images test, k.ready = false → k.recovery = false → images.length = 4 →
      let sound := ∀ i x, images[i]? = some x → x.signed = true ∧ x.key = Config.vendorKey ∧ Map.get 0 k.minVersion i ≤ x.version
      (sound → ∃ u, exec (.powerGood images test) s = .next u ∧ u.pkg.ready = true ∧ u.pkg.recovery = false ∧ u.pkg.chain.length = 4 ∧
        ((∀ n, n < 16 → (s.dieAt n).shim + shimSize ≤ 0x1800000000) →
          (∀ key arr i, key < 256 → arr < 8192 → i < 576 → u.memByte (u.shimAt key arr + i) =
            (((Map.get {} u.clusters key).array arr).shimRecord (shimId key arr)).getD i 0) ∧
          ∀ a, (∀ key arr, key < 256 → arr < 8192 → a < u.shimAt key arr ∨ u.shimAt key arr + 576 ≤ a) → u.memByte a = 0) ∧
        (∀ n r, (n, r) ∈ test.routers → n < 4096 → r < 64 → (u.coreAt n).rfence.getLsbD r = true) ∧
        u.pkg.mgmtReplies = k.mgmtReplies ++ [(3, u.fenceReport)] ∧
        (∀ p x, (p, x) ∈ u.pkg.readySent ↔ p < 32 ∧ Map.find k.portFenced p = none ∧ x = u.fenceReport) ∧
        (∀ i x, images[i]? = some x → Map.find u.pkg.images i = some (x.version, Config.sha3 x.bytes)) ∧
        ∀ x, images[0]? = some x → u.pkg.chain.head? = some (Config.sha3 (leBytes 64 Config.romDigest.toNat ++ leBytes 64 (Config.sha3 x.bytes).toNat))) ∧
      (¬ sound → ∃ u, exec (.powerGood images test) s = .next u ∧ u.pkg.ready = false ∧ u.pkg.recovery = true)) ∧
    (∀ b, ∃ u, exec (.governorMeasure b) s = .next u ∧ u.pkg.throttle = (if b then min 3 (k.throttle + 1) else 0) ∧ u.pkg.measured = s.cyc ∧
      u.pkg.throttleCyc = (if k.throttle = 0 then k.throttleCyc else k.throttleCyc + (s.cyc - k.measured))) ∧
    (∀ d, d < 274 → d ∉ k.stretched → ∃ u, exec (.droop d) s = .next u ∧ u.pkg.stretched = k.stretched ++ [d] ∧
      u.pkg.droops = k.droops ++ [bytesOf 8 s.cyc ++ bytesOf 8 d ++
        (if d < 256 then (List.range 16).flatMap (fun i => bytesOf 8 (s.coreAt (16 * d + i)).pc.toNat)
         else if d < 272 then [] else (List.range 4).flatMap (fun i => bytesOf 8 (Config.servicePc (s.free + i)).toNat))]) ∧
    (∀ d, ∃ u, exec (.supplyRecovery d) s = .next u ∧ ∀ x, x ∈ u.pkg.stretched ↔ (x ∈ k.stretched ∧ x ≠ d)) ∧
    (∀ die, die < 16 → (s.dieAt die).fenced = false → (∃ u, exec (.dieFence die) s = .next u ∧ DieFenced die s u) ∧
      (k.ready = true → k.serviceDown.length < 8 → k.opKey ≠ none → ∃ u, exec (.dieStriking die true) s = .next u ∧ DieFenced die s u)) ∧
    (∀ n, n < 8 → n ∉ k.serviceDown → ∃ u, exec (.serviceCoreFailure n) s = .next u ∧ u.pkg.serviceDown = k.serviceDown ++ [n]) ∧
    (∀ p q, p < 32 → q < 32 → p ≠ q → p / 16 = q / 16 → Map.find k.portFenced p = none → Map.find k.portFenced q = none →
      ∃ u, exec (.portFailover p q) s = .next u ∧ Map.find u.pkg.portFenced p = some q ∧
        ∀ proc pr f v, Map.find s.procs proc = some pr → Map.find pr.flows f = some v → ∃ pr' w, Map.find u.procs proc = some pr' ∧
          Map.find pr'.flows f = some w ∧ w.port = (if v.port = p then q else v.port) ∧ w.inFlight = v.inFlight) ∧
    (∀ p q, p < 32 → Map.find k.portFenced p = none → (∀ x, x < 32 → x / 16 = p / 16 → x ≠ p → Map.find k.portFenced x ≠ none) →
      ∃ u, exec (.portFailover p q) s = .next u ∧ Map.find u.pkg.portFenced p ≠ none) ∧
    (∀ p die, ∃ u, exec (.strikeNotice p die) s = .next u ∧ (k.experts = [] → ∀ x, x ∈ u.pkg.striking ↔ (x ∈ k.striking ∧ x ≠ (p, die)))) ∧
    (∀ p die x pa ph, k.experts = [x] → (∃ i, i < 256 ∧ x.placement[i]? = some (p, die)) → AgentRange x.proc 0 x.addr 64 pa s → AgentRange x.proc 1 x.addr 64 pa s →
      AgentRange x.proc 1 x.hasp 64 ph s → ph % 64 = 0 → ph < 2 ^ 41 → (ph + 64 ≤ pa ∨ pa + 64 ≤ ph) → HaspOk s ph (s.procAt x.proc).tenant →
      let v := s.hasp ph
      v.mode = 3 → v.wkind = 0 → s.flipWaiters ph = [] →
      ∃ u, exec (.strikeNotice p die) s = .next u ∧
        u.memNat pa 8 = (s.memNat pa 8 + 1) % 2 ^ 64 ∧
        (∀ i, i < 256 → (u.memByte (pa + 8 + i / 8)).getLsbD (i % 8) = ((s.memByte (pa + 8 + i / 8)).getLsbD (i % 8) && !(x.placement[i]? == some (p, die)))) ∧
        u.HaspIs ph { v with relseq := (v.relseq + 1) % 2 ^ 32, n := v.n + 1, phase := !v.phase })

/-- R170, R395, R253, R259, R238, R364, R366, R398, R418: each service answers the request that a task's TRAP made: the default hasp, a bound slot's
handle, the launch and send pages, new pages in STATE ZERO on the named stack, or, where the request leaves it open, on one in service, an unmapped page, a trace ring, a telemetry counter, an attestation report with its
nonce, a watchpoint on a hasp of the tenant; an argument out of range is answered with −2.
The bits of MAPMEM's g3, its stack 15 and where Hythen places pages are the model's choice (log 62); that the bytes behind a report stay is its
reading (log 61). -/
def Obligations.Services : Prop :=
  ∀ (task : Nat) (args : List Word) (t : Task) (s : State),
    let pr := s.procAt t.proc
    let bad : Word := 0xFFFFFFFFFFFFFFFE
    let arg := fun k => args.getD k 0
    let page := fun (va : Option Nat) => match va with
      | some a => BitVec.ofNat 64 (wideVa a)
      | none => bad
    (Asks task 1 args t s → ∃ u, exec (.defhasp task) s = .next u ∧ Replied task pr.hasp u) ∧
    (Asks task 2 args t s → ∃ u, exec (.handle task) s = .next u ∧ Replied task
      (match (Map.get {} pr.slots (arg 1).toNat).binding with
       | some b => if (arg 1).toNat < 64 then BitVec.ofNat 64 (t.proc % 2 ^ 32 * 2 ^ 32 + b.gen % 2 ^ 16 * 2 ^ 16 + (arg 1).toNat) else bad
       | none => bad) u) ∧
    (Asks task 9 args t s → ∃ u, exec (.launchpage task) s = .next u ∧ Replied task (page pr.launchVa) u) ∧
    (Asks task 10 args t s → ∃ u, exec (.sendpage task) s = .next u ∧ Replied task (page pr.sendVa) u) ∧
    (Asks task 6 args t s → ∃ u, exec (.telem task) s = .next u ∧ Replied task
      (match (arg 1).toNat with
       | 0 => BitVec.ofNat 64 (s.dieAt t.die).corrected
       | 1 => BitVec.ofNat 64 ((s.dieAt t.die).holds.map (fun e => e.2)).sum
       | 2 => BitVec.ofNat 64 (s.pkg.links.map (fun e => e.2.retries)).sum
       | 3 => BitVec.ofNat 64 s.pkg.throttleCyc
       | 4 => BitVec.ofNat 64 s.pkg.droops.length
       | _ => bad) u) ∧
    (∀ va die tables, Asks task 3 args t s → let bytes := (arg 1).toNat
      let g := (arg 2).toNat
      let stack := if g / 32768 % 2 = 1 ∨ g / 16 % 16 = 15 then die % 16 else g / 16 % 16
      let any := g / 32768 % 2 = 1 ∨ g / 16 % 16 = 15
      (bytes % 65536 ≠ 0 ∨ 256 ≤ g % 32768 ∨ 65536 ≤ g ∨ (¬any ∧ (s.dieAt stack).fenced = true) →
        ∃ u, exec (.mapmem task va die tables) s = .next u ∧ Replied task bad u) ∧
      (any → (s.dieAt stack).fenced = true → bytes % 65536 = 0 → g % 32768 < 256 → g < 65536 → bytes ≤ 2 ^ 56 → g / 8 % 2 = 0 →
        (∃ k, k < 16 ∧ (s.dieAt k).fenced = false) → exec (.mapmem task va die tables) s = .next s) ∧
      (∀ m, bytes % 65536 = 0 → g % 32768 < 256 → g < 65536 → bytes ≤ 2 ^ 56 → (s.dieAt stack).fenced = false → roomAt va bytes = true → g / 8 % 2 = 0 →
        s.tablesServe t.proc va.toNat bytes tables = true →
        mapPages pr.root (va57 va) (List.replicate (bytes / 65536) (BitVec.ofNat 64 (3 + g % 8 * 4 + 256 + stack * 2 ^ 37))) tables s.ptes = some m →
        ∃ u, exec (.mapmem task va die tables) s = .next u ∧ Replied task va u ∧ u.ptes = m ∧ u.mem = s.mem)) ∧
    (Asks task 4 args t s →
      ((arg 1).toNat % 65536 ≠ 0 → ∃ u, exec (.unmapmem task) s = .next u ∧ Replied task bad u) ∧
      (∀ e, s.leaves t.proc (arg 1).toNat ((arg 1).toNat + (arg 2).toNat) = [e] → e.size = (arg 2).toNat → wideVa e.va = (arg 1).toNat →
        (arg 1).toNat % 65536 = 0 → (arg 2).toNat % 65536 = 0 → roomAt (arg 1) (arg 2).toNat = true → pr.unitPage e.va = false → pteState e.pte ≠ 3 →
        s.tablesServe t.proc (arg 1).toNat (arg 2).toNat [] = true →
        ∃ u, exec (.unmapmem task) s = .next u ∧ Replied task 0 u ∧ u.pteAt e.ptePa = 0 ∧ Invalidated e.proc e.va e.size u)) ∧
    (∀ va tables, Asks task 5 args t s → let bytes := (arg 1).toNat
      (bytes % 4096 ≠ 0 → ∃ u, exec (.tracering task va tables) s = .next u ∧ Replied task bad u) ∧
      (∀ fs w m, bytes ≠ 0 → bytes % 4096 = 0 → bytes ≤ 2 ^ 24 → roomAt va ((bytes + 65535) / 65536 * 65536) = true →
        s.tablesServe t.proc va.toNat ((bytes + 65535) / 65536 * 65536) tables = true →
        s.takeFrames t.die t.tenant ((bytes + 65535) / 65536) = some (fs, w) →
        mapPages pr.root (va57 va) (fs.map (fun f => BitVec.ofNat 64 (7 + f))) tables w.ptes = some m →
        ∃ u, exec (.tracering task va tables) s = .next u ∧ Replied task va u ∧ (u.taskAt task).ring = some (va, bytes / 64) ∧ u.ptes = m)) ∧
    (∀ pn pr', Asks task 7 args t s → AgentRange t.proc 0 (arg 1) 64 pn s → AgentRange t.proc 1 (arg 2) 4864 pr' s →
      ∃ u, exec (.attest task) s = .next u ∧ Replied task 4803 u ∧ u.memNat pr' 4 = 0x41545354 ∧ u.memNat (pr' + 4) 4 = 0x00010000 ∧
        (∀ i, i < 64 → u.memByte (pr' + 16 + i) = s.memByte (pn + i)) ∧ u.memNat (pr' + 160) 8 = t.proc % 2 ^ 64 ∧
        (∀ a, (a < pr' ∨ pr' + 4803 ≤ a) → u.memByte a = s.memByte a)) ∧
    (∀ h who k, Asks task 8 args t s → (arg 1).toNat % 64 = 0 → (arg 1).toNat / 2 ^ 61 ≠ 4 → AgentRange t.proc 0 (arg 1) 1 h s → AgentRange t.proc 1 (arg 1) 1 h s →
      h % 64 = 0 → h < 2 ^ 41 → (arg 2).toNat = k → 1 ≤ k → k ≤ 3 → (arg 3).toNat = who → who < 2 ^ 32 → (s.taskAt who).tenant = t.tenant → s.numberUsed who = true →
      HaspOk s h t.tenant → ∃ u, exec (.watch task) s = .next u ∧ Replied task 0 u ∧ u.HaspIs h { s.hasp h with wkind := k, wtask := who } ∧
        (h, arg 1) ∈ (u.taskAt who).watches)

/-- R142, R239, R253, R351, R364, R366, R370, R397, R418, R421, R422: an unsigned request to the management mailbox is discarded and counted; a
signed one is served: an image that bring-up would accept is installed, a commit raises its minimum version, a tenant gets its quotas, or a new W, or leaves a die, TURN and USED as they were (R372; log 119), a flow slot its binding, a
debugger its task, a read its reply, a live expert its record; Lerrath's key sets the operator's; a process gets its table, its pages, no leaf of them keyed, and its default
hasp, a program its sections and its slots' bindings with a new GEN. A table that maps the shim records (R276) or a pool's rows (R342), or with a
keyed leaf or a fibre page that is not PRESENT (R324), makes no process.
That a second attach resumes a stopped task, and the bytes of the replies, are the model's readings (log 66); the fence report's form is its choice
(log 101). -/
def Obligations.ManagementRequests : Prop :=
  ∀ s : State, s.pkg.serviceDown.length < 8 → s.pkg.ready = true →
    let k := s.pkg
    (∀ i, (∃ im body, i = Instr.imageUpdate im body false) ∨ (∃ im, i = .imageCommit im false) ∨ (∃ q, i = .tenantCreation q false) ∨
        (∃ b, i = .flowSlotBinding b false) ∨ (∃ n, i = .debuggerAttach n false) ∨ (∃ w, i = .managementRead w false) ∨ (∃ d, i = .dieStriking d false) ∨
        (∃ r, i = .liveExpertRegistration r false) ∨ (∃ x, i = .operatorKeyCommit x false) →
      exec i s = .next { s with pkg := { k with mgmtDropped := k.mgmtDropped + 1 } }) ∧
    (∀ x, exec (.operatorKeyCommit x true) s = .next { s with pkg := { k with opKey := some x } }) ∧
    (k.opKey ≠ none →
      (∀ im body, im < 4 → body.signed = true → body.key = Config.vendorKey → Map.get 0 k.minVersion im ≤ body.version →
        ∃ u, exec (.imageUpdate im body true) s = .next u ∧ Map.find u.pkg.images im = some (body.version, Config.sha3 body.bytes) ∧
          u.pkg.minVersion = k.minVersion) ∧
      (∀ im v d, Map.find k.images im = some (v, d) → ∃ u, exec (.imageCommit im true) s = .next u ∧
        Map.get 0 u.pkg.minVersion im = max (Map.get 0 k.minVersion im) v) ∧
      (∀ q, s.quotaOk q = true → ∃ u, exec (.tenantCreation q true) s = .next u ∧ (Map.get {} u.tenants q.tenant).live = true ∧
        Map.find (u.dieAt q.die).weights q.tenant = some q.weight ∧ u.slotsOf q.die q.tenant = q.slots ∧
        Map.find (u.dieAt q.die).pools q.pool = some { tenant := q.tenant, quota := q.quota } ∧
        (∀ n ∈ q.cores, n ∉ q.shared → (u.coreAt n).owner = some q.tenant) ∧ (∀ n ∈ q.shared, (u.coreAt n).owner = none) ∧
        (∀ w ∈ q.wslots, ((Map.get {} u.clusters w.1).wslot w.2).owner = some q.tenant) ∧ ∀ a ∈ q.arrays, ((Map.get {} u.clusters a.1).array a.2).owner = some q.tenant) ∧
      (∀ n die w v, die < 16 → w ≤ 255 → Map.find (s.dieAt die).weights n = some v →
        let q : TenantQuota := { tenant := n, die := die, weight := w, slots := 0, cores := [], shared := [], cls := [], wslots := [], arrays := [], pool := 0, quota := 0, slack := 0, rows := [], frames := [], large := [] }
        (w ≠ 0 ∨ s.tenantBusy die n = false) →
        ∃ u, exec (.tenantCreation q true) s = .next u ∧ Map.find (u.dieAt die).weights n = (if w = 0 then none else some w) ∧
          (∀ m, m ≠ n → Map.find (u.dieAt die).weights m = Map.find (s.dieAt die).weights m) ∧ (u.dieAt die).turn = (s.dieAt die).turn ∧
          (u.dieAt die).used = (s.dieAt die).used ∧ (w = 0 → u.slotsOf die n = 0)) ∧
      (∀ b, b.slot < 16 → b.package < 65536 → Map.find s.procs b.proc ≠ none → ∃ u, exec (.flowSlotBinding b true) s = .next u ∧
        (u.procAt b.proc).flow b.slot = { (s.procAt b.proc).flow b.slot with bound := some (b.package, b.dest, b.ordered), port := s.flowPort b.proc b.slot }) ∧
      (∀ n t, Map.find s.tasks n = some t → t.debug = false → ∃ u, exec (.debuggerAttach n true) s = .next u ∧ u.taskAt n = { t with debug := true }) ∧
      (∀ n t v, Map.find s.tasks n = some t → Map.get {} s.tasks n = t → t.debug = true → t.status = .stopped → t.saved = some v → (∀ h, v.core.wait ≠ .hasp h) →
        ∃ u, exec (.debuggerAttach n true) s = .next u ∧ (u.taskAt n).status = .queued ∧ n ∈ (u.dieAt t.die).queue t.tenant t.prio) ∧
      (∃ u, exec (.managementRead 0 true) s = .next u ∧ u.pkg.mgmtReplies = k.mgmtReplies ++ [(0, s.fenceReport)]) ∧
      (∃ u, exec (.managementRead 1 true) s = .next u ∧ u.pkg.mgmtReplies = k.mgmtReplies ++ [(1, k.droops.flatten)]) ∧
      (∀ r, Map.find s.procs r.proc ≠ none → r.placement.length ≤ 256 → r.hasp.toNat % 64 = 0 →
        ∃ u, exec (.liveExpertRegistration r true) s = .next u ∧
          u.pkg.experts = k.experts ++ [{ proc := r.proc, addr := r.addr, hasp := r.hasp, placement := r.placement }])) ∧
    (∀ c pa, Map.find s.procs c.proc = none → c.proc < 2 ^ 32 → (Map.get {} s.tenants c.tenant).live = true → c.tenant < 64 → c.root % 4096 = 0 →
      (∀ e ∈ c.entries, Map.get 0 s.ptes (e.1 / 8) = 0 ∧
        (pteV e.2 = true → pteL e.2 = true → pteKey e.2 = 0 ∧ (pteFib e.2 = true → pteState e.2 = 0))) →
      let p : Proc := { tenant := c.tenant, root := c.root, hasp := c.hasp, launchVa := some (va57 c.launchVa), sendVa := some (va57 c.sendVa),
                        faultVa := some (va57 c.faultVa) }
      let t : State := { s with procs := Map.set s.procs c.proc p, ptes := c.entries.foldl (fun m e => Map.put 0 m (e.1 / 8) e.2) s.ptes }
      (∀ q ∈ t.procs, ∀ e ∈ t.leaves q.1 0 (2 ^ 64), pteState e.pte ≠ 1 →
        t.shimMeets (pteFrame e.pte) e.size = false ∧ t.rowsMeet (pteFrame e.pte) e.size = false) →
      t.unitLeaf c.proc c.launchVa = true → t.unitLeaf c.proc c.sendVa = true → t.faultLeaf c.proc c.faultVa = true → c.hasp.toNat % 64 = 0 → pa % 64 = 0 → pa < 2 ^ 41 →
      AgentRange c.proc 1 c.hasp 1 pa t →
      ∃ u e, exec (.processCreation c) s = .next u ∧ Map.find u.procs c.proc = some p ∧ t.walk c.proc (va57 c.hasp) = some e ∧
        u.pteAt e.ptePa = e.pte ||| 0x840 ∧ (∀ x, x ≠ e.ptePa / 8 → Map.get 0 u.ptes x = Map.get 0 t.ptes x) ∧
        u.HaspIs pa { mode := 3, init := true, tenant := c.tenant }) ∧
    (∀ c, let p : Proc := { tenant := c.tenant, root := c.root, hasp := c.hasp, launchVa := some (va57 c.launchVa), sendVa := some (va57 c.sendVa),
                            faultVa := some (va57 c.faultVa) }
      let t : State := { s with procs := Map.set s.procs c.proc p, ptes := c.entries.foldl (fun m e => Map.put 0 m (e.1 / 8) e.2) s.ptes }
      ((∃ e ∈ c.entries, pteV e.2 = true ∧ pteL e.2 = true ∧ (pteKey e.2 ≠ 0 ∨ (pteFib e.2 = true ∧ pteState e.2 ≠ 0))) ∨
        (∃ q ∈ t.procs, ∃ e ∈ t.leaves q.1 0 (2 ^ 64), pteState e.pte ≠ 1 ∧
          (t.shimMeets (pteFrame e.pte) e.size = true ∨ t.rowsMeet (pteFrame e.pte) e.size = true))) →
      exec (.processCreation c) s = .next s) ∧
    (∀ proc va bs b pa e, Map.find s.procs proc ≠ none →
      (∀ i, i < bs.length → canonical (va + BitVec.ofNat 64 i) = true ∧ ∃ e, s.walk proc (va57 (va + BitVec.ofNat 64 i)) = some e ∧
        e.paOf (va57 (va + BitVec.ofNat 64 i)) = pa + i ∧ pteState e.pte = 0 ∧ pteFib e.pte = false ∧
        (s.procAt proc).unitPage (va57 (va + BitVec.ofNat 64 i)) = false ∧ (s.dieAt (paStack (pteFrame e.pte))).fenced = false ∧
        s.tablesGone proc (va57 (va + BitVec.ofNat 64 i)) = false) →
      b.slot < 64 → b.entry.toNat % 4 = 0 → b.images.length ≤ 4 → b.prio ≤ 3 → canonical b.entry = true → s.walk proc (va57 b.entry) = some e → pteX e.pte = true →
      ∃ u, exec (.programLoad { proc := proc, sections := [(va, bs)], fibres := [], binds := [b] }) s = .next u ∧ StoredAt State.memByte pa bs s u ∧
        (let v := (u.procAt proc).slot b.slot
         let g := (((s.procAt proc).slot b.slot).gen + 1) % 65536
         v.code = 0 ∧ v.gen = g ∧ v.binding = some { gen := g, entry := b.entry, images := b.images, prio := b.prio, die := if b.die < 16 then b.die else s.launchDie proc }))

/-- R412, R413, R416 to R420: a store of 1 to GO sends the slot's operation, which counts in SENT, or sets CODE 7 where its kind is none; a store of 2 clears
CODE; an acknowledgement ends the oldest operation of an ordered slot, of an unordered one the operation it names, and so does a timeout, with CODE 1;
a copy's source is read in between, by the first step that would acknowledge it (R413; that this is its moment is the model's choice, log 143);
it sets the first failure's CODE, and ACKED counts the operations acknowledged ahead of the first one that is not (log 120, DEDUCED). A remote launch
writes HANDLE and ARG, also one that is refused with CODE 5 (log 65, DEDUCED), and is acknowledged by what became of it; a remote copy lands its words in order and is acknowledged behind the last, one to a fenced die has CODE 4, and one that fails, at a word or at its
release, applies nothing (R420); a merge is posted to the fibre's home and acknowledged when it is applied.
That a copy is checked as a whole on its arrival, with CODE 2 for a reference without a translation, is the model's reading (log 65), and that it lands
with its release in one step its choice (log 102). -/
def Obligations.RemoteFlows : Prop :=
  ∀ s : State,
    (∀ p f, f < 16 → Map.find s.procs p ≠ none →
      let v := (s.procAt p).flow f
      let sent : FlowOp := { kind := v.ctrl.toNat % 8, src := v.src, dst := v.dst, href := v.href, val := v.val, ctrl := v.ctrl }
      (v.inFlight.length < 256 →
        ((v.ctrl.toNat % 8 = 1 ∧ v.ctrl.getLsbD 3 = false ∨ s.goCheck p v = none) → ∃ u, exec (.goSend p f) s = .next u ∧
          (u.procAt p).flow f = { v with sent := (v.sent + 1) % 2 ^ 24, inFlight := v.inFlight ++ [sent] }) ∧
        (v.ctrl.toNat % 8 = 0 ∨ 3 < v.ctrl.toNat % 8 → ∃ u, exec (.goSend p f) s = .next u ∧
          (u.procAt p).flow f = { v with code := if v.code = 0 then 7 else v.code })) ∧
      (∃ u, exec (.goClear p f) s = .next u ∧ (u.procAt p).flow f = { v with code := 0 })) ∧
    (∀ p f o rest, let v := (s.procAt p).flow f
      let settled := fun (x : FlowOp) => x.done = false ∧ x.fails = 0 ∧ (x.kind = 2 → x.read = true)
      v.inFlight = o :: rest → o.done = false →
      let behind := (rest.takeWhile (fun x => x.done)).length
      let failed := fun code => { v with code := if v.code = 0 then code else v.code }
      let ended := fun code => { failed code with acked := (v.acked + 1 + behind) % 2 ^ 24, inFlight := rest.drop behind }
      let ahead := fun code j => { failed code with inFlight := v.inFlight.modify j (fun x => { x with done := true }) }
      (∀ code, v.bound ≠ none → settled o → (code = 0 ∨ code = 2 ∨ code = 4) → ∃ u, exec (.acknowledgement p f { code := code }) s = .next u ∧ (u.procAt p).flow f = ended code) ∧
      (∀ pk dest j x code, v.bound = some (pk, dest, false) → rest[j]? = some x → settled x → (code = 0 ∨ code = 2 ∨ code = 4) →
        ∃ u, exec (.acknowledgement p f { op := j + 1, code := code }) s = .next u ∧ (u.procAt p).flow f = ahead code (j + 1)) ∧
      (v.bound ≠ none → o.kind = 2 → o.read = false → ∀ code,
        let moved := fun (w : FlowOp) => { v with inFlight := { w with read := true } :: rest }
        (∀ pa, AgentRange p 0 o.src (o.ctrl.toNat / 2 ^ 32) pa s → ∃ u, exec (.acknowledgement p f { code := code }) s = .next u ∧ u.mem = s.mem ∧
          (u.procAt p).flow f = moved { o with bytes := (List.range (o.ctrl.toNat / 2 ^ 32)).map (fun i => s.memByte (pa + i)) }) ∧
        (o.ctrl.toNat / 2 ^ 32 ≠ 0 → s.tablesGone p (va57 o.src) = false → s.walk p (va57 o.src) = none →
          ∃ u, exec (.acknowledgement p f { code := code }) s = .next u ∧ u.mem = s.mem ∧ (u.procAt p).flow f = moved { o with fails := 2 })) ∧
      (v.bound ≠ none → ∃ u, exec (.flowTimeout p { slot := f }) s = .next u ∧ (u.procAt p).flow f = ended 1) ∧
      (∀ pk dest j x, v.bound = some (pk, dest, false) → rest[j]? = some x → x.done = false →
        ∃ u, exec (.flowTimeout p { slot := f, op := j + 1 }) s = .next u ∧ (u.procAt p).flow f = ahead 1 (j + 1))) ∧
    (∀ flow op dst handle arg, op.work = .launch dst handle arg → s.flowOpen flow op = true →
      let off := va57 dst % 65536
      let here := canonical dst = true ∧ (s.procAt op.proc).launchVa = some (va57 dst / 65536 * 65536) ∧ off % 64 = 0 ∧ off < 4096 ∧ s.mayWrite op.proc dst 16 = true
      (here → s.pagesGone op.proc dst 16 = true →
        ∃ u, exec (.remoteLaunch flow op) s = .next u ∧ u.pkg.acksSent = s.pkg.acksSent ++ [(flow, 4)] ∧ u.procs = s.procs) ∧
      (here → s.pagesGone op.proc dst 16 = false → ∃ u, exec (.remoteLaunch flow op) s = .next u ∧ (let v := (u.procAt op.proc).slot (off / 64)
        v.handle = handle ∧ v.arg = arg ∧ u.pkg.acksSent = s.pkg.acksSent ++ [(flow, if v.code = 1 then 0 else 5)])) ∧
      (¬ here → ∃ u, exec (.remoteLaunch flow op) s = .next u ∧ u.pkg.acksSent = s.pkg.acksSent ++ [(flow, 2)] ∧ u.procs = s.procs)) ∧
    (∀ flow o dst bs, o.work = .copy dst bs → s.flowOpen flow o = true → bs.length % 8 = 0 → dst.toNat % 8 = 0 → bs.length ≤ 2 ^ 24 →
      (s.mayWrite o.proc dst bs.length = true → s.hrefOk o.proc o.href = true → s.pagesGone o.proc dst bs.length = false →
        ∃ u a, exec (.remoteCopy flow (some o) 0) s = .next u ∧ u.pkg.arriving = s.pkg.arriving ++ [a] ∧ a.flow = flow ∧ a.op = o ∧ a.done = none) ∧
      (s.mayWrite o.proc dst bs.length = true → s.hrefOk o.proc o.href = true → s.pagesGone o.proc dst bs.length = true →
        ∃ u, exec (.remoteCopy flow (some o) 0) s = .next u ∧ u.pkg.acksSent = s.pkg.acksSent ++ [(flow, 4)] ∧ u.mem = s.mem) ∧
      (s.mayWrite o.proc dst bs.length = false ∨ s.hrefOk o.proc o.href = false → ∃ u, exec (.remoteCopy flow (some o) 0) s = .next u ∧ u.pkg.acksSent = s.pkg.acksSent ++ [(flow, 2)] ∧ u.mem = s.mem)) ∧
    (∀ flow a dst bs, s.pkg.arriving = [a] → a.flow = flow → a.done = none → a.op.work = .copy dst bs → bs.length % 8 = 0 → dst.toNat % 8 = 0 →
      let acked := fun (u : State) (code : Nat) => u.pkg.arriving = [] ∧ u.pkg.acksSent = s.pkg.acksSent ++ [(flow, code)]
      (∀ pa, a.op.href = none → AgentRange a.op.proc 1 dst bs.length pa s →
        ∃ u, exec (.remoteCopy flow none 0) s = .next u ∧ StoredAt State.memByte pa bs s u ∧ acked u 0) ∧
      (∀ code, (landRemotes a.op.proc (bs.length / 8) dst bs s = .fails code ∨
          ∃ t w, landRemotes a.op.proc (bs.length / 8) dst bs s = .landed t ∧ t.remoteRelease a.op = some (code, w) ∧ code ≠ 0) →
        ∃ u, exec (.remoteCopy flow none 0) s = .next u ∧ acked u code ∧ u = { s with pkg := u.pkg })) ∧
    (∀ flow o dst key val fmt pa e, o.work = .merge dst key val fmt → s.flowOpen flow o = true → dst.toNat % 64 = 0 → key ≠ 0xFFFFFFFF → s.hrefOk o.proc o.href = true →
      canonical dst = true → s.tablesGone o.proc (va57 dst) = false → s.walk o.proc (va57 dst) = some e → e.paOf (va57 dst) = pa → pteState e.pte = 0 → pteW e.pte = true → pteFib e.pte = true →
      (s.dieAt (paStack pa)).fenced = false → ∃ u x, exec (.remoteMerge flow (some o)) s = .next u ∧
        (u.dieAt (paStack pa)).fibQueue (2 ^ 34 + flow) = (s.dieAt (paStack pa)).fibQueue (2 ^ 34 + flow) ++ [x] ∧ x.hdr = pa ∧ x.key = key ∧ x.val = val ∧ x.fmt = fmt ∧
        x.flow = some s.pkg.arrivals ∧ u.mem = s.mem) ∧
    (∀ flow a code, s.pkg.arriving = [a] → a.flow = flow → a.done = some code →
      ∃ u, exec (.remoteMerge flow none) s = .next u ∧ u.pkg.arriving = [] ∧ u.pkg.acksSent = s.pkg.acksSent ++ [(flow, code)])

/-- R119 to R136: decoding the bytes of any well-formed instruction, whatever follows them, gives that instruction with every operand, and
consumes exactly its bytes; and bytes that decode to an instruction are that instruction's bytes: each word has one meaning. -/
def Obligations.EncodingRoundTrip : Prop :=
  (∀ (i : Instr) (rest : List Byte), i.encoded = true → i.wellFormed = true → decode (encodeBytes i ++ rest) = .ok (i, rest)) ∧
  (∀ (bs rest : List Byte) (i : Instr), decode bs = .ok (i, rest) → i.encoded = true ∧ bs = encodeBytes i ++ rest)

/-- R119 to R137: words that the spec's encodings give, each with its instruction: CRRD, ADD, JAL and FCVT; a literal in the second word; a
reserved bit and an unknown major opcode are refused. -/
def Obligations.DecodeWords : Prop :=
  decode [0x30, 0x00, 0xC0, 0x1C] = .ok (.crrd 6 0x030, []) ∧
  decode [0x00, 0x10, 0x61, 0x04] = .ok (.add 3 1 2, []) ∧
  decode [0x00, 0x04, 0x61, 0x04, 0xA0, 0x86, 0x01, 0x00] = .ok (.addLit 3 1 100000, []) ∧
  decode [0x01, 0x00, 0x00, 0xCC] = .ok (.jal 1, []) ∧
  decode [0x80, 0x18, 0x4B, 0x0D] = .ok (.fcvt 10 11 3 0 true 0, []) ∧
  decode [0x20, 0x04, 0x61, 0x04, 0x00, 0x00, 0x00, 0x00] = .error .nonzeroField ∧
  decode [0x00, 0x00, 0x00, 0x00] = .error .unknownMajor

/-- A step runs the decoded instruction: where the bytes at PC decode to an instruction, the step of the thread is its meaning, then the
other agents' agenda is laid out and time passes; where they decode to none, it is ILLEGAL (R122, R137); where their line is not cached, it is the
fetch (R96); a held asynchronous trap comes first at a boundary with TA = 0 (R182), but for an
instruction under way that R287 or R356 keeps from its boundary, or an XSTAT that has issued (log 21); a step of another agent that is due is its own meaning (the
agenda and the passing of time are the model's choices, logs 2 and 4). -/
def Obligations.StepRunsDecoded : Prop :=
  (∀ (s : State) (ws : List Nat), s.agenda = [] → s.core.run = .running → s.core.asyncs = [] ∨ s.core.ta = true ∨ s.core.committed = true →
    s.core.threadHeld = false ∨ s.core.committed = true → s.core.fetch = .words ws →
    (∀ i rest, decode (fetchedBytes ws) = .ok (i, rest) → step s = timed (refilled (exec i s))) ∧
    (∀ e, decode (fetchedBytes ws) = .error e →
      step s = timed (refilled (exec (.illegalInstruction (BitVec.ofNat 32 (ws.headD 0)) (BitVec.ofNat 32 (ws.getD 1 0))) s)))) ∧
  (∀ (s : State) (va : Word), s.agenda = [] → s.core.run = .running → s.core.asyncs = [] ∨ s.core.ta = true ∨ s.core.committed = true →
    s.core.threadHeld = false ∨ s.core.committed = true → s.core.fetch = .miss va → step s = timed (refilled (exec (.fetchMiss va) s))) ∧
  (∀ s : State, s.agenda = [] → s.core.run = .running → s.core.asyncs ≠ [] → s.core.ta = false → s.core.committed = false →
    step s = timed (refilled (exec .asyncTrap s))) ∧
  (∀ (s : State) (n : Nat) (i : Instr) (rest : List Turn), s.agenda = { core := n, what := .event i } :: rest →
    step s = timed (exec i (({ s with agenda := rest } : State).focus n)))

/-- DRAM stays in canonical form in every step, from every state in which it is so, whichever agent moves: addresses rising, no byte listed
that equals what an unlisted one reads as. -/
def Obligations.MemoryCanonical : Prop := ∀ s t : State, s.memWf = true → step s = .next t → t.memWf = true

/-- R89, R93, R97, R104, R250, R319, R372, R396: right after reset DRAM is in canonical form and every byte of it is zero; of every core the
registers are zero and exact, the caches invalid, the buffers zero with every line full and exact, the planes EMPTY, no loop and no trap in progress;
every hasp is uninitialised; TURN is 63 on every die; the package is not ready. -/
def Obligations.ResetState : Prop :=
  let s := State.reset
  s.memWf = true ∧ (∀ pa, s.memByte pa = 0) ∧ s.cyc = 0 ∧ s.pkg.ready = false ∧
  (∀ n r, ∀ h : r < 32, (s.coreAt n).regs[r] = 0 ∧ (s.coreAt n).etag[r] = false) ∧
  (∀ n, let c := s.coreAt n
    c.icache = [] ∧ c.dcache = [] ∧ c.lcnt = 0 ∧ c.lstart = 0 ∧ c.lend = 0 ∧ c.tvec = 0 ∧ c.tstat = 0 ∧ c.efnc = 0 ∧
    (∀ k, (c.fab.plane k).state = .empty) ∧ c.fab.epoch = 0 ∧
    ∀ sp l, ((c.buf sp).full l = true ∧ (c.buf sp).isEst l = false) ∧ ∀ a, (c.buf sp).byte a = 0) ∧
  (∀ h, (s.hasp h).init = false) ∧ ∀ k, (s.dieAt k).turn = 63 ∧ (s.dieAt k).used = 0
end

