-- ==== Sys2Proof/Laws/Maps.lean ====
section
/-! SUPPORT. Sparse data: reading back a write, writes that leave every other key, and the canonical form, which every operation
keeps and in which equal readings are equal data. -/

namespace Sys2Proof.Machine

variable {α : Type}

@[simp] theorem Map.get_nil (d : α) (n : Nat) : Map.get d [] n = d := rfl
@[simp] theorem Map.find_nil (n : Nat) : Map.find ([] : Map α) n = none := rfl

/-- What is listed at a key after a write, in any map. -/
theorem Map.find_set (m : Map α) (n k : Nat) (v : α) : Map.find (Map.set m n v) k = if k = n then some v else Map.find m k := by
  induction m with
  | nil => rfl
  | cons e t ih =>
    obtain ⟨a, w⟩ := e
    simp only [Map.set]
    split
    · next h => subst h; simp only [Map.find]; split <;> rfl
    · split
      · simp only [Map.find]
      · next h _ =>
        simp only [Map.find, ih]
        by_cases hk : k = a
        · subst hk; rw [if_pos rfl, if_pos rfl, if_neg (Ne.symm h)]
        · rw [if_neg hk, if_neg hk]

/-- Reading is what is listed, or the default. -/
theorem Map.get_eq_find (d : α) (m : Map α) (n : Nat) : Map.get d m n = (Map.find m n).getD d := by
  induction m with
  | nil => rfl
  | cons e t ih =>
    obtain ⟨a, w⟩ := e
    simp only [Map.get, Map.find]
    split
    · rfl
    · exact ih

theorem Map.get_set (d : α) (m : Map α) (n k : Nat) (v : α) : Map.get d (Map.set m n v) k = if k = n then v else Map.get d m k := by
  rw [Map.get_eq_find, Map.find_set, Map.get_eq_find]
  split <;> rfl

@[simp] theorem Map.find_set_self (m : Map α) (n : Nat) (v : α) : Map.find (Map.set m n v) n = some v := by rw [Map.find_set, if_pos rfl]
@[simp] theorem Map.get_set_self (d : α) (m : Map α) (n : Nat) (v : α) : Map.get d (Map.set m n v) n = v := by rw [Map.get_set, if_pos rfl]
theorem Map.find_set_of_ne (m : Map α) {n k : Nat} (v : α) (h : k ≠ n) : Map.find (Map.set m n v) k = Map.find m k := by
  rw [Map.find_set, if_neg h]
theorem Map.get_set_of_ne (d : α) (m : Map α) {n k : Nat} (v : α) (h : k ≠ n) : Map.get d (Map.set m n v) k = Map.get d m k := by
  rw [Map.get_set, if_neg h]

theorem Map.find_erase (m : Map α) (n k : Nat) : Map.find (Map.erase m n) k = if k = n then none else Map.find m k := by
  induction m with
  | nil => simp [Map.erase]
  | cons e t ih =>
    obtain ⟨a, w⟩ := e
    simp only [Map.erase]
    split
    · next h =>
      subst h
      simp only [ih, Map.find]
      split <;> rfl
    · next h =>
      simp only [Map.find, ih]
      by_cases hk : k = a
      · subst hk; rw [if_pos rfl, if_pos rfl, if_neg (Ne.symm h)]
      · rw [if_neg hk, if_neg hk]

theorem Map.get_erase (d : α) (m : Map α) (n k : Nat) : Map.get d (Map.erase m n) k = if k = n then d else Map.get d m k := by
  rw [Map.get_eq_find, Map.find_erase, Map.get_eq_find]
  split <;> rfl

section Canonical
variable [DecidableEq α]

theorem Map.get_put (d : α) (m : Map α) (n k : Nat) (v : α) : Map.get d (Map.put d m n v) k = if k = n then v else Map.get d m k := by
  unfold Map.put
  split
  · next h => subst h; exact Map.get_erase ..
  · exact Map.get_set ..

@[simp] theorem Map.get_put_self (d : α) (m : Map α) (n : Nat) (v : α) : Map.get d (Map.put d m n v) n = v := by rw [Map.get_put, if_pos rfl]
theorem Map.get_put_of_ne (d : α) (m : Map α) {n k : Nat} (v : α) (h : k ≠ n) : Map.get d (Map.put d m n v) k = Map.get d m k := by
  rw [Map.get_put, if_neg h]

/-! ### The canonical form -/

theorem Map.wfFrom_mono {d : α} {a b : Nat} (h : a ≤ b) {m : Map α} (hm : Map.wfFrom d b m = true) : Map.wfFrom d a m = true := by
  cases m with
  | nil => rfl
  | cons e t =>
    obtain ⟨k, v⟩ := e
    simp only [Map.wfFrom, Bool.and_eq_true, decide_eq_true_eq] at hm ⊢
    exact ⟨⟨by omega, hm.1.2⟩, hm.2⟩

theorem Map.wfFrom_set {d : α} {lo n : Nat} {v : α} (hn : lo ≤ n) (hv : v ≠ d) {m : Map α} (hm : Map.wfFrom d lo m = true) :
    Map.wfFrom d lo (Map.set m n v) = true := by
  induction m generalizing lo with
  | nil => simp [Map.set, Map.wfFrom, hn, hv]
  | cons e t ih =>
    obtain ⟨k, w⟩ := e
    simp only [Map.wfFrom, Bool.and_eq_true, decide_eq_true_eq] at hm
    simp only [Map.set]
    split
    · next h => subst h; simp [Map.wfFrom, hn, hv, hm.2]
    · split
      · next h => simp [Map.wfFrom, hn, hv, hm.1.2, hm.2]; omega
      · simp only [Map.wfFrom, Bool.and_eq_true, decide_eq_true_eq]
        exact ⟨hm.1, ih (by omega) hm.2⟩

theorem Map.wfFrom_erase {d : α} {lo : Nat} (n : Nat) {m : Map α} (hm : Map.wfFrom d lo m = true) : Map.wfFrom d lo (Map.erase m n) = true := by
  induction m generalizing lo with
  | nil => rfl
  | cons e t ih =>
    obtain ⟨k, w⟩ := e
    simp only [Map.wfFrom, Bool.and_eq_true, decide_eq_true_eq] at hm
    simp only [Map.erase]
    split
    · exact Map.wfFrom_mono (by omega) (ih hm.2)
    · simp only [Map.wfFrom, Bool.and_eq_true, decide_eq_true_eq]
      exact ⟨hm.1, ih hm.2⟩

theorem Map.wfFrom_filter {d : α} {lo : Nat} (p : Nat × α → Bool) {m : Map α} (hm : Map.wfFrom d lo m = true) :
    Map.wfFrom d lo (m.filter p) = true := by
  induction m generalizing lo with
  | nil => rfl
  | cons e t ih =>
    obtain ⟨k, w⟩ := e
    simp only [Map.wfFrom, Bool.and_eq_true, decide_eq_true_eq] at hm
    rw [List.filter_cons]
    split
    · simp only [Map.wfFrom, Bool.and_eq_true, decide_eq_true_eq]
      exact ⟨hm.1, ih hm.2⟩
    · exact Map.wfFrom_mono (by omega) (ih hm.2)

@[simp] theorem Map.wf_nil (d : α) : Map.wf d [] = true := rfl
theorem Map.wf_set {d : α} {n : Nat} {v : α} (hv : v ≠ d) {m : Map α} (hm : Map.wf d m = true) : Map.wf d (Map.set m n v) = true :=
  Map.wfFrom_set (Nat.zero_le n) hv hm
theorem Map.wf_put {d : α} (n : Nat) (v : α) {m : Map α} (hm : Map.wf d m = true) : Map.wf d (Map.put d m n v) = true := by
  unfold Map.put
  split
  · exact Map.wfFrom_erase n hm
  · next h => exact Map.wf_set h hm
theorem Map.wf_filter {d : α} (p : Nat × α → Bool) {m : Map α} (hm : Map.wf d m = true) : Map.wf d (m.filter p) = true :=
  Map.wfFrom_filter p hm

/-- No listed value of a map in canonical form is the default. -/
theorem Map.ne_default_of_mem {d : α} {lo : Nat} {m : Map α} (hm : Map.wfFrom d lo m = true) {e : Nat × α} (he : e ∈ m) : e.2 ≠ d := by
  induction m generalizing lo with
  | nil => cases he
  | cons x t ih =>
    obtain ⟨k, w⟩ := x
    simp only [Map.wfFrom, Bool.and_eq_true, decide_eq_true_eq] at hm
    rcases List.mem_cons.mp he with rfl | h
    · exact hm.1.2
    · exact ih hm.2 h

/-- Below its first key a map in canonical form reads as the default. -/
theorem Map.get_below {d : α} {lo n : Nat} (h : n < lo) {m : Map α} (hm : Map.wfFrom d lo m = true) : Map.get d m n = d := by
  induction m generalizing lo with
  | nil => rfl
  | cons x t ih =>
    obtain ⟨k, w⟩ := x
    simp only [Map.wfFrom, Bool.and_eq_true, decide_eq_true_eq] at hm
    simp only [Map.get, if_neg (show n ≠ k by omega)]
    exact ih (by omega) hm.2

/-- Maps in canonical form that read alike are the same data. -/
theorem Map.wfFrom_ext {d : α} {lo : Nat} {m m' : Map α} (hm : Map.wfFrom d lo m = true) (hm' : Map.wfFrom d lo m' = true)
    (h : ∀ n, Map.get d m n = Map.get d m' n) : m = m' := by
  induction m generalizing lo m' with
  | nil =>
    cases m' with
    | nil => rfl
    | cons x t =>
      obtain ⟨k, w⟩ := x
      simp only [Map.wfFrom, Bool.and_eq_true, decide_eq_true_eq] at hm'
      have := h k
      simp only [Map.get, if_true] at this
      exact absurd this.symm hm'.1.2
  | cons x t ih =>
    obtain ⟨k, w⟩ := x
    cases m' with
    | nil =>
      simp only [Map.wfFrom, Bool.and_eq_true, decide_eq_true_eq] at hm
      have := h k
      simp only [Map.get, if_true] at this
      exact absurd this hm.1.2
    | cons y t' =>
      obtain ⟨k', w'⟩ := y
      simp only [Map.wfFrom, Bool.and_eq_true, decide_eq_true_eq] at hm hm'
      have hk : k = k' := by
        have h1 := h k; have h2 := h k'
        simp only [Map.get, if_true] at h1 h2
        rcases Nat.lt_trichotomy k k' with hl | he | hl
        · rw [if_neg (show k ≠ k' by omega), Map.get_below (lo := k' + 1) (by omega) hm'.2] at h1
          exact absurd h1 hm.1.2
        · exact he
        · rw [if_neg (show k' ≠ k by omega), Map.get_below (lo := k + 1) (by omega) hm.2] at h2
          exact absurd h2.symm hm'.1.2
      subst hk
      have hw : w = w' := by have := h k; simpa [Map.get] using this
      subst hw
      refine congrArg _ (ih hm.2 hm'.2 fun n => ?_)
      by_cases hn : n = k
      · subst hn; rw [Map.get_below (Nat.lt_succ_self n) hm.2, Map.get_below (Nat.lt_succ_self n) hm'.2]
      · have := h n
        simpa [Map.get, if_neg hn] using this

theorem Map.wf_ext {d : α} {m m' : Map α} (hm : Map.wf d m = true) (hm' : Map.wf d m' = true) (h : ∀ n, Map.get d m n = Map.get d m' n) :
    m = m' := Map.wfFrom_ext hm hm' h

end Canonical

end Sys2Proof.Machine
end

