-- ==== Sys2Proof/Laws/State.lean ====
section
/-! SUPPORT. What each named update of the state leaves in each field, true by unfolding, for the simplifier. -/

namespace Sys2Proof.Machine

@[simp] theorem State.modCore_core (f : Core → Core) (s : State) : (s.modCore f).core = f s.core := rfl
@[simp] theorem State.modCore_others (f : Core → Core) (s : State) : (s.modCore f).others = s.others := rfl
@[simp] theorem State.modCore_clusters (f : Core → Core) (s : State) : (s.modCore f).clusters = s.clusters := rfl
@[simp] theorem State.modCore_dies (f : Core → Core) (s : State) : (s.modCore f).dies = s.dies := rfl
@[simp] theorem State.modCore_mem (f : Core → Core) (s : State) : (s.modCore f).mem = s.mem := rfl
@[simp] theorem State.modCore_ptes (f : Core → Core) (s : State) : (s.modCore f).ptes = s.ptes := rfl
@[simp] theorem State.modCore_procs (f : Core → Core) (s : State) : (s.modCore f).procs = s.procs := rfl
@[simp] theorem State.modCore_tenants (f : Core → Core) (s : State) : (s.modCore f).tenants = s.tenants := rfl
@[simp] theorem State.modCore_tasks (f : Core → Core) (s : State) : (s.modCore f).tasks = s.tasks := rfl
@[simp] theorem State.modCore_pkg (f : Core → Core) (s : State) : (s.modCore f).pkg = s.pkg := rfl
@[simp] theorem State.modCore_cyc (f : Core → Core) (s : State) : (s.modCore f).cyc = s.cyc := rfl
@[simp] theorem State.modCore_agenda (f : Core → Core) (s : State) : (s.modCore f).agenda = s.agenda := rfl
@[simp] theorem State.modCore_free (f : Core → Core) (s : State) : (s.modCore f).free = s.free := rfl

@[simp] theorem State.finishAt_core (len npc : Word) (s : State) : (s.finishAt len npc).core = s.core.complete len npc := rfl
@[simp] theorem State.finishAt_others (len npc : Word) (s : State) : (s.finishAt len npc).others = s.others := rfl
@[simp] theorem State.finishAt_clusters (len npc : Word) (s : State) : (s.finishAt len npc).clusters = s.clusters := rfl
@[simp] theorem State.finishAt_dies (len npc : Word) (s : State) : (s.finishAt len npc).dies = s.dies := rfl
@[simp] theorem State.finishAt_mem (len npc : Word) (s : State) : (s.finishAt len npc).mem = s.mem := rfl
@[simp] theorem State.finishAt_ptes (len npc : Word) (s : State) : (s.finishAt len npc).ptes = s.ptes := rfl
@[simp] theorem State.finishAt_procs (len npc : Word) (s : State) : (s.finishAt len npc).procs = s.procs := rfl
@[simp] theorem State.finishAt_tenants (len npc : Word) (s : State) : (s.finishAt len npc).tenants = s.tenants := rfl
@[simp] theorem State.finishAt_tasks (len npc : Word) (s : State) : (s.finishAt len npc).tasks = s.tasks := rfl
@[simp] theorem State.finishAt_pkg (len npc : Word) (s : State) : (s.finishAt len npc).pkg = s.pkg := rfl
@[simp] theorem State.finishAt_cyc (len npc : Word) (s : State) : (s.finishAt len npc).cyc = s.cyc := rfl
@[simp] theorem State.finishAt_agenda (len npc : Word) (s : State) : (s.finishAt len npc).agenda = s.agenda := rfl
@[simp] theorem State.finishAt_free (len npc : Word) (s : State) : (s.finishAt len npc).free = s.free := rfl

@[simp] theorem State.finish_core (len : Word) (s : State) : (s.finish len).core = s.core.complete len (s.core.pc + len) := rfl
@[simp] theorem State.finish_others (len : Word) (s : State) : (s.finish len).others = s.others := rfl
@[simp] theorem State.finish_clusters (len : Word) (s : State) : (s.finish len).clusters = s.clusters := rfl
@[simp] theorem State.finish_dies (len : Word) (s : State) : (s.finish len).dies = s.dies := rfl
@[simp] theorem State.finish_mem (len : Word) (s : State) : (s.finish len).mem = s.mem := rfl
@[simp] theorem State.finish_ptes (len : Word) (s : State) : (s.finish len).ptes = s.ptes := rfl
@[simp] theorem State.finish_procs (len : Word) (s : State) : (s.finish len).procs = s.procs := rfl
@[simp] theorem State.finish_tenants (len : Word) (s : State) : (s.finish len).tenants = s.tenants := rfl
@[simp] theorem State.finish_tasks (len : Word) (s : State) : (s.finish len).tasks = s.tasks := rfl
@[simp] theorem State.finish_pkg (len : Word) (s : State) : (s.finish len).pkg = s.pkg := rfl
@[simp] theorem State.finish_cyc (len : Word) (s : State) : (s.finish len).cyc = s.cyc := rfl
@[simp] theorem State.finish_agenda (len : Word) (s : State) : (s.finish len).agenda = s.agenda := rfl
@[simp] theorem State.finish_free (len : Word) (s : State) : (s.finish len).free = s.free := rfl

@[simp] theorem State.modFab_core (f : Fabric → Fabric) (s : State) : (s.modFab f).core = { s.core with fab := f s.core.fab } := rfl
@[simp] theorem State.modFab_others (f : Fabric → Fabric) (s : State) : (s.modFab f).others = s.others := rfl
@[simp] theorem State.modFab_clusters (f : Fabric → Fabric) (s : State) : (s.modFab f).clusters = s.clusters := rfl
@[simp] theorem State.modFab_dies (f : Fabric → Fabric) (s : State) : (s.modFab f).dies = s.dies := rfl
@[simp] theorem State.modFab_mem (f : Fabric → Fabric) (s : State) : (s.modFab f).mem = s.mem := rfl
@[simp] theorem State.modFab_ptes (f : Fabric → Fabric) (s : State) : (s.modFab f).ptes = s.ptes := rfl
@[simp] theorem State.modFab_procs (f : Fabric → Fabric) (s : State) : (s.modFab f).procs = s.procs := rfl
@[simp] theorem State.modFab_tenants (f : Fabric → Fabric) (s : State) : (s.modFab f).tenants = s.tenants := rfl
@[simp] theorem State.modFab_tasks (f : Fabric → Fabric) (s : State) : (s.modFab f).tasks = s.tasks := rfl
@[simp] theorem State.modFab_pkg (f : Fabric → Fabric) (s : State) : (s.modFab f).pkg = s.pkg := rfl
@[simp] theorem State.modFab_cyc (f : Fabric → Fabric) (s : State) : (s.modFab f).cyc = s.cyc := rfl
@[simp] theorem State.modFab_agenda (f : Fabric → Fabric) (s : State) : (s.modFab f).agenda = s.agenda := rfl
@[simp] theorem State.modFab_free (f : Fabric → Fabric) (s : State) : (s.modFab f).free = s.free := rfl

@[simp] theorem State.raiseAsync_core (c : Nat) (v : Word) (s : State) : (s.raiseAsync c v).core = { s.core with asyncs := s.core.asyncs ++ [{ cause := c, value := v }] } := rfl
@[simp] theorem State.raiseAsync_others (c : Nat) (v : Word) (s : State) : (s.raiseAsync c v).others = s.others := rfl
@[simp] theorem State.raiseAsync_clusters (c : Nat) (v : Word) (s : State) : (s.raiseAsync c v).clusters = s.clusters := rfl
@[simp] theorem State.raiseAsync_dies (c : Nat) (v : Word) (s : State) : (s.raiseAsync c v).dies = s.dies := rfl
@[simp] theorem State.raiseAsync_mem (c : Nat) (v : Word) (s : State) : (s.raiseAsync c v).mem = s.mem := rfl
@[simp] theorem State.raiseAsync_ptes (c : Nat) (v : Word) (s : State) : (s.raiseAsync c v).ptes = s.ptes := rfl
@[simp] theorem State.raiseAsync_procs (c : Nat) (v : Word) (s : State) : (s.raiseAsync c v).procs = s.procs := rfl
@[simp] theorem State.raiseAsync_tenants (c : Nat) (v : Word) (s : State) : (s.raiseAsync c v).tenants = s.tenants := rfl
@[simp] theorem State.raiseAsync_tasks (c : Nat) (v : Word) (s : State) : (s.raiseAsync c v).tasks = s.tasks := rfl
@[simp] theorem State.raiseAsync_pkg (c : Nat) (v : Word) (s : State) : (s.raiseAsync c v).pkg = s.pkg := rfl
@[simp] theorem State.raiseAsync_cyc (c : Nat) (v : Word) (s : State) : (s.raiseAsync c v).cyc = s.cyc := rfl
@[simp] theorem State.raiseAsync_agenda (c : Nat) (v : Word) (s : State) : (s.raiseAsync c v).agenda = s.agenda := rfl
@[simp] theorem State.raiseAsync_free (c : Nat) (v : Word) (s : State) : (s.raiseAsync c v).free = s.free := rfl

@[simp] theorem State.setMem_core (pa : Nat) (bs : List Byte) (s : State) : (s.setMem pa bs).core = s.core := rfl
@[simp] theorem State.setMem_others (pa : Nat) (bs : List Byte) (s : State) : (s.setMem pa bs).others = s.others := rfl
@[simp] theorem State.setMem_clusters (pa : Nat) (bs : List Byte) (s : State) : (s.setMem pa bs).clusters = s.clusters := rfl
@[simp] theorem State.setMem_dies (pa : Nat) (bs : List Byte) (s : State) : (s.setMem pa bs).dies = useRowAt s.dies pa := rfl
@[simp] theorem State.setMem_mem (pa : Nat) (bs : List Byte) (s : State) : (s.setMem pa bs).mem = putBytes s.mem pa bs := rfl
@[simp] theorem State.setMem_ptes (pa : Nat) (bs : List Byte) (s : State) : (s.setMem pa bs).ptes = s.ptes := rfl
@[simp] theorem State.setMem_procs (pa : Nat) (bs : List Byte) (s : State) : (s.setMem pa bs).procs = s.procs := rfl
@[simp] theorem State.setMem_tenants (pa : Nat) (bs : List Byte) (s : State) : (s.setMem pa bs).tenants = s.tenants := rfl
@[simp] theorem State.setMem_tasks (pa : Nat) (bs : List Byte) (s : State) : (s.setMem pa bs).tasks = s.tasks := rfl
@[simp] theorem State.setMem_pkg (pa : Nat) (bs : List Byte) (s : State) : (s.setMem pa bs).pkg = s.pkg := rfl
@[simp] theorem State.setMem_cyc (pa : Nat) (bs : List Byte) (s : State) : (s.setMem pa bs).cyc = s.cyc := rfl
@[simp] theorem State.setMem_agenda (pa : Nat) (bs : List Byte) (s : State) : (s.setMem pa bs).agenda = s.agenda := rfl
@[simp] theorem State.setMem_free (pa : Nat) (bs : List Byte) (s : State) : (s.setMem pa bs).free = s.free := rfl

@[simp] theorem State.modClusterAt_core (k : Nat) (f : Cluster → Cluster) (s : State) : (s.modClusterAt k f).core = s.core := rfl
@[simp] theorem State.modClusterAt_others (k : Nat) (f : Cluster → Cluster) (s : State) : (s.modClusterAt k f).others = s.others := rfl
@[simp] theorem State.modClusterAt_clusters (k : Nat) (f : Cluster → Cluster) (s : State) : (s.modClusterAt k f).clusters = Map.set s.clusters k (f (Map.get {} s.clusters k)) := rfl
@[simp] theorem State.modClusterAt_dies (k : Nat) (f : Cluster → Cluster) (s : State) : (s.modClusterAt k f).dies = s.dies := rfl
@[simp] theorem State.modClusterAt_mem (k : Nat) (f : Cluster → Cluster) (s : State) : (s.modClusterAt k f).mem = s.mem := rfl
@[simp] theorem State.modClusterAt_ptes (k : Nat) (f : Cluster → Cluster) (s : State) : (s.modClusterAt k f).ptes = s.ptes := rfl
@[simp] theorem State.modClusterAt_procs (k : Nat) (f : Cluster → Cluster) (s : State) : (s.modClusterAt k f).procs = s.procs := rfl
@[simp] theorem State.modClusterAt_tenants (k : Nat) (f : Cluster → Cluster) (s : State) : (s.modClusterAt k f).tenants = s.tenants := rfl
@[simp] theorem State.modClusterAt_tasks (k : Nat) (f : Cluster → Cluster) (s : State) : (s.modClusterAt k f).tasks = s.tasks := rfl
@[simp] theorem State.modClusterAt_pkg (k : Nat) (f : Cluster → Cluster) (s : State) : (s.modClusterAt k f).pkg = s.pkg := rfl
@[simp] theorem State.modClusterAt_cyc (k : Nat) (f : Cluster → Cluster) (s : State) : (s.modClusterAt k f).cyc = s.cyc := rfl
@[simp] theorem State.modClusterAt_agenda (k : Nat) (f : Cluster → Cluster) (s : State) : (s.modClusterAt k f).agenda = s.agenda := rfl
@[simp] theorem State.modClusterAt_free (k : Nat) (f : Cluster → Cluster) (s : State) : (s.modClusterAt k f).free = s.free := rfl

@[simp] theorem State.modCluster_core (f : Cluster → Cluster) (s : State) : (s.modCluster f).core = s.core := rfl
@[simp] theorem State.modCluster_others (f : Cluster → Cluster) (s : State) : (s.modCluster f).others = s.others := rfl
@[simp] theorem State.modCluster_clusters (f : Cluster → Cluster) (s : State) : (s.modCluster f).clusters = Map.set s.clusters s.core.clusterKey (f s.cluster) := rfl
@[simp] theorem State.modCluster_dies (f : Cluster → Cluster) (s : State) : (s.modCluster f).dies = s.dies := rfl
@[simp] theorem State.modCluster_mem (f : Cluster → Cluster) (s : State) : (s.modCluster f).mem = s.mem := rfl
@[simp] theorem State.modCluster_ptes (f : Cluster → Cluster) (s : State) : (s.modCluster f).ptes = s.ptes := rfl
@[simp] theorem State.modCluster_procs (f : Cluster → Cluster) (s : State) : (s.modCluster f).procs = s.procs := rfl
@[simp] theorem State.modCluster_tenants (f : Cluster → Cluster) (s : State) : (s.modCluster f).tenants = s.tenants := rfl
@[simp] theorem State.modCluster_tasks (f : Cluster → Cluster) (s : State) : (s.modCluster f).tasks = s.tasks := rfl
@[simp] theorem State.modCluster_pkg (f : Cluster → Cluster) (s : State) : (s.modCluster f).pkg = s.pkg := rfl
@[simp] theorem State.modCluster_cyc (f : Cluster → Cluster) (s : State) : (s.modCluster f).cyc = s.cyc := rfl
@[simp] theorem State.modCluster_agenda (f : Cluster → Cluster) (s : State) : (s.modCluster f).agenda = s.agenda := rfl
@[simp] theorem State.modCluster_free (f : Cluster → Cluster) (s : State) : (s.modCluster f).free = s.free := rfl

@[simp] theorem State.modDieAt_core (k : Nat) (f : Die → Die) (s : State) : (s.modDieAt k f).core = s.core := rfl
@[simp] theorem State.modDieAt_others (k : Nat) (f : Die → Die) (s : State) : (s.modDieAt k f).others = s.others := rfl
@[simp] theorem State.modDieAt_clusters (k : Nat) (f : Die → Die) (s : State) : (s.modDieAt k f).clusters = s.clusters := rfl
@[simp] theorem State.modDieAt_dies (k : Nat) (f : Die → Die) (s : State) : (s.modDieAt k f).dies = Map.set s.dies k (f (s.dieAt k)) := rfl
@[simp] theorem State.modDieAt_mem (k : Nat) (f : Die → Die) (s : State) : (s.modDieAt k f).mem = s.mem := rfl
@[simp] theorem State.modDieAt_ptes (k : Nat) (f : Die → Die) (s : State) : (s.modDieAt k f).ptes = s.ptes := rfl
@[simp] theorem State.modDieAt_procs (k : Nat) (f : Die → Die) (s : State) : (s.modDieAt k f).procs = s.procs := rfl
@[simp] theorem State.modDieAt_tenants (k : Nat) (f : Die → Die) (s : State) : (s.modDieAt k f).tenants = s.tenants := rfl
@[simp] theorem State.modDieAt_tasks (k : Nat) (f : Die → Die) (s : State) : (s.modDieAt k f).tasks = s.tasks := rfl
@[simp] theorem State.modDieAt_pkg (k : Nat) (f : Die → Die) (s : State) : (s.modDieAt k f).pkg = s.pkg := rfl
@[simp] theorem State.modDieAt_cyc (k : Nat) (f : Die → Die) (s : State) : (s.modDieAt k f).cyc = s.cyc := rfl
@[simp] theorem State.modDieAt_agenda (k : Nat) (f : Die → Die) (s : State) : (s.modDieAt k f).agenda = s.agenda := rfl
@[simp] theorem State.modDieAt_free (k : Nat) (f : Die → Die) (s : State) : (s.modDieAt k f).free = s.free := rfl

@[simp] theorem State.modDie_core (f : Die → Die) (s : State) : (s.modDie f).core = s.core := rfl
@[simp] theorem State.modDie_others (f : Die → Die) (s : State) : (s.modDie f).others = s.others := rfl
@[simp] theorem State.modDie_clusters (f : Die → Die) (s : State) : (s.modDie f).clusters = s.clusters := rfl
@[simp] theorem State.modDie_dies (f : Die → Die) (s : State) : (s.modDie f).dies = Map.set s.dies s.core.stack (f s.die) := rfl
@[simp] theorem State.modDie_mem (f : Die → Die) (s : State) : (s.modDie f).mem = s.mem := rfl
@[simp] theorem State.modDie_ptes (f : Die → Die) (s : State) : (s.modDie f).ptes = s.ptes := rfl
@[simp] theorem State.modDie_procs (f : Die → Die) (s : State) : (s.modDie f).procs = s.procs := rfl
@[simp] theorem State.modDie_tenants (f : Die → Die) (s : State) : (s.modDie f).tenants = s.tenants := rfl
@[simp] theorem State.modDie_tasks (f : Die → Die) (s : State) : (s.modDie f).tasks = s.tasks := rfl
@[simp] theorem State.modDie_pkg (f : Die → Die) (s : State) : (s.modDie f).pkg = s.pkg := rfl
@[simp] theorem State.modDie_cyc (f : Die → Die) (s : State) : (s.modDie f).cyc = s.cyc := rfl
@[simp] theorem State.modDie_agenda (f : Die → Die) (s : State) : (s.modDie f).agenda = s.agenda := rfl
@[simp] theorem State.modDie_free (f : Die → Die) (s : State) : (s.modDie f).free = s.free := rfl

@[simp] theorem State.modProc_core (p : Nat) (f : Proc → Proc) (s : State) : (s.modProc p f).core = s.core := rfl
@[simp] theorem State.modProc_others (p : Nat) (f : Proc → Proc) (s : State) : (s.modProc p f).others = s.others := rfl
@[simp] theorem State.modProc_clusters (p : Nat) (f : Proc → Proc) (s : State) : (s.modProc p f).clusters = s.clusters := rfl
@[simp] theorem State.modProc_dies (p : Nat) (f : Proc → Proc) (s : State) : (s.modProc p f).dies = s.dies := rfl
@[simp] theorem State.modProc_mem (p : Nat) (f : Proc → Proc) (s : State) : (s.modProc p f).mem = s.mem := rfl
@[simp] theorem State.modProc_ptes (p : Nat) (f : Proc → Proc) (s : State) : (s.modProc p f).ptes = s.ptes := rfl
@[simp] theorem State.modProc_procs (p : Nat) (f : Proc → Proc) (s : State) : (s.modProc p f).procs = Map.set s.procs p (f (s.procAt p)) := rfl
@[simp] theorem State.modProc_tenants (p : Nat) (f : Proc → Proc) (s : State) : (s.modProc p f).tenants = s.tenants := rfl
@[simp] theorem State.modProc_tasks (p : Nat) (f : Proc → Proc) (s : State) : (s.modProc p f).tasks = s.tasks := rfl
@[simp] theorem State.modProc_pkg (p : Nat) (f : Proc → Proc) (s : State) : (s.modProc p f).pkg = s.pkg := rfl
@[simp] theorem State.modProc_cyc (p : Nat) (f : Proc → Proc) (s : State) : (s.modProc p f).cyc = s.cyc := rfl
@[simp] theorem State.modProc_agenda (p : Nat) (f : Proc → Proc) (s : State) : (s.modProc p f).agenda = s.agenda := rfl
@[simp] theorem State.modProc_free (p : Nat) (f : Proc → Proc) (s : State) : (s.modProc p f).free = s.free := rfl

@[simp] theorem State.dropLines_core (sel : DLine → Bool) (s : State) : (s.dropLines sel).core = { s.core with dcache := s.core.dcache.filter (fun l => !sel l) } := rfl
@[simp] theorem State.dropLines_others (sel : DLine → Bool) (s : State) : (s.dropLines sel).others = s.others := rfl
@[simp] theorem State.dropLines_clusters (sel : DLine → Bool) (s : State) : (s.dropLines sel).clusters = s.clusters := rfl
@[simp] theorem State.dropLines_dies (sel : DLine → Bool) (s : State) : (s.dropLines sel).dies = s.dies := rfl
@[simp] theorem State.dropLines_mem (sel : DLine → Bool) (s : State) : (s.dropLines sel).mem = s.mem := rfl
@[simp] theorem State.dropLines_ptes (sel : DLine → Bool) (s : State) : (s.dropLines sel).ptes = s.ptes := rfl
@[simp] theorem State.dropLines_procs (sel : DLine → Bool) (s : State) : (s.dropLines sel).procs = s.procs := rfl
@[simp] theorem State.dropLines_tenants (sel : DLine → Bool) (s : State) : (s.dropLines sel).tenants = s.tenants := rfl
@[simp] theorem State.dropLines_tasks (sel : DLine → Bool) (s : State) : (s.dropLines sel).tasks = s.tasks := rfl
@[simp] theorem State.dropLines_pkg (sel : DLine → Bool) (s : State) : (s.dropLines sel).pkg = s.pkg := rfl
@[simp] theorem State.dropLines_cyc (sel : DLine → Bool) (s : State) : (s.dropLines sel).cyc = s.cyc := rfl
@[simp] theorem State.dropLines_agenda (sel : DLine → Bool) (s : State) : (s.dropLines sel).agenda = s.agenda := rfl
@[simp] theorem State.dropLines_free (sel : DLine → Bool) (s : State) : (s.dropLines sel).free = s.free := rfl

@[simp] theorem State.setReg_others (d : Reg) (v : Word) (e : Bool) (s : State) : (s.setReg d v e).others = s.others := by unfold State.setReg; split <;> rfl
@[simp] theorem State.setReg_clusters (d : Reg) (v : Word) (e : Bool) (s : State) : (s.setReg d v e).clusters = s.clusters := by unfold State.setReg; split <;> rfl
@[simp] theorem State.setReg_dies (d : Reg) (v : Word) (e : Bool) (s : State) : (s.setReg d v e).dies = s.dies := by unfold State.setReg; split <;> rfl
@[simp] theorem State.setReg_mem (d : Reg) (v : Word) (e : Bool) (s : State) : (s.setReg d v e).mem = s.mem := by unfold State.setReg; split <;> rfl
@[simp] theorem State.setReg_ptes (d : Reg) (v : Word) (e : Bool) (s : State) : (s.setReg d v e).ptes = s.ptes := by unfold State.setReg; split <;> rfl
@[simp] theorem State.setReg_procs (d : Reg) (v : Word) (e : Bool) (s : State) : (s.setReg d v e).procs = s.procs := by unfold State.setReg; split <;> rfl
@[simp] theorem State.setReg_tenants (d : Reg) (v : Word) (e : Bool) (s : State) : (s.setReg d v e).tenants = s.tenants := by unfold State.setReg; split <;> rfl
@[simp] theorem State.setReg_tasks (d : Reg) (v : Word) (e : Bool) (s : State) : (s.setReg d v e).tasks = s.tasks := by unfold State.setReg; split <;> rfl
@[simp] theorem State.setReg_pkg (d : Reg) (v : Word) (e : Bool) (s : State) : (s.setReg d v e).pkg = s.pkg := by unfold State.setReg; split <;> rfl
@[simp] theorem State.setReg_cyc (d : Reg) (v : Word) (e : Bool) (s : State) : (s.setReg d v e).cyc = s.cyc := by unfold State.setReg; split <;> rfl
@[simp] theorem State.setReg_agenda (d : Reg) (v : Word) (e : Bool) (s : State) : (s.setReg d v e).agenda = s.agenda := by unfold State.setReg; split <;> rfl
@[simp] theorem State.setReg_free (d : Reg) (v : Word) (e : Bool) (s : State) : (s.setReg d v e).free = s.free := by unfold State.setReg; split <;> rfl

@[simp] theorem State.modTask_core (n : Nat) (f : Task → Task) (s : State) : (s.modTask n f).core = s.core := by unfold State.modTask; split <;> rfl
@[simp] theorem State.modTask_others (n : Nat) (f : Task → Task) (s : State) : (s.modTask n f).others = s.others := by unfold State.modTask; split <;> rfl
@[simp] theorem State.modTask_clusters (n : Nat) (f : Task → Task) (s : State) : (s.modTask n f).clusters = s.clusters := by unfold State.modTask; split <;> rfl
@[simp] theorem State.modTask_dies (n : Nat) (f : Task → Task) (s : State) : (s.modTask n f).dies = s.dies := by unfold State.modTask; split <;> rfl
@[simp] theorem State.modTask_mem (n : Nat) (f : Task → Task) (s : State) : (s.modTask n f).mem = s.mem := by unfold State.modTask; split <;> rfl
@[simp] theorem State.modTask_ptes (n : Nat) (f : Task → Task) (s : State) : (s.modTask n f).ptes = s.ptes := by unfold State.modTask; split <;> rfl
@[simp] theorem State.modTask_procs (n : Nat) (f : Task → Task) (s : State) : (s.modTask n f).procs = s.procs := by unfold State.modTask; split <;> rfl
@[simp] theorem State.modTask_tenants (n : Nat) (f : Task → Task) (s : State) : (s.modTask n f).tenants = s.tenants := by unfold State.modTask; split <;> rfl
@[simp] theorem State.modTask_pkg (n : Nat) (f : Task → Task) (s : State) : (s.modTask n f).pkg = s.pkg := by unfold State.modTask; split <;> rfl
@[simp] theorem State.modTask_cyc (n : Nat) (f : Task → Task) (s : State) : (s.modTask n f).cyc = s.cyc := by unfold State.modTask; split <;> rfl
@[simp] theorem State.modTask_agenda (n : Nat) (f : Task → Task) (s : State) : (s.modTask n f).agenda = s.agenda := by unfold State.modTask; split <;> rfl
@[simp] theorem State.modTask_free (n : Nat) (f : Task → Task) (s : State) : (s.modTask n f).free = s.free := by unfold State.modTask; split <;> rfl

@[simp] theorem State.modOwnTask_core (f : Task → Task) (s : State) : (s.modOwnTask f).core = s.core := by unfold State.modOwnTask; split <;> simp
@[simp] theorem State.modOwnTask_others (f : Task → Task) (s : State) : (s.modOwnTask f).others = s.others := by unfold State.modOwnTask; split <;> simp
@[simp] theorem State.modOwnTask_clusters (f : Task → Task) (s : State) : (s.modOwnTask f).clusters = s.clusters := by unfold State.modOwnTask; split <;> simp
@[simp] theorem State.modOwnTask_dies (f : Task → Task) (s : State) : (s.modOwnTask f).dies = s.dies := by unfold State.modOwnTask; split <;> simp
@[simp] theorem State.modOwnTask_mem (f : Task → Task) (s : State) : (s.modOwnTask f).mem = s.mem := by unfold State.modOwnTask; split <;> simp
@[simp] theorem State.modOwnTask_ptes (f : Task → Task) (s : State) : (s.modOwnTask f).ptes = s.ptes := by unfold State.modOwnTask; split <;> simp
@[simp] theorem State.modOwnTask_procs (f : Task → Task) (s : State) : (s.modOwnTask f).procs = s.procs := by unfold State.modOwnTask; split <;> simp
@[simp] theorem State.modOwnTask_tenants (f : Task → Task) (s : State) : (s.modOwnTask f).tenants = s.tenants := by unfold State.modOwnTask; split <;> simp
@[simp] theorem State.modOwnTask_pkg (f : Task → Task) (s : State) : (s.modOwnTask f).pkg = s.pkg := by unfold State.modOwnTask; split <;> simp
@[simp] theorem State.modOwnTask_cyc (f : Task → Task) (s : State) : (s.modOwnTask f).cyc = s.cyc := by unfold State.modOwnTask; split <;> simp
@[simp] theorem State.modOwnTask_agenda (f : Task → Task) (s : State) : (s.modOwnTask f).agenda = s.agenda := by unfold State.modOwnTask; split <;> simp
@[simp] theorem State.modOwnTask_free (f : Task → Task) (s : State) : (s.modOwnTask f).free = s.free := by unfold State.modOwnTask; split <;> simp

@[simp] theorem State.writeBack_others (sel : DLine → Bool) (s : State) : (s.writeBack sel).others = s.others := rfl
@[simp] theorem State.writeBack_clusters (sel : DLine → Bool) (s : State) : (s.writeBack sel).clusters = s.clusters := rfl
@[simp] theorem State.writeBack_ptes (sel : DLine → Bool) (s : State) : (s.writeBack sel).ptes = s.ptes := rfl
@[simp] theorem State.writeBack_procs (sel : DLine → Bool) (s : State) : (s.writeBack sel).procs = s.procs := rfl
@[simp] theorem State.writeBack_tenants (sel : DLine → Bool) (s : State) : (s.writeBack sel).tenants = s.tenants := rfl
@[simp] theorem State.writeBack_tasks (sel : DLine → Bool) (s : State) : (s.writeBack sel).tasks = s.tasks := rfl
@[simp] theorem State.writeBack_pkg (sel : DLine → Bool) (s : State) : (s.writeBack sel).pkg = s.pkg := rfl
@[simp] theorem State.writeBack_cyc (sel : DLine → Bool) (s : State) : (s.writeBack sel).cyc = s.cyc := rfl
@[simp] theorem State.writeBack_agenda (sel : DLine → Bool) (s : State) : (s.writeBack sel).agenda = s.agenda := rfl
@[simp] theorem State.writeBack_free (sel : DLine → Bool) (s : State) : (s.writeBack sel).free = s.free := rfl
@[simp] theorem State.writeBack_mem (sel : DLine → Bool) (s : State) :
    (s.writeBack sel).mem = flushLines s.mem (s.core.dcache.filter (fun l => sel l && !s.lineGone l)) := rfl

/-! ### Core fields -/

@[simp] theorem Core.complete_id (len npc : Word) (c : Core) : (c.complete len npc).id = c.id := rfl
@[simp] theorem Core.complete_regs (len npc : Word) (c : Core) : (c.complete len npc).regs = c.regs := rfl
@[simp] theorem Core.complete_etag (len npc : Word) (c : Core) : (c.complete len npc).etag = c.etag := rfl
@[simp] theorem Core.complete_pc (len npc : Word) (c : Core) : (c.complete len npc).pc = (c.closeLoop len npc).1 := rfl
@[simp] theorem Core.complete_run (len npc : Word) (c : Core) : (c.complete len npc).run = c.run := rfl
@[simp] theorem Core.complete_stalled (len npc : Word) (c : Core) : (c.complete len npc).stalled = false := rfl
@[simp] theorem Core.complete_stallCyc (len npc : Word) (c : Core) : (c.complete len npc).stallCyc = c.stallCyc := rfl
@[simp] theorem Core.complete_wait (len npc : Word) (c : Core) : (c.complete len npc).wait = .none := rfl
@[simp] theorem Core.complete_task (len npc : Word) (c : Core) : (c.complete len npc).task = c.task := rfl
@[simp] theorem Core.complete_proc (len npc : Word) (c : Core) : (c.complete len npc).proc = c.proc := rfl
@[simp] theorem Core.complete_tenant (len npc : Word) (c : Core) : (c.complete len npc).tenant = c.tenant := rfl
@[simp] theorem Core.complete_tid (len npc : Word) (c : Core) : (c.complete len npc).tid = c.tid := rfl
@[simp] theorem Core.complete_icnt (len npc : Word) (c : Core) : (c.complete len npc).icnt = c.icnt + 1 := rfl
@[simp] theorem Core.complete_tvec (len npc : Word) (c : Core) : (c.complete len npc).tvec = c.tvec := rfl
@[simp] theorem Core.complete_tcause (len npc : Word) (c : Core) : (c.complete len npc).tcause = c.tcause := rfl
@[simp] theorem Core.complete_tpc (len npc : Word) (c : Core) : (c.complete len npc).tpc = c.tpc := rfl
@[simp] theorem Core.complete_tval (len npc : Word) (c : Core) : (c.complete len npc).tval = c.tval := rfl
@[simp] theorem Core.complete_tstat (len npc : Word) (c : Core) : (c.complete len npc).tstat = c.tstat := rfl
@[simp] theorem Core.complete_lcnt (len npc : Word) (c : Core) : (c.complete len npc).lcnt = (c.closeLoop len npc).2 := rfl
@[simp] theorem Core.complete_lstart (len npc : Word) (c : Core) : (c.complete len npc).lstart = c.lstart := rfl
@[simp] theorem Core.complete_lend (len npc : Word) (c : Core) : (c.complete len npc).lend = c.lend := rfl
@[simp] theorem Core.complete_ptrg (len npc : Word) (c : Core) : (c.complete len npc).ptrg = c.ptrg := rfl
@[simp] theorem Core.complete_efnc (len npc : Word) (c : Core) : (c.complete len npc).efnc = c.efnc := rfl
@[simp] theorem Core.complete_inj (len npc : Word) (c : Core) : (c.complete len npc).inj = c.inj := rfl
@[simp] theorem Core.complete_clsb (len npc : Word) (c : Core) : (c.complete len npc).clsb = c.clsb := rfl
@[simp] theorem Core.complete_clsz (len npc : Word) (c : Core) : (c.complete len npc).clsz = c.clsz := rfl
@[simp] theorem Core.complete_qreq (len npc : Word) (c : Core) : (c.complete len npc).qreq = c.qreq := rfl
@[simp] theorem Core.complete_qcyc (len npc : Word) (c : Core) : (c.complete len npc).qcyc = c.qcyc := rfl
@[simp] theorem Core.complete_qpt (len npc : Word) (c : Core) : (c.complete len npc).qpt = c.qpt := rfl
@[simp] theorem Core.complete_held (len npc : Word) (c : Core) : (c.complete len npc).held = c.held := rfl
@[simp] theorem Core.complete_act (len npc : Word) (c : Core) : (c.complete len npc).act = c.act := rfl
@[simp] theorem Core.complete_wgt (len npc : Word) (c : Core) : (c.complete len npc).wgt = c.wgt := rfl
@[simp] theorem Core.complete_acc (len npc : Word) (c : Core) : (c.complete len npc).acc = c.acc := rfl
@[simp] theorem Core.complete_icache (len npc : Word) (c : Core) : (c.complete len npc).icache = c.icache := rfl
@[simp] theorem Core.complete_dcache (len npc : Word) (c : Core) : (c.complete len npc).dcache = c.dcache := rfl
@[simp] theorem Core.complete_utlb (len npc : Word) (c : Core) : (c.complete len npc).utlb = c.utlb := rfl
@[simp] theorem Core.complete_asyncs (len npc : Word) (c : Core) : (c.complete len npc).asyncs = c.asyncs := rfl
@[simp] theorem Core.complete_faults (len npc : Word) (c : Core) : (c.complete len npc).faults = c.faults := rfl
@[simp] theorem Core.complete_fatal (len npc : Word) (c : Core) : (c.complete len npc).fatal = none := rfl
@[simp] theorem Core.complete_fab (len npc : Word) (c : Core) : (c.complete len npc).fab = c.fab := rfl
@[simp] theorem Core.complete_engines (len npc : Word) (c : Core) : (c.complete len npc).engines = c.engines := rfl
@[simp] theorem Core.complete_chans (len npc : Word) (c : Core) : (c.complete len npc).chans = c.chans := rfl
@[simp] theorem Core.complete_accepted (len npc : Word) (c : Core) : (c.complete len npc).accepted = c.accepted := rfl
@[simp] theorem Core.complete_flights (len npc : Word) (c : Core) : (c.complete len npc).flights = c.flights := rfl
@[simp] theorem Core.complete_posted (len npc : Word) (c : Core) : (c.complete len npc).posted = c.posted := rfl
@[simp] theorem Core.complete_postFails (len npc : Word) (c : Core) : (c.complete len npc).postFails = c.postFails := rfl
@[simp] theorem Core.complete_stop (len npc : Word) (c : Core) : (c.complete len npc).stop = c.stop := rfl
@[simp] theorem Core.complete_owner (len npc : Word) (c : Core) : (c.complete len npc).owner = c.owner := rfl
@[simp] theorem Core.complete_last (len npc : Word) (c : Core) : (c.complete len npc).last = c.last := rfl
@[simp] theorem Core.complete_scrub (len npc : Word) (c : Core) : (c.complete len npc).scrub = c.scrub := rfl
@[simp] theorem Core.complete_dispatched (len npc : Word) (c : Core) : (c.complete len npc).dispatched = c.dispatched := rfl

@[simp] theorem Core.trapFrame_id (cause : Nat) (async : Bool) (v r : Word) (c : Core) : (c.trapFrame cause async v r).id = c.id := rfl
@[simp] theorem Core.trapFrame_regs (cause : Nat) (async : Bool) (v r : Word) (c : Core) : (c.trapFrame cause async v r).regs = c.regs := rfl
@[simp] theorem Core.trapFrame_etag (cause : Nat) (async : Bool) (v r : Word) (c : Core) : (c.trapFrame cause async v r).etag = c.etag := rfl
@[simp] theorem Core.trapFrame_pc (cause : Nat) (async : Bool) (v r : Word) (c : Core) : (c.trapFrame cause async v r).pc = if c.tvec = 0 then c.pc else c.tvec := rfl
@[simp] theorem Core.trapFrame_run (cause : Nat) (async : Bool) (v r : Word) (c : Core) : (c.trapFrame cause async v r).run = c.run := rfl
@[simp] theorem Core.trapFrame_stalled (cause : Nat) (async : Bool) (v r : Word) (c : Core) : (c.trapFrame cause async v r).stalled = false := rfl
@[simp] theorem Core.trapFrame_stallCyc (cause : Nat) (async : Bool) (v r : Word) (c : Core) : (c.trapFrame cause async v r).stallCyc = c.stallCyc := rfl
@[simp] theorem Core.trapFrame_wait (cause : Nat) (async : Bool) (v r : Word) (c : Core) : (c.trapFrame cause async v r).wait = c.wait := rfl
@[simp] theorem Core.trapFrame_task (cause : Nat) (async : Bool) (v r : Word) (c : Core) : (c.trapFrame cause async v r).task = c.task := rfl
@[simp] theorem Core.trapFrame_proc (cause : Nat) (async : Bool) (v r : Word) (c : Core) : (c.trapFrame cause async v r).proc = c.proc := rfl
@[simp] theorem Core.trapFrame_tenant (cause : Nat) (async : Bool) (v r : Word) (c : Core) : (c.trapFrame cause async v r).tenant = c.tenant := rfl
@[simp] theorem Core.trapFrame_tid (cause : Nat) (async : Bool) (v r : Word) (c : Core) : (c.trapFrame cause async v r).tid = c.tid := rfl
@[simp] theorem Core.trapFrame_icnt (cause : Nat) (async : Bool) (v r : Word) (c : Core) : (c.trapFrame cause async v r).icnt = c.icnt := rfl
@[simp] theorem Core.trapFrame_tvec (cause : Nat) (async : Bool) (v r : Word) (c : Core) : (c.trapFrame cause async v r).tvec = c.tvec := rfl
@[simp] theorem Core.trapFrame_tcause (cause : Nat) (async : Bool) (v r : Word) (c : Core) : (c.trapFrame cause async v r).tcause = tcauseOf async cause := rfl
@[simp] theorem Core.trapFrame_tpc (cause : Nat) (async : Bool) (v r : Word) (c : Core) : (c.trapFrame cause async v r).tpc = r := rfl
@[simp] theorem Core.trapFrame_tval (cause : Nat) (async : Bool) (v r : Word) (c : Core) : (c.trapFrame cause async v r).tval = v := rfl
@[simp] theorem Core.trapFrame_tstat (cause : Nat) (async : Bool) (v r : Word) (c : Core) : (c.trapFrame cause async v r).tstat = tstatOf (c.lcnt != 0) true := rfl
@[simp] theorem Core.trapFrame_lcnt (cause : Nat) (async : Bool) (v r : Word) (c : Core) : (c.trapFrame cause async v r).lcnt = c.lcnt := rfl
@[simp] theorem Core.trapFrame_lstart (cause : Nat) (async : Bool) (v r : Word) (c : Core) : (c.trapFrame cause async v r).lstart = c.lstart := rfl
@[simp] theorem Core.trapFrame_lend (cause : Nat) (async : Bool) (v r : Word) (c : Core) : (c.trapFrame cause async v r).lend = c.lend := rfl
@[simp] theorem Core.trapFrame_ptrg (cause : Nat) (async : Bool) (v r : Word) (c : Core) : (c.trapFrame cause async v r).ptrg = c.ptrg := rfl
@[simp] theorem Core.trapFrame_efnc (cause : Nat) (async : Bool) (v r : Word) (c : Core) : (c.trapFrame cause async v r).efnc = c.efnc := rfl
@[simp] theorem Core.trapFrame_inj (cause : Nat) (async : Bool) (v r : Word) (c : Core) : (c.trapFrame cause async v r).inj = c.inj := rfl
@[simp] theorem Core.trapFrame_clsb (cause : Nat) (async : Bool) (v r : Word) (c : Core) : (c.trapFrame cause async v r).clsb = c.clsb := rfl
@[simp] theorem Core.trapFrame_clsz (cause : Nat) (async : Bool) (v r : Word) (c : Core) : (c.trapFrame cause async v r).clsz = c.clsz := rfl
@[simp] theorem Core.trapFrame_qreq (cause : Nat) (async : Bool) (v r : Word) (c : Core) : (c.trapFrame cause async v r).qreq = c.qreq := rfl
@[simp] theorem Core.trapFrame_qcyc (cause : Nat) (async : Bool) (v r : Word) (c : Core) : (c.trapFrame cause async v r).qcyc = c.qcyc := rfl
@[simp] theorem Core.trapFrame_qpt (cause : Nat) (async : Bool) (v r : Word) (c : Core) : (c.trapFrame cause async v r).qpt = c.qpt := rfl
@[simp] theorem Core.trapFrame_held (cause : Nat) (async : Bool) (v r : Word) (c : Core) : (c.trapFrame cause async v r).held = c.held := rfl
@[simp] theorem Core.trapFrame_act (cause : Nat) (async : Bool) (v r : Word) (c : Core) : (c.trapFrame cause async v r).act = c.act := rfl
@[simp] theorem Core.trapFrame_wgt (cause : Nat) (async : Bool) (v r : Word) (c : Core) : (c.trapFrame cause async v r).wgt = c.wgt := rfl
@[simp] theorem Core.trapFrame_acc (cause : Nat) (async : Bool) (v r : Word) (c : Core) : (c.trapFrame cause async v r).acc = c.acc := rfl
@[simp] theorem Core.trapFrame_icache (cause : Nat) (async : Bool) (v r : Word) (c : Core) : (c.trapFrame cause async v r).icache = c.icache := rfl
@[simp] theorem Core.trapFrame_dcache (cause : Nat) (async : Bool) (v r : Word) (c : Core) : (c.trapFrame cause async v r).dcache = c.dcache := rfl
@[simp] theorem Core.trapFrame_utlb (cause : Nat) (async : Bool) (v r : Word) (c : Core) : (c.trapFrame cause async v r).utlb = c.utlb := rfl
@[simp] theorem Core.trapFrame_asyncs (cause : Nat) (async : Bool) (v r : Word) (c : Core) : (c.trapFrame cause async v r).asyncs = c.asyncs := rfl
@[simp] theorem Core.trapFrame_faults (cause : Nat) (async : Bool) (v r : Word) (c : Core) : (c.trapFrame cause async v r).faults = c.faults := rfl
@[simp] theorem Core.trapFrame_fatal (cause : Nat) (async : Bool) (v r : Word) (c : Core) : (c.trapFrame cause async v r).fatal = none := rfl
@[simp] theorem Core.trapFrame_fab (cause : Nat) (async : Bool) (v r : Word) (c : Core) : (c.trapFrame cause async v r).fab = c.fab := rfl
@[simp] theorem Core.trapFrame_engines (cause : Nat) (async : Bool) (v r : Word) (c : Core) : (c.trapFrame cause async v r).engines = c.engines := rfl
@[simp] theorem Core.trapFrame_chans (cause : Nat) (async : Bool) (v r : Word) (c : Core) : (c.trapFrame cause async v r).chans = c.chans := rfl
@[simp] theorem Core.trapFrame_accepted (cause : Nat) (async : Bool) (v r : Word) (c : Core) : (c.trapFrame cause async v r).accepted = c.accepted := rfl
@[simp] theorem Core.trapFrame_flights (cause : Nat) (async : Bool) (v r : Word) (c : Core) : (c.trapFrame cause async v r).flights = c.flights := rfl
@[simp] theorem Core.trapFrame_posted (cause : Nat) (async : Bool) (v r : Word) (c : Core) : (c.trapFrame cause async v r).posted = c.posted := rfl
@[simp] theorem Core.trapFrame_postFails (cause : Nat) (async : Bool) (v r : Word) (c : Core) : (c.trapFrame cause async v r).postFails = c.postFails := rfl
@[simp] theorem Core.trapFrame_stop (cause : Nat) (async : Bool) (v r : Word) (c : Core) : (c.trapFrame cause async v r).stop = c.stop := rfl
@[simp] theorem Core.trapFrame_owner (cause : Nat) (async : Bool) (v r : Word) (c : Core) : (c.trapFrame cause async v r).owner = c.owner := rfl
@[simp] theorem Core.trapFrame_last (cause : Nat) (async : Bool) (v r : Word) (c : Core) : (c.trapFrame cause async v r).last = c.last := rfl
@[simp] theorem Core.trapFrame_scrub (cause : Nat) (async : Bool) (v r : Word) (c : Core) : (c.trapFrame cause async v r).scrub = c.scrub := rfl
@[simp] theorem Core.trapFrame_dispatched (cause : Nat) (async : Bool) (v r : Word) (c : Core) : (c.trapFrame cause async v r).dispatched = c.dispatched := rfl

@[simp] theorem Core.trapReturn_id (c : Core) : (c.trapReturn).id = c.id := rfl
@[simp] theorem Core.trapReturn_regs (c : Core) : (c.trapReturn).regs = c.regs := rfl
@[simp] theorem Core.trapReturn_etag (c : Core) : (c.trapReturn).etag = c.etag := rfl
@[simp] theorem Core.trapReturn_pc (c : Core) : (c.trapReturn).pc = c.tpc := rfl
@[simp] theorem Core.trapReturn_run (c : Core) : (c.trapReturn).run = c.run := rfl
@[simp] theorem Core.trapReturn_stalled (c : Core) : (c.trapReturn).stalled = false := rfl
@[simp] theorem Core.trapReturn_stallCyc (c : Core) : (c.trapReturn).stallCyc = c.stallCyc := rfl
@[simp] theorem Core.trapReturn_wait (c : Core) : (c.trapReturn).wait = c.wait := rfl
@[simp] theorem Core.trapReturn_task (c : Core) : (c.trapReturn).task = c.task := rfl
@[simp] theorem Core.trapReturn_proc (c : Core) : (c.trapReturn).proc = c.proc := rfl
@[simp] theorem Core.trapReturn_tenant (c : Core) : (c.trapReturn).tenant = c.tenant := rfl
@[simp] theorem Core.trapReturn_tid (c : Core) : (c.trapReturn).tid = c.tid := rfl
@[simp] theorem Core.trapReturn_icnt (c : Core) : (c.trapReturn).icnt = c.icnt := rfl
@[simp] theorem Core.trapReturn_tvec (c : Core) : (c.trapReturn).tvec = c.tvec := rfl
@[simp] theorem Core.trapReturn_tcause (c : Core) : (c.trapReturn).tcause = c.tcause := rfl
@[simp] theorem Core.trapReturn_tpc (c : Core) : (c.trapReturn).tpc = c.tpc := rfl
@[simp] theorem Core.trapReturn_tval (c : Core) : (c.trapReturn).tval = c.tval := rfl
@[simp] theorem Core.trapReturn_tstat (c : Core) : (c.trapReturn).tstat = tstatOf c.sla false := rfl
@[simp] theorem Core.trapReturn_lcnt (c : Core) : (c.trapReturn).lcnt = c.lcnt := rfl
@[simp] theorem Core.trapReturn_lstart (c : Core) : (c.trapReturn).lstart = c.lstart := rfl
@[simp] theorem Core.trapReturn_lend (c : Core) : (c.trapReturn).lend = c.lend := rfl
@[simp] theorem Core.trapReturn_ptrg (c : Core) : (c.trapReturn).ptrg = c.ptrg := rfl
@[simp] theorem Core.trapReturn_efnc (c : Core) : (c.trapReturn).efnc = c.efnc := rfl
@[simp] theorem Core.trapReturn_inj (c : Core) : (c.trapReturn).inj = c.inj := rfl
@[simp] theorem Core.trapReturn_clsb (c : Core) : (c.trapReturn).clsb = c.clsb := rfl
@[simp] theorem Core.trapReturn_clsz (c : Core) : (c.trapReturn).clsz = c.clsz := rfl
@[simp] theorem Core.trapReturn_qreq (c : Core) : (c.trapReturn).qreq = c.qreq := rfl
@[simp] theorem Core.trapReturn_qcyc (c : Core) : (c.trapReturn).qcyc = c.qcyc := rfl
@[simp] theorem Core.trapReturn_qpt (c : Core) : (c.trapReturn).qpt = c.qpt := rfl
@[simp] theorem Core.trapReturn_held (c : Core) : (c.trapReturn).held = c.held := rfl
@[simp] theorem Core.trapReturn_act (c : Core) : (c.trapReturn).act = c.act := rfl
@[simp] theorem Core.trapReturn_wgt (c : Core) : (c.trapReturn).wgt = c.wgt := rfl
@[simp] theorem Core.trapReturn_acc (c : Core) : (c.trapReturn).acc = c.acc := rfl
@[simp] theorem Core.trapReturn_icache (c : Core) : (c.trapReturn).icache = c.icache := rfl
@[simp] theorem Core.trapReturn_dcache (c : Core) : (c.trapReturn).dcache = c.dcache := rfl
@[simp] theorem Core.trapReturn_utlb (c : Core) : (c.trapReturn).utlb = c.utlb := rfl
@[simp] theorem Core.trapReturn_asyncs (c : Core) : (c.trapReturn).asyncs = c.asyncs := rfl
@[simp] theorem Core.trapReturn_faults (c : Core) : (c.trapReturn).faults = c.faults := rfl
@[simp] theorem Core.trapReturn_fatal (c : Core) : (c.trapReturn).fatal = c.fatal := rfl
@[simp] theorem Core.trapReturn_fab (c : Core) : (c.trapReturn).fab = c.fab := rfl
@[simp] theorem Core.trapReturn_engines (c : Core) : (c.trapReturn).engines = c.engines := rfl
@[simp] theorem Core.trapReturn_chans (c : Core) : (c.trapReturn).chans = c.chans := rfl
@[simp] theorem Core.trapReturn_accepted (c : Core) : (c.trapReturn).accepted = c.accepted := rfl
@[simp] theorem Core.trapReturn_flights (c : Core) : (c.trapReturn).flights = c.flights := rfl
@[simp] theorem Core.trapReturn_posted (c : Core) : (c.trapReturn).posted = c.posted := rfl
@[simp] theorem Core.trapReturn_postFails (c : Core) : (c.trapReturn).postFails = c.postFails := rfl
@[simp] theorem Core.trapReturn_stop (c : Core) : (c.trapReturn).stop = c.stop := rfl
@[simp] theorem Core.trapReturn_owner (c : Core) : (c.trapReturn).owner = c.owner := rfl
@[simp] theorem Core.trapReturn_last (c : Core) : (c.trapReturn).last = c.last := rfl
@[simp] theorem Core.trapReturn_scrub (c : Core) : (c.trapReturn).scrub = c.scrub := rfl
@[simp] theorem Core.trapReturn_dispatched (c : Core) : (c.trapReturn).dispatched = c.dispatched := rfl

@[simp] theorem Core.dwrite_id (n off : Nat) (bs : List Byte) (c : Core) : (c.dwrite n off bs).id = c.id := rfl
@[simp] theorem Core.dwrite_regs (n off : Nat) (bs : List Byte) (c : Core) : (c.dwrite n off bs).regs = c.regs := rfl
@[simp] theorem Core.dwrite_etag (n off : Nat) (bs : List Byte) (c : Core) : (c.dwrite n off bs).etag = c.etag := rfl
@[simp] theorem Core.dwrite_pc (n off : Nat) (bs : List Byte) (c : Core) : (c.dwrite n off bs).pc = c.pc := rfl
@[simp] theorem Core.dwrite_run (n off : Nat) (bs : List Byte) (c : Core) : (c.dwrite n off bs).run = c.run := rfl
@[simp] theorem Core.dwrite_stalled (n off : Nat) (bs : List Byte) (c : Core) : (c.dwrite n off bs).stalled = c.stalled := rfl
@[simp] theorem Core.dwrite_stallCyc (n off : Nat) (bs : List Byte) (c : Core) : (c.dwrite n off bs).stallCyc = c.stallCyc := rfl
@[simp] theorem Core.dwrite_wait (n off : Nat) (bs : List Byte) (c : Core) : (c.dwrite n off bs).wait = c.wait := rfl
@[simp] theorem Core.dwrite_task (n off : Nat) (bs : List Byte) (c : Core) : (c.dwrite n off bs).task = c.task := rfl
@[simp] theorem Core.dwrite_proc (n off : Nat) (bs : List Byte) (c : Core) : (c.dwrite n off bs).proc = c.proc := rfl
@[simp] theorem Core.dwrite_tenant (n off : Nat) (bs : List Byte) (c : Core) : (c.dwrite n off bs).tenant = c.tenant := rfl
@[simp] theorem Core.dwrite_tid (n off : Nat) (bs : List Byte) (c : Core) : (c.dwrite n off bs).tid = c.tid := rfl
@[simp] theorem Core.dwrite_icnt (n off : Nat) (bs : List Byte) (c : Core) : (c.dwrite n off bs).icnt = c.icnt := rfl
@[simp] theorem Core.dwrite_tvec (n off : Nat) (bs : List Byte) (c : Core) : (c.dwrite n off bs).tvec = c.tvec := rfl
@[simp] theorem Core.dwrite_tcause (n off : Nat) (bs : List Byte) (c : Core) : (c.dwrite n off bs).tcause = c.tcause := rfl
@[simp] theorem Core.dwrite_tpc (n off : Nat) (bs : List Byte) (c : Core) : (c.dwrite n off bs).tpc = c.tpc := rfl
@[simp] theorem Core.dwrite_tval (n off : Nat) (bs : List Byte) (c : Core) : (c.dwrite n off bs).tval = c.tval := rfl
@[simp] theorem Core.dwrite_tstat (n off : Nat) (bs : List Byte) (c : Core) : (c.dwrite n off bs).tstat = c.tstat := rfl
@[simp] theorem Core.dwrite_lcnt (n off : Nat) (bs : List Byte) (c : Core) : (c.dwrite n off bs).lcnt = c.lcnt := rfl
@[simp] theorem Core.dwrite_lstart (n off : Nat) (bs : List Byte) (c : Core) : (c.dwrite n off bs).lstart = c.lstart := rfl
@[simp] theorem Core.dwrite_lend (n off : Nat) (bs : List Byte) (c : Core) : (c.dwrite n off bs).lend = c.lend := rfl
@[simp] theorem Core.dwrite_ptrg (n off : Nat) (bs : List Byte) (c : Core) : (c.dwrite n off bs).ptrg = c.ptrg := rfl
@[simp] theorem Core.dwrite_efnc (n off : Nat) (bs : List Byte) (c : Core) : (c.dwrite n off bs).efnc = c.efnc := rfl
@[simp] theorem Core.dwrite_inj (n off : Nat) (bs : List Byte) (c : Core) : (c.dwrite n off bs).inj = c.inj := rfl
@[simp] theorem Core.dwrite_clsb (n off : Nat) (bs : List Byte) (c : Core) : (c.dwrite n off bs).clsb = c.clsb := rfl
@[simp] theorem Core.dwrite_clsz (n off : Nat) (bs : List Byte) (c : Core) : (c.dwrite n off bs).clsz = c.clsz := rfl
@[simp] theorem Core.dwrite_qreq (n off : Nat) (bs : List Byte) (c : Core) : (c.dwrite n off bs).qreq = c.qreq := rfl
@[simp] theorem Core.dwrite_qcyc (n off : Nat) (bs : List Byte) (c : Core) : (c.dwrite n off bs).qcyc = c.qcyc := rfl
@[simp] theorem Core.dwrite_qpt (n off : Nat) (bs : List Byte) (c : Core) : (c.dwrite n off bs).qpt = c.qpt := rfl
@[simp] theorem Core.dwrite_held (n off : Nat) (bs : List Byte) (c : Core) : (c.dwrite n off bs).held = c.held := rfl
@[simp] theorem Core.dwrite_act (n off : Nat) (bs : List Byte) (c : Core) : (c.dwrite n off bs).act = c.act := rfl
@[simp] theorem Core.dwrite_wgt (n off : Nat) (bs : List Byte) (c : Core) : (c.dwrite n off bs).wgt = c.wgt := rfl
@[simp] theorem Core.dwrite_acc (n off : Nat) (bs : List Byte) (c : Core) : (c.dwrite n off bs).acc = c.acc := rfl
@[simp] theorem Core.dwrite_icache (n off : Nat) (bs : List Byte) (c : Core) : (c.dwrite n off bs).icache = c.icache := rfl
@[simp] theorem Core.dwrite_utlb (n off : Nat) (bs : List Byte) (c : Core) : (c.dwrite n off bs).utlb = c.utlb := rfl
@[simp] theorem Core.dwrite_asyncs (n off : Nat) (bs : List Byte) (c : Core) : (c.dwrite n off bs).asyncs = c.asyncs := rfl
@[simp] theorem Core.dwrite_faults (n off : Nat) (bs : List Byte) (c : Core) : (c.dwrite n off bs).faults = c.faults := rfl
@[simp] theorem Core.dwrite_fatal (n off : Nat) (bs : List Byte) (c : Core) : (c.dwrite n off bs).fatal = c.fatal := rfl
@[simp] theorem Core.dwrite_fab (n off : Nat) (bs : List Byte) (c : Core) : (c.dwrite n off bs).fab = c.fab := rfl
@[simp] theorem Core.dwrite_engines (n off : Nat) (bs : List Byte) (c : Core) : (c.dwrite n off bs).engines = c.engines := rfl
@[simp] theorem Core.dwrite_chans (n off : Nat) (bs : List Byte) (c : Core) : (c.dwrite n off bs).chans = c.chans := rfl
@[simp] theorem Core.dwrite_accepted (n off : Nat) (bs : List Byte) (c : Core) : (c.dwrite n off bs).accepted = c.accepted := rfl
@[simp] theorem Core.dwrite_flights (n off : Nat) (bs : List Byte) (c : Core) : (c.dwrite n off bs).flights = c.flights := rfl
@[simp] theorem Core.dwrite_posted (n off : Nat) (bs : List Byte) (c : Core) : (c.dwrite n off bs).posted = c.posted := rfl
@[simp] theorem Core.dwrite_postFails (n off : Nat) (bs : List Byte) (c : Core) : (c.dwrite n off bs).postFails = c.postFails := rfl
@[simp] theorem Core.dwrite_stop (n off : Nat) (bs : List Byte) (c : Core) : (c.dwrite n off bs).stop = c.stop := rfl
@[simp] theorem Core.dwrite_owner (n off : Nat) (bs : List Byte) (c : Core) : (c.dwrite n off bs).owner = c.owner := rfl
@[simp] theorem Core.dwrite_last (n off : Nat) (bs : List Byte) (c : Core) : (c.dwrite n off bs).last = c.last := rfl
@[simp] theorem Core.dwrite_scrub (n off : Nat) (bs : List Byte) (c : Core) : (c.dwrite n off bs).scrub = c.scrub := rfl
@[simp] theorem Core.dwrite_dispatched (n off : Nat) (bs : List Byte) (c : Core) : (c.dwrite n off bs).dispatched = c.dispatched := rfl

@[simp] theorem State.setReg_core_id (d : Reg) (v : Word) (e : Bool) (s : State) : (s.setReg d v e).core.id = s.core.id := by unfold State.setReg; split <;> rfl
@[simp] theorem State.setReg_core_pc (d : Reg) (v : Word) (e : Bool) (s : State) : (s.setReg d v e).core.pc = s.core.pc := by unfold State.setReg; split <;> rfl
@[simp] theorem State.setReg_core_run (d : Reg) (v : Word) (e : Bool) (s : State) : (s.setReg d v e).core.run = s.core.run := by unfold State.setReg; split <;> rfl
@[simp] theorem State.setReg_core_stalled (d : Reg) (v : Word) (e : Bool) (s : State) : (s.setReg d v e).core.stalled = s.core.stalled := by unfold State.setReg; split <;> rfl
@[simp] theorem State.setReg_core_stallCyc (d : Reg) (v : Word) (e : Bool) (s : State) : (s.setReg d v e).core.stallCyc = s.core.stallCyc := by unfold State.setReg; split <;> rfl
@[simp] theorem State.setReg_core_wait (d : Reg) (v : Word) (e : Bool) (s : State) : (s.setReg d v e).core.wait = s.core.wait := by unfold State.setReg; split <;> rfl
@[simp] theorem State.setReg_core_task (d : Reg) (v : Word) (e : Bool) (s : State) : (s.setReg d v e).core.task = s.core.task := by unfold State.setReg; split <;> rfl
@[simp] theorem State.setReg_core_proc (d : Reg) (v : Word) (e : Bool) (s : State) : (s.setReg d v e).core.proc = s.core.proc := by unfold State.setReg; split <;> rfl
@[simp] theorem State.setReg_core_tenant (d : Reg) (v : Word) (e : Bool) (s : State) : (s.setReg d v e).core.tenant = s.core.tenant := by unfold State.setReg; split <;> rfl
@[simp] theorem State.setReg_core_tid (d : Reg) (v : Word) (e : Bool) (s : State) : (s.setReg d v e).core.tid = s.core.tid := by unfold State.setReg; split <;> rfl
@[simp] theorem State.setReg_core_icnt (d : Reg) (v : Word) (e : Bool) (s : State) : (s.setReg d v e).core.icnt = s.core.icnt := by unfold State.setReg; split <;> rfl
@[simp] theorem State.setReg_core_tvec (d : Reg) (v : Word) (e : Bool) (s : State) : (s.setReg d v e).core.tvec = s.core.tvec := by unfold State.setReg; split <;> rfl
@[simp] theorem State.setReg_core_tcause (d : Reg) (v : Word) (e : Bool) (s : State) : (s.setReg d v e).core.tcause = s.core.tcause := by unfold State.setReg; split <;> rfl
@[simp] theorem State.setReg_core_tpc (d : Reg) (v : Word) (e : Bool) (s : State) : (s.setReg d v e).core.tpc = s.core.tpc := by unfold State.setReg; split <;> rfl
@[simp] theorem State.setReg_core_tval (d : Reg) (v : Word) (e : Bool) (s : State) : (s.setReg d v e).core.tval = s.core.tval := by unfold State.setReg; split <;> rfl
@[simp] theorem State.setReg_core_tstat (d : Reg) (v : Word) (e : Bool) (s : State) : (s.setReg d v e).core.tstat = s.core.tstat := by unfold State.setReg; split <;> rfl
@[simp] theorem State.setReg_core_lcnt (d : Reg) (v : Word) (e : Bool) (s : State) : (s.setReg d v e).core.lcnt = s.core.lcnt := by unfold State.setReg; split <;> rfl
@[simp] theorem State.setReg_core_lstart (d : Reg) (v : Word) (e : Bool) (s : State) : (s.setReg d v e).core.lstart = s.core.lstart := by unfold State.setReg; split <;> rfl
@[simp] theorem State.setReg_core_lend (d : Reg) (v : Word) (e : Bool) (s : State) : (s.setReg d v e).core.lend = s.core.lend := by unfold State.setReg; split <;> rfl
@[simp] theorem State.setReg_core_ptrg (d : Reg) (v : Word) (e : Bool) (s : State) : (s.setReg d v e).core.ptrg = s.core.ptrg := by unfold State.setReg; split <;> rfl
@[simp] theorem State.setReg_core_efnc (d : Reg) (v : Word) (e : Bool) (s : State) : (s.setReg d v e).core.efnc = s.core.efnc := by unfold State.setReg; split <;> rfl
@[simp] theorem State.setReg_core_inj (d : Reg) (v : Word) (e : Bool) (s : State) : (s.setReg d v e).core.inj = s.core.inj := by unfold State.setReg; split <;> rfl
@[simp] theorem State.setReg_core_clsb (d : Reg) (v : Word) (e : Bool) (s : State) : (s.setReg d v e).core.clsb = s.core.clsb := by unfold State.setReg; split <;> rfl
@[simp] theorem State.setReg_core_clsz (d : Reg) (v : Word) (e : Bool) (s : State) : (s.setReg d v e).core.clsz = s.core.clsz := by unfold State.setReg; split <;> rfl
@[simp] theorem State.setReg_core_qreq (d : Reg) (v : Word) (e : Bool) (s : State) : (s.setReg d v e).core.qreq = s.core.qreq := by unfold State.setReg; split <;> rfl
@[simp] theorem State.setReg_core_qcyc (d : Reg) (v : Word) (e : Bool) (s : State) : (s.setReg d v e).core.qcyc = s.core.qcyc := by unfold State.setReg; split <;> rfl
@[simp] theorem State.setReg_core_qpt (d : Reg) (v : Word) (e : Bool) (s : State) : (s.setReg d v e).core.qpt = s.core.qpt := by unfold State.setReg; split <;> rfl
@[simp] theorem State.setReg_core_held (d : Reg) (v : Word) (e : Bool) (s : State) : (s.setReg d v e).core.held = s.core.held := by unfold State.setReg; split <;> rfl
@[simp] theorem State.setReg_core_act (d : Reg) (v : Word) (e : Bool) (s : State) : (s.setReg d v e).core.act = s.core.act := by unfold State.setReg; split <;> rfl
@[simp] theorem State.setReg_core_wgt (d : Reg) (v : Word) (e : Bool) (s : State) : (s.setReg d v e).core.wgt = s.core.wgt := by unfold State.setReg; split <;> rfl
@[simp] theorem State.setReg_core_acc (d : Reg) (v : Word) (e : Bool) (s : State) : (s.setReg d v e).core.acc = s.core.acc := by unfold State.setReg; split <;> rfl
@[simp] theorem State.setReg_core_icache (d : Reg) (v : Word) (e : Bool) (s : State) : (s.setReg d v e).core.icache = s.core.icache := by unfold State.setReg; split <;> rfl
@[simp] theorem State.setReg_core_dcache (d : Reg) (v : Word) (e : Bool) (s : State) : (s.setReg d v e).core.dcache = s.core.dcache := by unfold State.setReg; split <;> rfl
@[simp] theorem State.setReg_core_utlb (d : Reg) (v : Word) (e : Bool) (s : State) : (s.setReg d v e).core.utlb = s.core.utlb := by unfold State.setReg; split <;> rfl
@[simp] theorem State.setReg_core_asyncs (d : Reg) (v : Word) (e : Bool) (s : State) : (s.setReg d v e).core.asyncs = s.core.asyncs := by unfold State.setReg; split <;> rfl
@[simp] theorem State.setReg_core_faults (d : Reg) (v : Word) (e : Bool) (s : State) : (s.setReg d v e).core.faults = s.core.faults := by unfold State.setReg; split <;> rfl
@[simp] theorem State.setReg_core_fatal (d : Reg) (v : Word) (e : Bool) (s : State) : (s.setReg d v e).core.fatal = s.core.fatal := by unfold State.setReg; split <;> rfl
@[simp] theorem State.setReg_core_fab (d : Reg) (v : Word) (e : Bool) (s : State) : (s.setReg d v e).core.fab = s.core.fab := by unfold State.setReg; split <;> rfl
@[simp] theorem State.setReg_core_engines (d : Reg) (v : Word) (e : Bool) (s : State) : (s.setReg d v e).core.engines = s.core.engines := by unfold State.setReg; split <;> rfl
@[simp] theorem State.setReg_core_chans (d : Reg) (v : Word) (e : Bool) (s : State) : (s.setReg d v e).core.chans = s.core.chans := by unfold State.setReg; split <;> rfl
@[simp] theorem State.setReg_core_accepted (d : Reg) (v : Word) (e : Bool) (s : State) : (s.setReg d v e).core.accepted = s.core.accepted := by unfold State.setReg; split <;> rfl
@[simp] theorem State.setReg_core_flights (d : Reg) (v : Word) (e : Bool) (s : State) : (s.setReg d v e).core.flights = s.core.flights := by unfold State.setReg; split <;> rfl
@[simp] theorem State.setReg_core_posted (d : Reg) (v : Word) (e : Bool) (s : State) : (s.setReg d v e).core.posted = s.core.posted := by unfold State.setReg; split <;> rfl
@[simp] theorem State.setReg_core_postFails (d : Reg) (v : Word) (e : Bool) (s : State) : (s.setReg d v e).core.postFails = s.core.postFails := by unfold State.setReg; split <;> rfl
@[simp] theorem State.setReg_core_stop (d : Reg) (v : Word) (e : Bool) (s : State) : (s.setReg d v e).core.stop = s.core.stop := by unfold State.setReg; split <;> rfl
@[simp] theorem State.setReg_core_owner (d : Reg) (v : Word) (e : Bool) (s : State) : (s.setReg d v e).core.owner = s.core.owner := by unfold State.setReg; split <;> rfl
@[simp] theorem State.setReg_core_last (d : Reg) (v : Word) (e : Bool) (s : State) : (s.setReg d v e).core.last = s.core.last := by unfold State.setReg; split <;> rfl
@[simp] theorem State.setReg_core_scrub (d : Reg) (v : Word) (e : Bool) (s : State) : (s.setReg d v e).core.scrub = s.core.scrub := by unfold State.setReg; split <;> rfl
@[simp] theorem State.setReg_core_dispatched (d : Reg) (v : Word) (e : Bool) (s : State) : (s.setReg d v e).core.dispatched = s.core.dispatched := by unfold State.setReg; split <;> rfl

@[simp] theorem State.writeBack_core_id (sel : DLine → Bool) (s : State) : (s.writeBack sel).core.id = s.core.id := rfl
@[simp] theorem State.writeBack_core_regs (sel : DLine → Bool) (s : State) : (s.writeBack sel).core.regs = s.core.regs := rfl
@[simp] theorem State.writeBack_core_etag (sel : DLine → Bool) (s : State) : (s.writeBack sel).core.etag = s.core.etag := rfl
@[simp] theorem State.writeBack_core_pc (sel : DLine → Bool) (s : State) : (s.writeBack sel).core.pc = s.core.pc := rfl
@[simp] theorem State.writeBack_core_run (sel : DLine → Bool) (s : State) : (s.writeBack sel).core.run = s.core.run := rfl
@[simp] theorem State.writeBack_core_stalled (sel : DLine → Bool) (s : State) : (s.writeBack sel).core.stalled = s.core.stalled := rfl
@[simp] theorem State.writeBack_core_stallCyc (sel : DLine → Bool) (s : State) : (s.writeBack sel).core.stallCyc = s.core.stallCyc := rfl
@[simp] theorem State.writeBack_core_wait (sel : DLine → Bool) (s : State) : (s.writeBack sel).core.wait = s.core.wait := rfl
@[simp] theorem State.writeBack_core_task (sel : DLine → Bool) (s : State) : (s.writeBack sel).core.task = s.core.task := rfl
@[simp] theorem State.writeBack_core_proc (sel : DLine → Bool) (s : State) : (s.writeBack sel).core.proc = s.core.proc := rfl
@[simp] theorem State.writeBack_core_tenant (sel : DLine → Bool) (s : State) : (s.writeBack sel).core.tenant = s.core.tenant := rfl
@[simp] theorem State.writeBack_core_tid (sel : DLine → Bool) (s : State) : (s.writeBack sel).core.tid = s.core.tid := rfl
@[simp] theorem State.writeBack_core_icnt (sel : DLine → Bool) (s : State) : (s.writeBack sel).core.icnt = s.core.icnt := rfl
@[simp] theorem State.writeBack_core_tvec (sel : DLine → Bool) (s : State) : (s.writeBack sel).core.tvec = s.core.tvec := rfl
@[simp] theorem State.writeBack_core_tcause (sel : DLine → Bool) (s : State) : (s.writeBack sel).core.tcause = s.core.tcause := rfl
@[simp] theorem State.writeBack_core_tpc (sel : DLine → Bool) (s : State) : (s.writeBack sel).core.tpc = s.core.tpc := rfl
@[simp] theorem State.writeBack_core_tval (sel : DLine → Bool) (s : State) : (s.writeBack sel).core.tval = s.core.tval := rfl
@[simp] theorem State.writeBack_core_tstat (sel : DLine → Bool) (s : State) : (s.writeBack sel).core.tstat = s.core.tstat := rfl
@[simp] theorem State.writeBack_core_lcnt (sel : DLine → Bool) (s : State) : (s.writeBack sel).core.lcnt = s.core.lcnt := rfl
@[simp] theorem State.writeBack_core_lstart (sel : DLine → Bool) (s : State) : (s.writeBack sel).core.lstart = s.core.lstart := rfl
@[simp] theorem State.writeBack_core_lend (sel : DLine → Bool) (s : State) : (s.writeBack sel).core.lend = s.core.lend := rfl
@[simp] theorem State.writeBack_core_ptrg (sel : DLine → Bool) (s : State) : (s.writeBack sel).core.ptrg = s.core.ptrg := rfl
@[simp] theorem State.writeBack_core_efnc (sel : DLine → Bool) (s : State) : (s.writeBack sel).core.efnc = s.core.efnc := rfl
@[simp] theorem State.writeBack_core_inj (sel : DLine → Bool) (s : State) : (s.writeBack sel).core.inj = s.core.inj := rfl
@[simp] theorem State.writeBack_core_clsb (sel : DLine → Bool) (s : State) : (s.writeBack sel).core.clsb = s.core.clsb := rfl
@[simp] theorem State.writeBack_core_clsz (sel : DLine → Bool) (s : State) : (s.writeBack sel).core.clsz = s.core.clsz := rfl
@[simp] theorem State.writeBack_core_qreq (sel : DLine → Bool) (s : State) : (s.writeBack sel).core.qreq = s.core.qreq := rfl
@[simp] theorem State.writeBack_core_qcyc (sel : DLine → Bool) (s : State) : (s.writeBack sel).core.qcyc = s.core.qcyc := rfl
@[simp] theorem State.writeBack_core_qpt (sel : DLine → Bool) (s : State) : (s.writeBack sel).core.qpt = s.core.qpt := rfl
@[simp] theorem State.writeBack_core_held (sel : DLine → Bool) (s : State) : (s.writeBack sel).core.held = s.core.held := rfl
@[simp] theorem State.writeBack_core_act (sel : DLine → Bool) (s : State) : (s.writeBack sel).core.act = s.core.act := rfl
@[simp] theorem State.writeBack_core_wgt (sel : DLine → Bool) (s : State) : (s.writeBack sel).core.wgt = s.core.wgt := rfl
@[simp] theorem State.writeBack_core_acc (sel : DLine → Bool) (s : State) : (s.writeBack sel).core.acc = s.core.acc := rfl
@[simp] theorem State.writeBack_core_icache (sel : DLine → Bool) (s : State) : (s.writeBack sel).core.icache = s.core.icache := rfl
@[simp] theorem State.writeBack_core_utlb (sel : DLine → Bool) (s : State) : (s.writeBack sel).core.utlb = s.core.utlb := rfl
@[simp] theorem State.writeBack_core_asyncs (sel : DLine → Bool) (s : State) : (s.writeBack sel).core.asyncs = s.core.asyncs := rfl
@[simp] theorem State.writeBack_core_faults (sel : DLine → Bool) (s : State) : (s.writeBack sel).core.faults = s.core.faults := rfl
@[simp] theorem State.writeBack_core_fatal (sel : DLine → Bool) (s : State) : (s.writeBack sel).core.fatal = s.core.fatal := rfl
@[simp] theorem State.writeBack_core_fab (sel : DLine → Bool) (s : State) : (s.writeBack sel).core.fab = s.core.fab := rfl
@[simp] theorem State.writeBack_core_engines (sel : DLine → Bool) (s : State) : (s.writeBack sel).core.engines = s.core.engines := rfl
@[simp] theorem State.writeBack_core_chans (sel : DLine → Bool) (s : State) : (s.writeBack sel).core.chans = s.core.chans := rfl
@[simp] theorem State.writeBack_core_accepted (sel : DLine → Bool) (s : State) : (s.writeBack sel).core.accepted = s.core.accepted := rfl
@[simp] theorem State.writeBack_core_flights (sel : DLine → Bool) (s : State) : (s.writeBack sel).core.flights = s.core.flights := rfl
@[simp] theorem State.writeBack_core_posted (sel : DLine → Bool) (s : State) : (s.writeBack sel).core.posted = s.core.posted := rfl
@[simp] theorem State.writeBack_core_postFails (sel : DLine → Bool) (s : State) : (s.writeBack sel).core.postFails = s.core.postFails := rfl
@[simp] theorem State.writeBack_core_stop (sel : DLine → Bool) (s : State) : (s.writeBack sel).core.stop = s.core.stop := rfl
@[simp] theorem State.writeBack_core_owner (sel : DLine → Bool) (s : State) : (s.writeBack sel).core.owner = s.core.owner := rfl
@[simp] theorem State.writeBack_core_last (sel : DLine → Bool) (s : State) : (s.writeBack sel).core.last = s.core.last := rfl
@[simp] theorem State.writeBack_core_scrub (sel : DLine → Bool) (s : State) : (s.writeBack sel).core.scrub = s.core.scrub := rfl
@[simp] theorem State.writeBack_core_dispatched (sel : DLine → Bool) (s : State) : (s.writeBack sel).core.dispatched = s.core.dispatched := rfl

@[simp] theorem State.openRow_core (pa : Nat) (s : State) : (s.openRow pa).core = s.core := rfl
@[simp] theorem State.openRow_others (pa : Nat) (s : State) : (s.openRow pa).others = s.others := rfl
@[simp] theorem State.openRow_clusters (pa : Nat) (s : State) : (s.openRow pa).clusters = s.clusters := rfl
@[simp] theorem State.openRow_dies (pa : Nat) (s : State) : (s.openRow pa).dies = useRowAt s.dies pa := rfl
@[simp] theorem State.openRow_mem (pa : Nat) (s : State) : (s.openRow pa).mem = s.mem := rfl
@[simp] theorem State.openRow_ptes (pa : Nat) (s : State) : (s.openRow pa).ptes = s.ptes := rfl
@[simp] theorem State.openRow_procs (pa : Nat) (s : State) : (s.openRow pa).procs = s.procs := rfl
@[simp] theorem State.openRow_tenants (pa : Nat) (s : State) : (s.openRow pa).tenants = s.tenants := rfl
@[simp] theorem State.openRow_tasks (pa : Nat) (s : State) : (s.openRow pa).tasks = s.tasks := rfl
@[simp] theorem State.openRow_pkg (pa : Nat) (s : State) : (s.openRow pa).pkg = s.pkg := rfl
@[simp] theorem State.openRow_cyc (pa : Nat) (s : State) : (s.openRow pa).cyc = s.cyc := rfl
@[simp] theorem State.openRow_agenda (pa : Nat) (s : State) : (s.openRow pa).agenda = s.agenda := rfl
@[simp] theorem State.openRow_free (pa : Nat) (s : State) : (s.openRow pa).free = s.free := rfl

@[simp] theorem State.openRows_core (pa n : Nat) (s : State) : (s.openRows pa n).core = s.core := rfl
@[simp] theorem State.openRows_others (pa n : Nat) (s : State) : (s.openRows pa n).others = s.others := rfl
@[simp] theorem State.openRows_clusters (pa n : Nat) (s : State) : (s.openRows pa n).clusters = s.clusters := rfl
@[simp] theorem State.openRows_dies (pa n : Nat) (s : State) : (s.openRows pa n).dies = (List.range ((n + 1023) / 1024)).foldl (fun d k => useRowAt d (pa + 1024 * k)) s.dies := rfl
@[simp] theorem State.openRows_mem (pa n : Nat) (s : State) : (s.openRows pa n).mem = s.mem := rfl
@[simp] theorem State.openRows_ptes (pa n : Nat) (s : State) : (s.openRows pa n).ptes = s.ptes := rfl
@[simp] theorem State.openRows_procs (pa n : Nat) (s : State) : (s.openRows pa n).procs = s.procs := rfl
@[simp] theorem State.openRows_tenants (pa n : Nat) (s : State) : (s.openRows pa n).tenants = s.tenants := rfl
@[simp] theorem State.openRows_tasks (pa n : Nat) (s : State) : (s.openRows pa n).tasks = s.tasks := rfl
@[simp] theorem State.openRows_pkg (pa n : Nat) (s : State) : (s.openRows pa n).pkg = s.pkg := rfl
@[simp] theorem State.openRows_cyc (pa n : Nat) (s : State) : (s.openRows pa n).cyc = s.cyc := rfl
@[simp] theorem State.openRows_agenda (pa n : Nat) (s : State) : (s.openRows pa n).agenda = s.agenda := rfl
@[simp] theorem State.openRows_free (pa n : Nat) (s : State) : (s.openRows pa n).free = s.free := rfl

@[simp] theorem State.markUse_core (e : TlbEntry) (w : Bool) (s : State) : (s.markUse e w).core = s.core := rfl
@[simp] theorem State.markUse_others (e : TlbEntry) (w : Bool) (s : State) : (s.markUse e w).others = s.others := rfl
@[simp] theorem State.markUse_clusters (e : TlbEntry) (w : Bool) (s : State) : (s.markUse e w).clusters = s.clusters := rfl
@[simp] theorem State.markUse_dies (e : TlbEntry) (w : Bool) (s : State) : (s.markUse e w).dies = s.dies := rfl
@[simp] theorem State.markUse_mem (e : TlbEntry) (w : Bool) (s : State) : (s.markUse e w).mem = s.mem := rfl
@[simp] theorem State.markUse_ptes (e : TlbEntry) (w : Bool) (s : State) : (s.markUse e w).ptes = Map.put 0 s.ptes (e.ptePa / 8) (if w then pteSetD (pteSetA (s.pteAt e.ptePa)) else pteSetA (s.pteAt e.ptePa)) := rfl
@[simp] theorem State.markUse_procs (e : TlbEntry) (w : Bool) (s : State) : (s.markUse e w).procs = s.procs := rfl
@[simp] theorem State.markUse_tenants (e : TlbEntry) (w : Bool) (s : State) : (s.markUse e w).tenants = s.tenants := rfl
@[simp] theorem State.markUse_tasks (e : TlbEntry) (w : Bool) (s : State) : (s.markUse e w).tasks = s.tasks := rfl
@[simp] theorem State.markUse_pkg (e : TlbEntry) (w : Bool) (s : State) : (s.markUse e w).pkg = s.pkg := rfl
@[simp] theorem State.markUse_cyc (e : TlbEntry) (w : Bool) (s : State) : (s.markUse e w).cyc = s.cyc := rfl
@[simp] theorem State.markUse_agenda (e : TlbEntry) (w : Bool) (s : State) : (s.markUse e w).agenda = s.agenda := rfl
@[simp] theorem State.markUse_free (e : TlbEntry) (w : Bool) (s : State) : (s.markUse e w).free = s.free := rfl

@[simp] theorem State.fetchData_core (n : Nat) (key : BitVec 12) (s : State) : (s.fetchData n key).core = { s.core with dcache := { line := n, key := key, dirty := 0, bytes := s.memBytes (64 * n) 64 } :: s.core.dcache } := rfl
@[simp] theorem State.fetchData_others (n : Nat) (key : BitVec 12) (s : State) : (s.fetchData n key).others = s.others := rfl
@[simp] theorem State.fetchData_clusters (n : Nat) (key : BitVec 12) (s : State) : (s.fetchData n key).clusters = s.clusters := rfl
@[simp] theorem State.fetchData_dies (n : Nat) (key : BitVec 12) (s : State) : (s.fetchData n key).dies = useRowAt s.dies (64 * n) := rfl
@[simp] theorem State.fetchData_mem (n : Nat) (key : BitVec 12) (s : State) : (s.fetchData n key).mem = s.mem := rfl
@[simp] theorem State.fetchData_ptes (n : Nat) (key : BitVec 12) (s : State) : (s.fetchData n key).ptes = s.ptes := rfl
@[simp] theorem State.fetchData_procs (n : Nat) (key : BitVec 12) (s : State) : (s.fetchData n key).procs = s.procs := rfl
@[simp] theorem State.fetchData_tenants (n : Nat) (key : BitVec 12) (s : State) : (s.fetchData n key).tenants = s.tenants := rfl
@[simp] theorem State.fetchData_tasks (n : Nat) (key : BitVec 12) (s : State) : (s.fetchData n key).tasks = s.tasks := rfl
@[simp] theorem State.fetchData_pkg (n : Nat) (key : BitVec 12) (s : State) : (s.fetchData n key).pkg = s.pkg := rfl
@[simp] theorem State.fetchData_cyc (n : Nat) (key : BitVec 12) (s : State) : (s.fetchData n key).cyc = s.cyc := rfl
@[simp] theorem State.fetchData_agenda (n : Nat) (key : BitVec 12) (s : State) : (s.fetchData n key).agenda = s.agenda := rfl
@[simp] theorem State.fetchData_free (n : Nat) (key : BitVec 12) (s : State) : (s.fetchData n key).free = s.free := rfl

end Sys2Proof.Machine
end

