-- ==== Sys2Proof/Laws/Memory.lean ====
section
/-! SUPPORT. Memory: a byte read after a store, the canonical form, which every operation that writes DRAM keeps, and hasps at their
homes. -/

namespace Sys2Proof.Machine

/-! ### Reading after writing -/

/-- What bytes hold after a range was written: the bytes of the range inside it, what stood there before outside. -/
theorem get_putBytes (m : Map Byte) (pa : Nat) (bs : List Byte) (x : Nat) :
    Map.get 0 (putBytes m pa bs) x = if pa ≤ x ∧ x < pa + bs.length then bs.getD (x - pa) 0 else Map.get 0 m x := by
  induction bs generalizing m pa with
  | nil => rw [if_neg (by simp only [List.length_nil]; omega)]; rfl
  | cons b t ih =>
    rw [putBytes, ih, Map.get_put]
    by_cases h : x = pa
    · subst h
      rw [if_neg (by omega), if_pos rfl, if_pos ⟨Nat.le_refl _, by simp⟩]
      simp
    · by_cases h2 : pa + 1 ≤ x ∧ x < pa + 1 + t.length
      · rw [if_pos h2, if_pos ⟨by omega, by simp; omega⟩, show x - pa = (x - (pa + 1)) + 1 by omega]
        simp
      · rw [if_neg h2, if_neg h, if_neg (by simp; omega)]

theorem State.memByte_setMem (pa : Nat) (bs : List Byte) (s : State) (x : Nat) :
    (s.setMem pa bs).memByte x = if pa ≤ x ∧ x < pa + bs.length then bs.getD (x - pa) 0 else s.memByte x := get_putBytes ..

@[simp] theorem State.length_memBytes (s : State) (pa n : Nat) : (s.memBytes pa n).length = n := by
  induction n generalizing pa with
  | zero => rfl
  | succ n ih => simp [State.memBytes, ih]

/-- A byte of a range that is read. -/
theorem State.getD_memBytes (s : State) (pa n k : Nat) (h : k < n) : (s.memBytes pa n).getD k 0 = s.memByte (pa + k) := by
  induction n generalizing pa k with
  | zero => omega
  | succ n ih =>
    cases k with
    | zero => simp [State.memBytes]
    | succ k =>
      simp only [State.memBytes, List.getD_cons_succ]
      rw [ih (pa + 1) k (by omega)]
      congr 1; omega

/-- Bytes that a store does not touch read as before. -/
theorem State.memBytes_congr {s t : State} {pa n : Nat} (h : ∀ k, k < n → t.memByte (pa + k) = s.memByte (pa + k)) :
    t.memBytes pa n = s.memBytes pa n := by
  induction n generalizing pa with
  | zero => rfl
  | succ n ih =>
    simp only [State.memBytes]
    rw [show t.memByte pa = s.memByte pa from h 0 (by omega), ih fun k hk => ?_]
    have := h (k + 1) (by omega)
    rwa [show pa + (k + 1) = pa + 1 + k by omega] at this

theorem State.memBytes_setMem_self (pa : Nat) (bs : List Byte) (s : State) : (s.setMem pa bs).memBytes pa bs.length = bs := by
  refine List.ext_getElem (by simp) fun k h1 h2 => ?_
  have := State.getD_memBytes (s.setMem pa bs) pa bs.length k h2
  rw [State.memByte_setMem, if_pos ⟨by omega, by omega⟩, show pa + k - pa = k by omega] at this
  simpa [List.getD_eq_getElem?_getD, h1, h2] using this

/-- The little-endian bytes of a number. -/
@[simp] theorem length_leBytes (n v : Nat) : (leBytes n v).length = n := by
  induction n generalizing v with
  | zero => rfl
  | succ n ih => simp [leBytes, ih]

theorem leValue_leBytes (n v : Nat) : leValue (leBytes n v) = v % 256 ^ n := by
  induction n generalizing v with
  | zero => simp [leBytes, leValue, Nat.mod_one]
  | succ n ih =>
    simp only [leBytes, leValue, ih, BitVec.toNat_ofNat]
    rw [show v % 2 ^ 8 = v % 256 from rfl, Nat.pow_add_one', Nat.mod_mul]

/-! ### The canonical form -/

theorem wf_putBytes {m : Map Byte} (pa : Nat) (bs : List Byte) (h : Memory.wf m = true) : Memory.wf (putBytes m pa bs) = true := by
  induction bs generalizing m pa with
  | nil => exact h
  | cons b t ih => exact ih _ (Map.wf_put pa b h)

theorem wf_flushBytes {m : Map Byte} (pa mask : Nat) (bs : List Byte) (h : Memory.wf m = true) : Memory.wf (flushBytes m pa mask bs) = true := by
  induction bs generalizing m pa mask with
  | nil => exact h
  | cons b t ih =>
    refine ih _ _ ?_
    split
    · exact Map.wf_put pa b h
    · exact h

theorem wf_flushLines {m : Map Byte} (ls : List DLine) (h : Memory.wf m = true) : Memory.wf (flushLines m ls) = true := by
  induction ls generalizing m with
  | nil => exact h
  | cons l t ih => exact ih (wf_flushBytes _ _ _ h)

theorem wf_moveBytes {m : Map Byte} (old new size : Nat) (h : Memory.wf m = true) : Memory.wf (moveBytes old new size m) = true := by
  have aux : ∀ (l r : Map Byte), (∀ e ∈ l, e.2 ≠ 0) → Memory.wf r = true →
      Memory.wf (l.foldl (fun r e => Map.set r (new + (e.1 - old)) e.2) r) = true := by
    intro l
    induction l with
    | nil => exact fun _ _ hr => hr
    | cons e t ih => exact fun r hl hr => ih _ (fun x hx => hl x (List.mem_cons_of_mem _ hx)) (Map.wf_set (hl e List.mem_cons_self) hr)
  exact aux _ _ (fun e he => Map.ne_default_of_mem h (List.mem_filter.mp he).1) (Map.wf_filter _ h)

theorem State.memWf_reset : State.reset.memWf = true := rfl
theorem State.memWf_setMem {s : State} (pa : Nat) (bs : List Byte) (h : s.memWf = true) : (s.setMem pa bs).memWf = true := wf_putBytes _ _ h
theorem State.memWf_writeBack {s : State} (sel : DLine → Bool) (h : s.memWf = true) : (s.writeBack sel).memWf = true := wf_flushLines _ h
theorem State.memWf_writeBackAll {s : State} (h : s.memWf = true) : s.writeBackAll.memWf = true := wf_flushLines _ h
theorem State.memWf_evictFrame {s : State} (frame size : Nat) (h : s.memWf = true) : (s.evictFrame frame size).memWf = true := wf_flushLines _ h
theorem State.memWf_clearFrame {s : State} (frame size : Nat) (h : s.memWf = true) : (s.clearFrame frame size).memWf = true :=
  Map.wf_filter _ h
theorem State.memWf_evictLine {s : State} (n : Nat) (h : s.memWf = true) : (s.evictLine n).memWf = true := wf_flushLines _ h

/-- The registrations of a moved page change the dies alone (R256). -/
theorem State.moveRegs_frame (old new size : Nat) (s : State) : s.moveRegs old new size = { s with dies := (s.moveRegs old new size).dies } := by
  have fold : ∀ (g : State → Registration → State), (∀ t r, g t r = { t with dies := (g t r).dies }) →
      ∀ (l : List Registration) (t : State), l.foldl g t = { t with dies := (l.foldl g t).dies } := by
    intro g hg l
    induction l with
    | nil => exact fun t => rfl
    | cons r l ih =>
      intro t
      rw [List.foldl_cons, ih (g t r), hg t r]
  have place : ∀ (k : Nat) (t : State) (r : Registration),
      t.placeEntry k (regEntry r.task) = { t with dies := (t.placeEntry k (regEntry r.task)).dies } := by
    intro k t r
    unfold State.placeEntry
    split <;> rfl
  unfold State.moveRegs
  dsimp only
  rw [fold _ (fun t r => place (paStack new) t r), fold (fun u r => u.freeEntry (paStack old) (regEntry r.task)) (fun t r => rfl)]
  rfl

theorem State.memWf_movePage {s : State} (old new size : Nat) (h : s.memWf = true) : (s.movePage old new size).memWf = true := by
  unfold State.movePage
  dsimp only
  rw [State.moveRegs_frame]
  exact wf_moveBytes _ _ _ (wf_flushLines _ h)

/-- The canonical form depends on DRAM alone. -/
theorem State.memWf_congr {s t : State} (h : t.mem = s.mem) : t.memWf = s.memWf := by simp [State.memWf, h]

/-- A hasp's home writes DRAM in canonical form, or a cluster store. -/
theorem State.memWf_hidWrite {s : State} (hid : Nat) (bs : List Byte) (h : s.memWf = true) : (s.hidWrite hid bs).memWf = true := by
  unfold State.hidWrite
  split
  · exact State.memWf_setMem _ _ h
  · exact h
theorem State.memWf_setHasp {s : State} (hid : Nat) (v : Hasp) (h : s.memWf = true) : (s.setHasp hid v).memWf = true :=
  State.memWf_hidWrite _ _ h

end Sys2Proof.Machine
end

