-- ==== Sys2Proof/Laws/Hasps.lean ====
section
/-! SUPPORT. A hasp written at its home reads back (R250, R251). -/

namespace Sys2Proof.Machine

/-- The fields fit their places in the 64 bytes. -/
structure Hasp.Fits (v : Hasp) : Prop where
  mode : v.mode < 8
  tenant : v.tenant < 64
  wkind : v.wkind < 4
  p : v.p < 2 ^ 32
  q : v.q < 2 ^ 32
  relseq : v.relseq < 2 ^ 32
  wtask : v.wtask < 2 ^ 32
  waiters : v.waiters < 2 ^ 32
  zeros : v.zeros = true

@[simp] theorem Hasp.length_bytes (v : Hasp) : v.bytes.length = 64 := by simp [Hasp.bytes]

/-- A field of the 64 bytes, cut out of parts that are joined. -/
theorem leValue_replicate_zero (n : Nat) : leValue (List.replicate n 0) = 0 := by
  induction n with
  | zero => rfl
  | succ n ih => rw [List.replicate_succ, leValue, ih]; rfl

/-- Reading the bytes of fields that fit gives the fields. -/
theorem haspOf_bytes (v : Hasp) (h : v.Fits) : haspOf v.bytes = v := by
  obtain ⟨hm, ht, hw, hp, hq, hr, hk, hn, hz⟩ := h
  obtain ⟨mode, phase, ovr, lost, init, key, tenant, wkind, p, q, n, relseq, wtask, waiters, zeros⟩ := v
  simp only at hm ht hw hp hq hr hk hn hz
  subst hz
  have cut : ∀ (a b c : List Byte) (o k : Nat), a.length = o → b.length = k → ((a ++ (b ++ c)).drop o).take k = b := by
    intro a b c o k ho hk; subst ho; subst hk; simp
  have key' : key.toNat < 4096 := key.isLt
  generalize hh : (mode + 16 * phase.toNat + 32 * ovr.toNat + 64 * lost.toNat + 128 * init.toNat + 256 * key.toNat + 2 ^ 20 * tenant) = hdr
  have hb : hdr < 2 ^ 26 := by
    have := Bool.toNat_le phase; have := Bool.toNat_le ovr; have := Bool.toNat_le lost; have := Bool.toNat_le init
    omega
  have e0 := cut [] (leBytes 4 hdr) (leBytes 4 wkind ++ leBytes 4 p ++ leBytes 4 q ++ leBytes 8 n.toNat ++ leBytes 4 relseq ++ leBytes 4 wtask ++
    leBytes 4 waiters ++ List.replicate 28 0) 0 4 rfl (by simp)
  have e4 := cut (leBytes 4 hdr) (leBytes 4 wkind) (leBytes 4 p ++ leBytes 4 q ++ leBytes 8 n.toNat ++ leBytes 4 relseq ++ leBytes 4 wtask ++
    leBytes 4 waiters ++ List.replicate 28 0) 4 4 (by simp) (by simp)
  have e8 := cut (leBytes 4 hdr ++ leBytes 4 wkind) (leBytes 4 p) (leBytes 4 q ++ leBytes 8 n.toNat ++ leBytes 4 relseq ++ leBytes 4 wtask ++
    leBytes 4 waiters ++ List.replicate 28 0) 8 4 (by simp) (by simp)
  have e12 := cut (leBytes 4 hdr ++ leBytes 4 wkind ++ leBytes 4 p) (leBytes 4 q) (leBytes 8 n.toNat ++ leBytes 4 relseq ++ leBytes 4 wtask ++
    leBytes 4 waiters ++ List.replicate 28 0) 12 4 (by simp) (by simp)
  have e16 := cut (leBytes 4 hdr ++ leBytes 4 wkind ++ leBytes 4 p ++ leBytes 4 q) (leBytes 8 n.toNat) (leBytes 4 relseq ++ leBytes 4 wtask ++
    leBytes 4 waiters ++ List.replicate 28 0) 16 8 (by simp) (by simp)
  have e24 := cut (leBytes 4 hdr ++ leBytes 4 wkind ++ leBytes 4 p ++ leBytes 4 q ++ leBytes 8 n.toNat) (leBytes 4 relseq) (leBytes 4 wtask ++
    leBytes 4 waiters ++ List.replicate 28 0) 24 4 (by simp) (by simp)
  have e28 := cut (leBytes 4 hdr ++ leBytes 4 wkind ++ leBytes 4 p ++ leBytes 4 q ++ leBytes 8 n.toNat ++ leBytes 4 relseq) (leBytes 4 wtask)
    (leBytes 4 waiters ++ List.replicate 28 0) 28 4 (by simp) (by simp)
  have e32 := cut (leBytes 4 hdr ++ leBytes 4 wkind ++ leBytes 4 p ++ leBytes 4 q ++ leBytes 8 n.toNat ++ leBytes 4 relseq ++ leBytes 4 wtask)
    (leBytes 4 waiters) (List.replicate 28 0) 32 4 (by simp) (by simp)
  have e36 := cut (leBytes 4 hdr ++ leBytes 4 wkind ++ leBytes 4 p ++ leBytes 4 q ++ leBytes 8 n.toNat ++ leBytes 4 relseq ++ leBytes 4 wtask ++
    leBytes 4 waiters) (List.replicate 28 0) [] 36 28 (by simp) (by simp)
  simp only [List.append_assoc, List.append_nil, List.nil_append] at e0 e4 e8 e12 e16 e24 e28 e32 e36
  have hn64 : n.toNat < 256 ^ 8 := n.isLt
  simp only [haspOf, Hasp.bytes, hh, List.append_assoc, e0, e4, e8, e12, e16, e24, e28, e32, e36, leValue_leBytes, leValue_replicate_zero]
  have a0 : hdr % 256 ^ 4 = hdr := Nat.mod_eq_of_lt (by omega)
  have a1 : wkind % 256 ^ 4 = wkind := Nat.mod_eq_of_lt (by omega)
  have a2 : p % 256 ^ 4 = p := Nat.mod_eq_of_lt (by omega)
  have a3 : q % 256 ^ 4 = q := Nat.mod_eq_of_lt (by omega)
  have a4 : relseq % 256 ^ 4 = relseq := Nat.mod_eq_of_lt (by omega)
  have a5 : wtask % 256 ^ 4 = wtask := Nat.mod_eq_of_lt (by omega)
  have a6 : waiters % 256 ^ 4 = waiters := Nat.mod_eq_of_lt (by omega)
  rw [a0, a1, a2, a3, a4, a5, a6, Nat.mod_eq_of_lt hn64]
  have bit : ∀ (b : Bool) (m : Nat), m = b.toNat → (m == 1) = b := by intro b m h; subst h; cases b <;> rfl
  have h1 := Bool.toNat_le phase
  have h2 := Bool.toNat_le ovr
  have h3 := Bool.toNat_le lost
  have h4 := Bool.toNat_le init
  congr 1
  · omega
  · exact bit _ _ (by omega)
  · exact bit _ _ (by omega)
  · exact bit _ _ (by omega)
  · exact bit _ _ (by omega)
  · apply BitVec.eq_of_toNat_eq; simp only [BitVec.toNat_ofNat]; omega
  · omega
  · omega
  · simp
  · simp only [Bool.and_eq_true, beq_iff_eq]; refine ⟨⟨⟨?_, ?_⟩, ?_⟩, trivial⟩ <;> omega

/-! ### At the home -/

@[simp] theorem State.length_hidBytes (s : State) (h n : Nat) : (s.hidBytes h n).length = n := by
  induction n generalizing h with
  | zero => rfl
  | succ n ih => simp [State.hidBytes, ih]

theorem State.getD_hidBytes (s : State) (h n k : Nat) (hk : k < n) : (s.hidBytes h n).getD k 0 = s.hidByte (h + k) := by
  induction n generalizing h k with
  | zero => omega
  | succ n ih =>
    cases k with
    | zero => simp [State.hidBytes]
    | succ k =>
      simp only [State.hidBytes, List.getD_cons_succ]
      rw [ih (h + 1) k (by omega)]
      congr 1; omega

/-- A byte of a hasp that was written. -/
theorem State.hidByte_hidWrite (h : Nat) (bs : List Byte) (s : State) (ha : h % 64 = 0) (hl : bs.length ≤ 64) (k : Nat) (hk : k < bs.length) :
    (s.hidWrite h bs).hidByte (h + k) = bs.getD k 0 := by
  unfold State.hidWrite
  split
  · next hh =>
    have : h + k < 2 ^ 45 := by omega
    simp only [State.hidByte, if_pos this, State.memByte_setMem]
    rw [if_pos ⟨by omega, by omega⟩, show h + k - h = k by omega]
  · next hh =>
    have h1 : ¬ h + k < 2 ^ 45 := by omega
    have h2 : (h + k - 2 ^ 45) / 2 ^ 23 = (h - 2 ^ 45) / 2 ^ 23 := by omega
    have h3 : (h + k - 2 ^ 45) % 2 ^ 23 = (h - 2 ^ 45) % 2 ^ 23 + k := by omega
    simp only [State.hidByte, if_neg h1, h2, h3, State.modClusterAt, Map.get_set_self, get_putBytes]
    rw [if_pos ⟨by omega, by omega⟩, Nat.add_sub_cancel_left]

/-- A hasp reads back as it was written (R251). -/
theorem State.hasp_setHasp (h : Nat) (v : Hasp) (s : State) (ha : h % 64 = 0) (hf : v.Fits) : (s.setHasp h v).hasp h = v := by
  have : (s.setHasp h v).hidBytes h 64 = v.bytes := by
    refine List.ext_getElem (by simp) fun k h1 h2 => ?_
    have hk : k < 64 := by simpa using h2
    have e := State.getD_hidBytes (s.setHasp h v) h 64 k hk
    rw [State.setHasp, State.hidByte_hidWrite h v.bytes s ha (by simp) k h2] at e
    have l1 : k < ((s.hidWrite h v.bytes).hidBytes h 64).length := by simpa using hk
    rw [List.getD_eq_getElem?_getD, List.getD_eq_getElem?_getD, List.getElem?_eq_getElem l1, List.getElem?_eq_getElem h2] at e
    exact e
  rw [State.hasp, this, haspOf_bytes v hf]

end Sys2Proof.Machine
end

