-- ==== Sys2Proof/Laws/Registers.lean ====
section
/-! SUPPORT. Registers: reading back a write; what completing an instruction leaves in the terms of Safety. -/

namespace Sys2Proof.Machine

@[simp] theorem State.reg_zero (s : State) : s.reg 0 = 0 := rfl
@[simp] theorem State.tag_zero (s : State) : s.tag 0 = false := rfl

/-- A register reads back what was written, g0 reads zero. -/
theorem State.reg_setReg_self (d : Reg) (v : Word) (e : Bool) (s : State) : (s.setReg d v e).reg d = if d = 0 then 0 else v := by
  by_cases h : d = 0
  · subst h; rfl
  · simp only [State.setReg, State.reg, if_neg h]
    exact Vector.getElem_set_self d.isLt

theorem State.tag_setReg_self (d : Reg) (v : Word) (e : Bool) (s : State) : (s.setReg d v e).tag d = if d = 0 then false else e := by
  by_cases h : d = 0
  · subst h; rfl
  · simp only [State.setReg, State.tag, if_neg h]
    exact Vector.getElem_set_self d.isLt

/-- A write to a register leaves every other one. -/
theorem State.reg_setReg_of_ne {d r : Reg} (h : r ≠ d) (v : Word) (e : Bool) (s : State) : (s.setReg d v e).reg r = s.reg r := by
  have hne : d.toNat ≠ r.toNat := fun he => h (BitVec.eq_of_toNat_eq he.symm)
  by_cases hd : d = 0
  · subst hd; rfl
  · by_cases hr : r = 0
    · subst hr; rfl
    · simp only [State.setReg, State.reg, if_neg hd, if_neg hr]
      exact Vector.getElem_set_ne d.isLt r.isLt hne

theorem State.tag_setReg_of_ne {d r : Reg} (h : r ≠ d) (v : Word) (e : Bool) (s : State) : (s.setReg d v e).tag r = s.tag r := by
  have hne : d.toNat ≠ r.toNat := fun he => h (BitVec.eq_of_toNat_eq he.symm)
  by_cases hd : d = 0
  · subst hd; rfl
  · by_cases hr : r = 0
    · subst hr; rfl
    · simp only [State.setReg, State.tag, if_neg hd, if_neg hr]
      exact Vector.getElem_set_ne d.isLt r.isLt hne

/-- Completing an instruction changes no register. -/
@[simp] theorem State.reg_finishAt (len npc : Word) (s : State) (r : Reg) : (s.finishAt len npc).reg r = s.reg r := rfl
@[simp] theorem State.tag_finishAt (len npc : Word) (s : State) (r : Reg) : (s.finishAt len npc).tag r = s.tag r := rfl
@[simp] theorem State.reg_finish (len : Word) (s : State) (r : Reg) : (s.finish len).reg r = s.reg r := rfl
@[simp] theorem State.tag_finish (len : Word) (s : State) (r : Reg) : (s.finish len).tag r = s.tag r := rfl

/-- A register's value and E bit depend on the register file alone. -/
theorem State.reg_congr {s t : State} (h : t.core.regs = s.core.regs) (r : Reg) : t.reg r = s.reg r := by simp [State.reg, h]
theorem State.tag_congr {s t : State} (h : t.core.etag = s.core.etag) (r : Reg) : t.tag r = s.tag r := by simp [State.tag, h]

/-- A write of a register, in the terms of Safety. -/
theorem State.wrote_setReg (d : Reg) (v : Word) (e : Bool) (s : State) : s.Wrote d v e (s.setReg d v e) :=
  ⟨s.reg_setReg_self d v e, s.tag_setReg_self d v e, fun _ h => ⟨State.reg_setReg_of_ne h v e s, State.tag_setReg_of_ne h v e s⟩⟩

/-- The thread goes on as R168 says, whatever registers were written before. -/
theorem State.advanced_finishAt (len npc : Word) (s t : State) (hp : t.core.pc = s.core.pc) (hl : t.core.lcnt = s.core.lcnt)
    (hs : t.core.lstart = s.core.lstart) (he : t.core.lend = s.core.lend) (hi : t.core.icnt = s.core.icnt)
    (ht : t.core.tstat = s.core.tstat) : s.Advanced len npc (t.finishAt len npc) := by
  have hc : t.core.closeLoop len npc = s.core.closeLoop len npc := by
    simp [Core.closeLoop, Core.ta, hp, hl, hs, he, ht]
  refine ⟨fun h => ?_, fun h => ?_, by rw [State.finishAt_core, Core.complete_icnt, hi]⟩
  · have : s.core.closeLoop len npc = (npc, s.core.lcnt) := if_neg h
    simp only [State.finishAt_core, Core.complete_lcnt, Core.complete_pc, hc, this, and_self]
  · have : s.core.closeLoop len npc = (if s.core.lcnt - 1 = 0 then npc else s.core.lstart, s.core.lcnt - 1) := if_pos h
    have h1 : (s.core.lcnt - 1 = 0) = (s.core.lcnt = 1) := propext ⟨fun h => by bv_omega, fun h => by rw [h]; rfl⟩
    simp only [State.finishAt_core, Core.complete_lcnt, Core.complete_pc, hc, this, h1, true_and]

/-- What a load of nothing keeps: a state that differs from another in the thread's own fields alone frames it. -/
theorem State.frame_setReg_finishAt (d : Reg) (v : Word) (e : Bool) (len npc : Word) (s : State) :
    s.Frame ((s.setReg d v e).finishAt len npc) := by
  by_cases h : d = 0
  · subst h; exact ⟨rfl, rfl, fun _ => ⟨rfl, rfl⟩⟩
  · simp only [State.setReg, if_neg h]
    exact ⟨rfl, rfl, fun _ => ⟨rfl, rfl⟩⟩

theorem State.frame_finishAt (len npc : Word) (s : State) : s.Frame (s.finishAt len npc) := ⟨rfl, rfl, fun _ => ⟨rfl, rfl⟩⟩

/-- An instruction whose meaning writes one register and completes. -/
theorem writesRegister_of {i : Instr} {d : Reg} {v : Word} {e : Bool} {len : Word} {s : State}
    (h : exec i s = .next ((s.setReg d v e).finish len)) (hl : len = BitVec.ofNat 64 i.size) : WritesRegister i d v e s := by
  subst hl
  refine ⟨_, h, ?_, ?_, ?_⟩
  · obtain ⟨hv, ht, ho⟩ := s.wrote_setReg d v e
    exact ⟨by simpa using hv, by simpa using ht, fun r hr => by simpa using ho r hr⟩
  · rw [State.finish, State.setReg_core_pc]
    exact State.advanced_finishAt _ _ _ _ (by simp) (by simp) (by simp) (by simp) (by simp) (by simp)
  · exact s.frame_setReg_finishAt _ _ _ _ _

/-- An instruction whose meaning only goes on. -/
theorem goesTo_of {i : Instr} {len npc : Word} {s : State} (h : exec i s = .next (s.finishAt len npc)) (hl : len = BitVec.ofNat 64 i.size) :
    GoesTo i npc s := by
  subst hl
  exact ⟨_, h, fun _ => ⟨rfl, rfl⟩, State.advanced_finishAt _ _ _ _ rfl rfl rfl rfl rfl rfl, s.frame_finishAt _ _⟩

end Sys2Proof.Machine
end

