-- ==== Sys2Proof/Laws/Traps.lean ====
section
/-! SUPPORT. Taking a trap (R179), in the terms of Safety, and the guards that raise one. -/

namespace Sys2Proof.Machine

/-- TSTAT as R179 writes it. -/
theorem tstatOf_loop (l : Word) : tstatOf (l != 0) true = if l = 0 then 1 else 3 := by
  by_cases h : l = 0
  · subst h; rfl
  · have : (l != 0) = true := bne_iff_ne.mpr h
    rw [this, if_neg h]; rfl

/-- A trap with TA = 0 and a handler writes the frame and goes to the handler. -/
theorem trapped_of {s : State} {cause : Nat} {value : Word} (ha : s.core.ta = false) (hv : s.core.tvec ≠ 0) :
    s.Trapped cause value (s.takeTrap cause false value s.core.pc) := by
  simp only [State.takeTrap, ha, Bool.false_eq_true, if_false, hv]
  refine ⟨⟨rfl, ?_, rfl⟩, tstatOf_loop _, ?_, rfl, rfl⟩
  · simp [tcauseOf]
  · rw [State.modCore_core, Core.trapFrame_pc, if_neg hv]

/-- An instruction whose meaning is a trap. -/
theorem traps_of {i : Instr} {cause : Nat} {value : Word} {s : State} (h : exec i s = trap cause value s) : Traps i cause value s :=
  fun ha hv => ⟨_, h, trapped_of ha hv⟩

/-- The field check of R122. -/
theorem guardWf_of {i : Instr} {s : State} {k : State → Out} (h : i.wellFormed = true) : guardWf i s k = k s := if_pos h
theorem guardWf_of_not {i : Instr} {s : State} {k : State → Out} (h : i.wellFormed = false) : guardWf i s k = illegal i s :=
  if_neg (by simp [h])

/-- The check of exact-only registers: all exact, or the first estimate. -/
theorem guardExact_of {rs : List Reg} {s : State} {k : State → Out} (h : ∀ r ∈ rs, s.tag r = false) : guardExact rs s k = k s := by
  induction rs with
  | nil => rfl
  | cons r t ih =>
    have hr : s.tag r = false := h r List.mem_cons_self
    simp only [guardExact, hr, Bool.false_eq_true, if_false]
    exact ih (fun q hq => h q (List.mem_cons_of_mem _ hq))
theorem guardExact_of_find {rs : List Reg} {s : State} {k : State → Out} {r : Reg} (h : rs.find? (fun q => s.tag q) = some r) :
    guardExact rs s k = exactTrap r s := by
  induction rs with
  | nil => simp at h
  | cons q t ih =>
    by_cases hq : s.tag q = true
    · have : q = r := by simpa [List.find?, hq] using h
      subst this; simp [guardExact, hq]
    · have hq' : s.tag q = false := by simpa using hq
      simp only [guardExact, hq', Bool.false_eq_true, if_false]
      exact ih (by simpa [List.find?, hq'] using h)

/-- The alignment check of R95. -/
theorem guardAlign_of {addr : Word} {n : Nat} {s : State} {k : State → Out} (h : addr.toNat % n = 0) : guardAlign addr n s k = k s :=
  if_neg (by simp [h])
theorem guardAlign_of_not {addr : Word} {n : Nat} {s : State} {k : State → Out} (h : addr.toNat % n ≠ 0) :
    guardAlign addr n s k = trap causeAlign addr s := if_pos h

end Sys2Proof.Machine
end

