-- ==== Sys2Proof/Laws/Access.lean ====
section
/-! SUPPORT. The shared operations of the control thread, each with all it can do: what a next state of it keeps (the `_all` rules,
for any property of states), what a trap and a wait leave alone, and an access on a page that translates. -/

namespace Sys2Proof.Machine

/-- Every next state of an outcome has a property. -/
def Out.All (P : State → Prop) (o : Out) : Prop := ∀ t, o = .next t → P t

theorem Out.all_next {P : State → Prop} {s : State} (h : P s) : Out.All P (.next s) := by
  intro t ht
  cases ht
  exact h

/-! ### Waits and traps -/

theorem stay_all {P : State → Prop} {s : State} (h : ∀ n, P (s.modCore (fun c => { c with stalled := true, stallCyc := n }))) (n : Option Nat) :
    Out.All P (stay n s) := Out.all_next (h n)
theorem stall_all {P : State → Prop} {s : State} (h : ∀ n, P (s.modCore (fun c => { c with stalled := true, stallCyc := n }))) :
    Out.All P (stall s) := stay_all h _
theorem pause_all {P : State → Prop} {s : State} (h : ∀ n, P (s.modCore (fun c => { c with stalled := true, stallCyc := n }))) :
    Out.All P (pause s) := stay_all h _

/-- A trap leaves every part of the machine but the core and, where the task stops, its record. -/
theorem State.takeTrap_frame (cause : Nat) (async : Bool) (value resume : Word) (s : State) :
    s.takeTrap cause async value resume =
      { s with core := (s.takeTrap cause async value resume).core, tasks := (s.takeTrap cause async value resume).tasks } := by
  have stop : ∀ (t : State) (b : Bool), t.stopTask cause b = { t with core := (t.stopTask cause b).core, tasks := (t.stopTask cause b).tasks } := by
    intro t b
    unfold State.stopTask State.modOwnTask State.modTask
    split
    · split <;> rfl
    · rfl
  unfold State.takeTrap
  split
  · exact stop s true
  · split
    · have := stop (s.modCore (Core.trapFrame cause async value resume)) false
      exact this
    · rfl

theorem trap_mem {cause : Nat} {value : Word} {s t : State} (h : trap cause value s = .next t) : t.mem = s.mem := by
  cases h
  rw [State.takeTrap_frame]
theorem trap_memWf {cause : Nat} {value : Word} {s : State} (h : s.memWf = true) : Out.All (fun t => t.memWf = true) (trap cause value s) := by
  intro t ht
  rwa [State.memWf_congr (trap_mem ht)]
theorem stall_memWf {s : State} (h : s.memWf = true) : Out.All (fun t => t.memWf = true) (stall s) := stall_all fun _ => h
theorem pause_memWf {s : State} (h : s.memWf = true) : Out.All (fun t => t.memWf = true) (pause s) := pause_all fun _ => h

/-! ### Guards: the continuation's property, or a trap's -/

theorem guardWf_all {P : State → Prop} {i : Instr} {s : State} {k : State → Out} (hk : Out.All P (k s))
    (ht : Out.All P (illegal i s)) : Out.All P (guardWf i s k) := by
  unfold guardWf
  split
  · exact hk
  · exact ht

theorem guardExact_all {P : State → Prop} {rs : List Reg} {s : State} {k : State → Out} (hk : Out.All P (k s))
    (ht : ∀ r ∈ rs, Out.All P (exactTrap r s)) : Out.All P (guardExact rs s k) := by
  induction rs with
  | nil => exact hk
  | cons r l ih =>
    unfold guardExact
    split
    · exact ht r List.mem_cons_self
    · exact ih fun q hq => ht q (List.mem_cons_of_mem _ hq)

theorem guardAlign_all {P : State → Prop} {addr : Word} {n : Nat} {s : State} {k : State → Out} (hk : Out.All P (k s))
    (ht : Out.All P (trap causeAlign addr s)) : Out.All P (guardAlign addr n s k) := by
  unfold guardAlign
  split
  · exact ht
  · exact hk

theorem guardFull_all {P : State → Prop} {sp : BitVec 3} {a n : Nat} {s : State} {k : State → Out} (hk : Out.All P (k s))
    (hw : Out.All P (stall s)) : Out.All P (guardFull sp a n s k) := by
  unfold guardFull
  split
  · exact hk
  · exact hw

theorem guardHaspAlign_all {P : State → Prop} {ref : Word} {s : State} {k : State → Out} (hk : Out.All P (k s))
    (ht : Out.All P (trap causeAlign ref s)) : Out.All P (guardHaspAlign ref s k) := by
  unfold guardHaspAlign
  split
  · exact ht
  · exact hk

/-- An access that its translation or memory fails: PROT once the fault is fatal, else a wait with or without a new fault. -/
theorem threadFails_all {P : State → Prop} {u : FaultUnit} {va : Word} {access reason : Nat} {s : State}
    (ht : Out.All P (trap causeProt va s)) (hw : Out.All P (pause s)) (hf : Out.All P (pause (s.threadFault u va access reason))) :
    Out.All P (threadFails u va access reason s) := by
  unfold threadFails
  split
  · exact ht
  · split
    · exact hw
    · exact hf

/-- An access of the thread: PROT, a wait with or without a new fault, or what its page gives. -/
theorem threadAccess_all {P : State → Prop} {access : Nat} {va : Word} {s : State} {k : Xlat → State → Out} (hk : ∀ x, Out.All P (k x s))
    (ht : Out.All P (trap causeProt va s)) (hw : Out.All P (pause s)) (hf : ∀ r, Out.All P (pause (s.threadFault .thread va access r))) :
    Out.All P (threadAccess access va s k) := by
  unfold threadAccess
  split
  · exact ht
  · split
    · exact threadFails_all ht hw (hf _)
    · exact threadFails_all ht hw (hf _)
    · exact hk _

/-- An access that reads and writes: as an access, or failed for want of R. -/
theorem updateAccess_all {P : State → Prop} {va : Word} {s : State} {k : Xlat → State → Out} (hk : ∀ x, Out.All P (k x s))
    (ht : Out.All P (trap causeProt va s)) (hw : Out.All P (pause s)) (hf : ∀ a r, Out.All P (pause (s.threadFault .thread va a r))) :
    Out.All P (updateAccess va s k) := by
  unfold updateAccess
  split
  · exact threadFails_all ht hw (hf 0 2)
  · exact threadAccess_all hk ht hw (hf 1)

/-- The leaf by which an address translates. -/
theorem State.leafFor_of_frame {proc access va : Nat} {fibre : Bool} {s : State} {pa : Nat} {e : TlbEntry}
    (h : s.translate proc access fibre va = .frame pa e) : s.leafFor proc va = some e := by
  unfold State.translate at h
  split at h
  · cases h
  · rename_i x hx
    unfold actOn at h
    dsimp only at h
    generalize (if access = 0 then pteR x.pte else if access = 1 then pteW x.pte else pteX x.pte) = ok at h
    by_cases hr : ok = false ∨ pteFib x.pte ≠ fibre
    · rw [if_pos hr] at h; cases h
    · rw [if_neg hr] at h
      split at h
      · cases h; exact hx
      · split at h <;> cases h
      · cases h

/-- An access on a page that translates. -/
theorem threadAccess_of_frame {access : Nat} {va : Word} {s : State} {k : Xlat → State → Out} {pa : Nat} {e : TlbEntry} (hc : canonical va = true)
    (h : s.translate s.core.proc access false (va57 va) = .frame pa e) : threadAccess access va s k = k (.frame pa e) s := by
  simp [threadAccess, hc, h]
theorem updateAccess_of_frame {va : Word} {s : State} {k : Xlat → State → Out} {pa : Nat} {e : TlbEntry} (hc : canonical va = true)
    (h : s.translate s.core.proc 1 false (va57 va) = .frame pa e) (hr : pteR e.pte = true) : updateAccess va s k = k (.frame pa e) s := by
  simp [updateAccess, State.leafFor_of_frame h, hr, threadAccess_of_frame hc h]
theorem updateAccess_of_unreadable {va : Word} {s : State} {k : Xlat → State → Out} {e : TlbEntry} (hc : canonical va = true)
    (h : s.leafFor s.core.proc (va57 va) = some e) (hr : pteR e.pte = false) : updateAccess va s k = threadFails .thread va 0 2 s := by
  simp [updateAccess, hc, h, hr]
theorem threadAccess_of_right {access : Nat} {va : Word} {s : State} {k : Xlat → State → Out} (hc : canonical va = true)
    (h : s.translate s.core.proc access false (va57 va) = .right) : threadAccess access va s k = threadFails .thread va access 2 s := by
  simp [threadAccess, hc, h]
theorem threadAccess_of_not_canonical {access : Nat} {va : Word} {s : State} {k : Xlat → State → Out} (hc : canonical va = false) :
    threadAccess access va s k = trap causeProt va s := if_pos hc

/-! ### Uses of a translation and the data cache -/

@[simp] theorem State.focus_mem (n : Nat) (s : State) : (s.focus n).mem = s.mem := by
  unfold State.focus; split <;> rfl
@[simp] theorem State.setCore_mem (n : Nat) (c : Core) (s : State) : (s.setCore n c).mem = s.mem := by
  unfold State.setCore; split <;> rfl
@[simp] theorem State.modCoreAt_mem (n : Nat) (f : Core → Core) (s : State) : (s.modCoreAt n f).mem = s.mem := s.setCore_mem ..

/-- A use of a translation writes the page's entry, the TLBs and the counts of the rows it reads alone. -/
theorem State.touch_frame (e : TlbEntry) (write : Bool) (s : State) :
    s.touch e write = { s with core := { s.core with utlb := (s.touch e write).core.utlb }, dies := (s.touch e write).dies, ptes := (s.touch e write).ptes } := by
  unfold State.touch
  dsimp only
  cases h : tlbFind (s.markUse e write).core.utlb e.proc e.va with
  | some x => dsimp only; split <;> rfl
  | none => dsimp only; split <;> rfl
@[simp] theorem State.touch_mem (e : TlbEntry) (write : Bool) (s : State) : (s.touch e write).mem = s.mem := by rw [State.touch_frame]
@[simp] theorem State.touch_regs (e : TlbEntry) (write : Bool) (s : State) : (s.touch e write).core.regs = s.core.regs := by
  rw [State.touch_frame]
@[simp] theorem State.touch_etag (e : TlbEntry) (write : Bool) (s : State) : (s.touch e write).core.etag = s.core.etag := by
  rw [State.touch_frame]
@[simp] theorem State.touch_dcache (e : TlbEntry) (write : Bool) (s : State) : (s.touch e write).core.dcache = s.core.dcache := by
  rw [State.touch_frame]
/-- Filling a line changes the cache, and, where the line stood there under another key id, writes that one back (R254). -/
theorem State.fillLine_cases (n : Nat) (key : BitVec 12) (s : State) :
    (s.core.cachedAs n key = true ∧ s.fillLine n key = s) ∨
    (s.core.dline n = none ∧ s.fillLine n key = s.fetchData n key) ∨
    (s.core.cachedAs n key = false ∧ (s.core.dline n).isSome = true ∧ s.fillLine n key = (s.evictLine n).fetchData n key) := by
  unfold State.fillLine
  cases hc : s.core.cachedAs n key with
  | true => exact .inl ⟨rfl, if_pos rfl⟩
  | false =>
    rw [if_neg (by decide)]
    cases hd : s.core.dline n with
    | none => exact .inr (.inl ⟨rfl, rfl⟩)
    | some l => exact .inr (.inr ⟨rfl, rfl, rfl⟩)

theorem State.memWf_fillLine {s : State} (n : Nat) (key : BitVec 12) (h : s.memWf = true) : (s.fillLine n key).memWf = true := by
  obtain ⟨_, e⟩ | ⟨_, e⟩ | ⟨_, _, e⟩ := s.fillLine_cases n key <;> rw [e]
  · exact h
  · exact h
  · exact State.memWf_evictLine n h
theorem State.memWf_cacheStore {s : State} (pa : Nat) (key : BitVec 12) (bs : List Byte) (h : s.memWf = true) :
    (s.cacheStore pa key bs).memWf = true := State.memWf_fillLine (pa / 64) key h
@[simp] theorem State.fillLine_mem_of_tag {n : Nat} {key : BitVec 12} {s : State} (h : s.core.cachedAs n key = true ∨ s.core.dline n = none) :
    (s.fillLine n key).mem = s.mem := by
  obtain ⟨_, e⟩ | ⟨_, e⟩ | ⟨hc, hd, _⟩ := s.fillLine_cases n key
  · rw [e]
  · rw [e]; rfl
  · rcases h with h | h <;> simp_all
@[simp] theorem State.threadFault_mem (u : FaultUnit) (va : Word) (access reason : Nat) (s : State) : (s.threadFault u va access reason).mem = s.mem := rfl

/-- Filling a line that is not there under another key id shows the thread nothing new. -/
theorem State.peek_fillLine {n : Nat} {key : BitVec 12} {s : State} (h : s.core.cachedAs n key = true ∨ s.core.dline n = none) (pa : Nat) :
    (s.fillLine n key).peek pa = s.peek pa := by
  obtain ⟨_, e⟩ | ⟨hd, e⟩ | ⟨hc, hd, _⟩ := s.fillLine_cases n key
  · rw [e]
  · rw [e]
    simp only [State.fetchData, State.openRow, State.peek, State.modCore_core, Core.dline, List.find?_cons]
    by_cases hn : n = pa / 64
    · subst hn
      simp only [BEq.rfl]
      have hd : s.core.dcache.find? (fun l => l.line == pa / 64) = none := hd
      rw [hd]
      have := State.getD_memBytes s (64 * (pa / 64)) 64 (pa % 64) (Nat.mod_lt _ (by decide))
      rw [Nat.div_add_mod] at this
      exact this
    · have : (n == pa / 64) = false := by simpa using hn
      simp only [this]
      rfl
  · rcases h with h | h <;> simp_all

/-! ### Banks of the buffers -/

/-- An access at a bank is performed, with its request served, or it waits, with its request standing (R99). -/
theorem State.atBank_cases {α : Type} (agent : BankAgent) (order : Nat) (buf : BitVec 3) (addr len : Nat) (s : State) (wait k : State → α) :
    ((buf = 0 ∨ buf = 4) ∧ s.atBank agent order buf addr len wait k = k s) ∨
    (s.core.bankFree s.cluster s.cyc (s.core.bankAsk agent order buf addr len s.cyc) = true ∧
      s.atBank agent order buf addr len wait k = k (s.modCore (Core.bankServed (s.core.bankAsk agent order buf addr len s.cyc)))) ∨
    (s.core.bankFree s.cluster s.cyc (s.core.bankAsk agent order buf addr len s.cyc) = false ∧
      s.atBank agent order buf addr len wait k = wait (s.modCore (Core.bankRefused (s.core.bankAsk agent order buf addr len s.cyc)))) := by
  unfold State.atBank
  by_cases hb : buf = 0 ∨ buf = 4
  · exact .inl ⟨hb, if_pos hb⟩
  · rw [if_neg hb]
    dsimp only
    cases hf : s.core.bankFree s.cluster s.cyc (s.core.bankAsk agent order buf addr len s.cyc) with
    | true => exact .inr (.inl ⟨rfl, if_pos rfl⟩)
    | false => exact .inr (.inr ⟨rfl, if_neg (by decide)⟩)

theorem atBank_all {P : State → Prop} {agent : BankAgent} {order : Nat} {buf : BitVec 3} {addr len : Nat} {s : State} {wait k : State → Out}
    (h0 : Out.All P (k s)) (hk : ∀ r, Out.All P (k (s.modCore (Core.bankServed r)))) (hw : ∀ r, Out.All P (wait (s.modCore (Core.bankRefused r)))) :
    Out.All P (s.atBank agent order buf addr len wait k) := by
  obtain ⟨_, e⟩ | ⟨_, e⟩ | ⟨_, e⟩ := s.atBank_cases agent order buf addr len wait k <;> rw [e]
  · exact h0
  · exact hk _
  · exact hw _
theorem threadBank_all {P : State → Prop} {buf : BitVec 3} {addr len : Nat} {s : State} {k : State → Out}
    (h0 : Out.All P (k s)) (hk : ∀ r, Out.All P (k (s.modCore (Core.bankServed r)))) (hw : ∀ r, Out.All P (pause (s.modCore (Core.bankRefused r)))) :
    Out.All P (threadBank buf addr len s k) := atBank_all h0 hk hw

/-- Nothing stands at the banks of a core whose fabric asks for none and where no request was refused: an access is performed at once. -/
theorem Core.bankFree_of_none {k : Cluster} {c : Core} (hr : c.bankReqs = []) (hf : c.fabricReqs = []) (cyc : Nat) (r : BankReq) :
    c.bankFree k cyc r = true := by
  simp [Core.bankFree, Core.standing, hr, hf]

/-! ### Hasp instructions -/

theorem guardHaspRef_all {P : State → Prop} {ref : Word} {s : State} {k : Nat → State → Out}
    (hc : ∀ hid, Out.All P (k hid s)) (hm : ∀ pa e, Out.All P (k pa (s.touch e true))) (ht : Out.All P (trap causeProt ref s))
    (hw : Out.All P (pause s)) (hf : ∀ a r, Out.All P (pause (s.threadFault .thread ref a r))) : Out.All P (guardHaspRef ref s k) := by
  unfold guardHaspRef
  split
  · split
    · exact ht
    · exact hc _
  · refine updateAccess_all (fun x => ?_) ht hw hf
    cases x with
    | frame pa e =>
      dsimp only
      split
      · exact ht
      · split
        · exact hm pa e
        · exact hw
    | zeros e => exact ht
    | fault r => exact ht
    | right => exact ht

/-! A home's read of its hasp changes only the die. -/

@[simp] theorem State.homeRow_core (hid : Nat) (s : State) : (s.homeRow hid).core = s.core := by unfold State.homeRow; split <;> rfl
@[simp] theorem State.homeRow_others (hid : Nat) (s : State) : (s.homeRow hid).others = s.others := by unfold State.homeRow; split <;> rfl
@[simp] theorem State.homeRow_clusters (hid : Nat) (s : State) : (s.homeRow hid).clusters = s.clusters := by unfold State.homeRow; split <;> rfl
@[simp] theorem State.homeRow_mem (hid : Nat) (s : State) : (s.homeRow hid).mem = s.mem := by unfold State.homeRow; split <;> rfl
@[simp] theorem State.homeRow_ptes (hid : Nat) (s : State) : (s.homeRow hid).ptes = s.ptes := by unfold State.homeRow; split <;> rfl
@[simp] theorem State.homeRow_procs (hid : Nat) (s : State) : (s.homeRow hid).procs = s.procs := by unfold State.homeRow; split <;> rfl
@[simp] theorem State.homeRow_tenants (hid : Nat) (s : State) : (s.homeRow hid).tenants = s.tenants := by unfold State.homeRow; split <;> rfl
@[simp] theorem State.homeRow_tasks (hid : Nat) (s : State) : (s.homeRow hid).tasks = s.tasks := by unfold State.homeRow; split <;> rfl
@[simp] theorem State.homeRow_pkg (hid : Nat) (s : State) : (s.homeRow hid).pkg = s.pkg := by unfold State.homeRow; split <;> rfl
@[simp] theorem State.homeRow_cyc (hid : Nat) (s : State) : (s.homeRow hid).cyc = s.cyc := by unfold State.homeRow; split <;> rfl
@[simp] theorem State.homeRow_agenda (hid : Nat) (s : State) : (s.homeRow hid).agenda = s.agenda := by unfold State.homeRow; split <;> rfl
@[simp] theorem State.homeRow_free (hid : Nat) (s : State) : (s.homeRow hid).free = s.free := by unfold State.homeRow; split <;> rfl

/-- A hasp instruction by its home's reply: completed, waiting, or trapped, with the hasp's row open. -/
theorem haspReply_all {P : State → Prop} {ref : Word} {hid : Nat} {before : State} {after : State → State} {r : Reply}
    (hd : ∀ s, r = .done s → P (((after s).homeRow hid).finish 4)) (hw : ∀ s, r = .waits s → Out.All P (stall (s.modCore (fun c => { c with wait := .hasp hid }))))
    (hf : ∀ n, Out.All P (haspTrap ref n (before.homeRow hid))) (hq : Out.All P (waitFull ref (before.homeRow hid))) : Out.All P (haspReply ref hid before after r) := by
  cases r with
  | done s => exact Out.all_next (hd s rfl)
  | waits s => exact hw s rfl
  | fail n => exact hf n
  | full => exact hq

end Sys2Proof.Machine
end

