-- ==== Sys2Proof/Laws/Walks.lean ====
section
/-! SUPPORT. Walks (R322, R323): one depends on the page alone, and a use of a leaf, which sets A and D, changes no translation. -/

namespace Sys2Proof.Machine

/-! ### Within a page -/

theorem div_page {a b : Nat} (h : a / 65536 = b / 65536) (k : Nat) : a / 2 ^ (k + 16) = b / 2 ^ (k + 16) := by
  rw [Nat.pow_add, Nat.mul_comm, ← Nat.div_div_eq_div_mul, ← Nat.div_div_eq_div_mul]; exact congrArg (· / 2 ^ k) h

theorem tableIndex_page {a b : Nat} (h : a / 65536 = b / 65536) (l : Nat) : tableIndex a l = tableIndex b l := by
  unfold tableIndex
  split
  · rw [h]
  · rename_i hl
    obtain ⟨k, rfl⟩ := Nat.exists_eq_succ_of_ne_zero hl
    have := div_page h (5 + 9 * k)
    rw [show 5 + 9 * k + 16 = 12 + 9 * (k + 1) by ring] at this
    rw [Nat.succ_eq_add_one, this]

theorem leafSize_page {a b : Nat} (h : a / 65536 = b / 65536) (l : Nat) : a / leafSize l = b / leafSize l := by
  unfold leafSize; split
  · exact h
  · split
    · exact div_page h 5
    · exact div_page h 14

/-- A walk, and the entries that it reads, depend on the page alone. -/
theorem walkFrom_page (m : Map Word) (p : Nat) {a b : Nat} (h : a / 65536 = b / 65536) (l t : Nat) : walkFrom m p a l t = walkFrom m p b l t := by
  induction l generalizing t with
  | zero => unfold walkFrom; simp only [tableIndex_page h, leafSize_page h]
  | succ l ih => unfold walkFrom; simp only [tableIndex_page h, leafSize_page h, ih]
theorem walkPath_page (m : Map Word) {a b : Nat} (h : a / 65536 = b / 65536) (l t : Nat) : walkPath m a l t = walkPath m b l t := by
  induction l generalizing t with
  | zero => simp only [walkPath, tableIndex_page h]
  | succ l ih => simp only [walkPath, tableIndex_page h, ih]
theorem State.walk_page (s : State) (p : Nat) {a b : Nat} (h : a / 65536 = b / 65536) : s.walk p a = s.walk p b := by
  unfold State.walk
  cases Map.find s.procs p with
  | none => rfl
  | some q => exact walkFrom_page _ _ h _ _
theorem State.walkReads_page (s : State) (p : Nat) {a b : Nat} (h : a / 65536 = b / 65536) : s.walkReads p a = s.walkReads p b :=
  walkPath_page _ h _ _

/-! ### A use of a leaf -/

/-- A leaf's word changed in A and D alone. -/
structure SameLeaf (p q : Word) : Prop where
  v : pteV q = pteV p
  l : pteL q = pteL p
  ok : ∀ level, leafOk q level = leafOk p level

/-- A leaf changed in A and D alone changes no walk but for that word. -/
theorem walkFrom_put {m : Map Word} {a : Nat} {q : Word} (hv : pteV (Map.get 0 m a) = true) (hl : pteL (Map.get 0 m a) = true)
    (hq : SameLeaf (Map.get 0 m a) q) (p va l t : Nat) :
    walkFrom (Map.put 0 m a q) p va l t = (walkFrom m p va l t).map (fun e => if e.ptePa / 8 = a then { e with pte := q } else e) := by
  have hg : ∀ k, Map.get 0 (Map.put 0 m a q) k = if k = a then q else Map.get 0 m k := fun k => Map.get_put ..
  induction l generalizing t with
  | zero =>
    unfold walkFrom
    simp only [hg]
    by_cases h : (t + 8 * tableIndex va 0) / 8 = a
    · simp only [h, if_true, hq.v, hv, hq.l, hl, hq.ok, Bool.true_eq_false, if_false]
      split <;> simp [h]
    · simp only [h, if_false]
      split <;> (try split) <;> (try split) <;> simp [h]
  | succ l ih =>
    unfold walkFrom
    simp only [hg]
    by_cases h : (t + 8 * tableIndex va (l + 1)) / 8 = a
    · simp only [h, if_true, hq.v, hv, hq.l, hl, hq.ok, Bool.true_eq_false, if_false]
      split <;> simp [h]
    · simp only [h, if_false, ih]
      split <;> (try split) <;> (try split) <;> simp [h]

/-- The entries that a walk reads stay the same as well: a leaf ends the path. -/
theorem walkPath_put {m : Map Word} {a : Nat} {q : Word} (hl : pteL (Map.get 0 m a) = true) (hq : SameLeaf (Map.get 0 m a) q) (va l t : Nat) :
    walkPath (Map.put 0 m a q) va l t = walkPath m va l t := by
  have hg : ∀ k, Map.get 0 (Map.put 0 m a q) k = if k = a then q else Map.get 0 m k := fun k => Map.get_put ..
  induction l generalizing t with
  | zero => rfl
  | succ l ih =>
    simp only [walkPath, hg, ih]
    by_cases h : (t + 8 * tableIndex va (l + 1)) / 8 = a
    · simp only [h, if_true, hq.l, hl, Bool.not_true, Bool.and_false, Bool.false_and, Bool.false_eq_true, if_false]
    · simp [h]

/-- The word that a use leaves in a leaf (R323). -/
def usedPte (write : Bool) (p : Word) : Word := if write then pteSetD (pteSetA p) else pteSetA p

/-- A and D lie apart from every field that a walk or an access looks at. -/
theorem usedPte_eq (write : Bool) (p : Word) : usedPte write p = p ||| (if write then 0x840 else 0x800) := by
  cases write
  · rfl
  · exact (BitVec.or_assoc ..)
theorem used_toNat (write : Bool) (p : Word) : (usedPte write p).toNat = p.toNat ||| (if write then 0x840 else 0x800) := by
  rw [usedPte_eq, BitVec.toNat_or]; cases write <;> rfl
theorem used_high (write : Bool) (p : Word) {k : Nat} (hk : 4096 ∣ k) : (usedPte write p).toNat / k = p.toNat / k := by
  obtain ⟨j, rfl⟩ := hk
  rw [used_toNat, ← Nat.div_div_eq_div_mul, ← Nat.div_div_eq_div_mul, show (4096 : Nat) = 2 ^ 12 by rfl, Nat.or_div_two_pow]
  cases write <;> simp
@[simp] theorem pteState_used (write : Bool) (p : Word) : pteState (usedPte write p) = pteState p := by
  unfold pteState
  rw [used_toNat, show (256 : Nat) = 2 ^ 8 by rfl, show (8 : Nat) = 2 ^ 3 by rfl, Nat.or_div_two_pow, Nat.or_mod_two_pow]
  cases write <;> simp
@[simp] theorem pteFrame_used (write : Bool) (p : Word) : pteFrame (usedPte write p) = pteFrame p := by
  unfold pteFrame
  rw [used_high write p ⟨16, rfl⟩]
theorem used_bit (write : Bool) (p : Word) {k : Nat} (h6 : k ≠ 6) (h11 : k ≠ 11) : (usedPte write p).getLsbD k = p.getLsbD k := by
  rw [usedPte_eq, BitVec.getLsbD_or]
  have : (if write then 0x840 else 0x800 : Word).getLsbD k = false := by
    by_cases hk : k < 64
    · cases write <;> (revert h6 h11; revert k; decide)
    · cases write <;> exact BitVec.getLsbD_of_ge _ _ (by omega)
  rw [this, Bool.or_false]
theorem sameLeaf_used (write : Bool) (p : Word) : SameLeaf p (usedPte write p) where
  v := used_bit write p (by decide) (by decide)
  l := used_bit write p (by decide) (by decide)
  ok level := by
    unfold leafOk
    rw [pteState_used, pteFrame_used, used_high write p ⟨1, rfl⟩, used_bit write p (by decide) (by decide)]

/-- A use of a leaf changes no walk but for A and D of that leaf. -/
theorem State.walk_markUse (s : State) (e : TlbEntry) (write : Bool) (hv : pteV (s.pteAt e.ptePa) = true) (hl : pteL (s.pteAt e.ptePa) = true)
    (p va : Nat) : (s.markUse e write).walk p va =
      (s.walk p va).map (fun x => if x.ptePa / 8 = e.ptePa / 8 then { x with pte := usedPte write (s.pteAt e.ptePa) } else x) := by
  unfold State.walk
  rw [State.markUse_procs]
  cases Map.find s.procs p with
  | none => rfl
  | some q => exact walkFrom_put hv hl (sameLeaf_used write _) p va 4 q.root
theorem State.walkReads_markUse (s : State) (e : TlbEntry) (write : Bool) (hl : pteL (s.pteAt e.ptePa) = true) (p va : Nat) :
    (s.markUse e write).walkReads p va = s.walkReads p va := walkPath_put hl (sameLeaf_used write _) va 4 _
theorem State.tablesGone_markUse (s : State) (e : TlbEntry) (write : Bool) (hl : pteL (s.pteAt e.ptePa) = true) (p va : Nat) :
    (s.markUse e write).tablesGone p va = s.tablesGone p va := by
  unfold State.tablesGone; rw [State.walkReads_markUse s e write hl]; rfl

end Sys2Proof.Machine
end

