-- ==== Sys2Proof/Tests/Slice0.lean ====
section
/-! SUPPORT. Tests: words of the spec's encodings, ill-formed terms, one-step results worked out from the spec, and for every statement
with hypotheses a state and operands that meet them. -/

set_option Elab.async false

namespace Sys2Proof.Tests

open Sys2Proof Sys2Proof.Machine

/-- The bytes of words, each little-endian (R2). -/
def wordBytes (ws : List Nat) : List Byte := ws.flatMap (fun w => [BitVec.ofNat 8 w, BitVec.ofNat 8 (w / 2 ^ 8), BitVec.ofNat 8 (w / 2 ^ 16), BitVec.ofNat 8 (w / 2 ^ 24)])

/-- The words decode to the instruction, with nothing left. -/
def reads (p : List Nat × Instr) : Bool :=
  match decode (wordBytes p.1) with
  | .ok (i, []) => decide (i = p.2)
  | _ => false

/-- The words are refused. -/
def refuses (p : List Nat × DecodeError) : Bool :=
  match decode (wordBytes p.1) with
  | .ok _ => false
  | .error e => decide (e = p.2)

/-! ### Decoding -/

def integerWordsP1 : List (List Nat × Instr) :=
  [([0x0471F000], .add 3 0x11 0x1E),
   ([0x04710400, 0x89ABCDEF], .addLit 3 0x11 0x89ABCDEF),
   ([0x0471F001], .sub 3 0x11 0x1E),
   ([0x04710401, 0x89ABCDEF], .subLit 3 0x11 0x89ABCDEF),
   ([0x0471F002], .mul 3 0x11 0x1E),
   ([0x04710402, 0x89ABCDEF], .mulLit 3 0x11 0x89ABCDEF),
   ([0x0471F003], .mulh 3 0x11 0x1E),
   ([0x04710403, 0x89ABCDEF], .mulhLit 3 0x11 0x89ABCDEF)]
def integerWordsP2 : List (List Nat × Instr) :=
  [([0x0471F004], .mulhn 3 0x11 0x1E),
   ([0x04710404, 0x89ABCDEF], .mulhnLit 3 0x11 0x89ABCDEF),
   ([0x0471F005], .div 3 0x11 0x1E),
   ([0x04710405, 0x89ABCDEF], .divLit 3 0x11 0x89ABCDEF),
   ([0x0471F006], .divn 3 0x11 0x1E),
   ([0x04710406, 0x89ABCDEF], .divnLit 3 0x11 0x89ABCDEF),
   ([0x0471F007], .rem 3 0x11 0x1E),
   ([0x04710407, 0x89ABCDEF], .remLit 3 0x11 0x89ABCDEF)]
def integerWordsP3 : List (List Nat × Instr) :=
  [([0x0471F008], .remn 3 0x11 0x1E),
   ([0x04710408, 0x89ABCDEF], .remnLit 3 0x11 0x89ABCDEF),
   ([0x0471F009], .and 3 0x11 0x1E),
   ([0x04710409, 0x89ABCDEF], .andLit 3 0x11 0x89ABCDEF),
   ([0x0471F00A], .or 3 0x11 0x1E),
   ([0x0471040A, 0x89ABCDEF], .orLit 3 0x11 0x89ABCDEF),
   ([0x0471F00B], .xor 3 0x11 0x1E),
   ([0x0471040B, 0x89ABCDEF], .xorLit 3 0x11 0x89ABCDEF)]
def integerWordsP4 : List (List Nat × Instr) :=
  [([0x0471F00C], .andn 3 0x11 0x1E),
   ([0x0471040C, 0x89ABCDEF], .andnLit 3 0x11 0x89ABCDEF),
   ([0x0471F00D], .sll 3 0x11 0x1E),
   ([0x0471040D, 0x89ABCDEF], .sllLit 3 0x11 0x89ABCDEF),
   ([0x0471F00E], .srl 3 0x11 0x1E),
   ([0x0471040E, 0x89ABCDEF], .srlLit 3 0x11 0x89ABCDEF),
   ([0x0471F00F], .sra 3 0x11 0x1E),
   ([0x0471040F, 0x89ABCDEF], .sraLit 3 0x11 0x89ABCDEF)]
def integerWordsP5 : List (List Nat × Instr) :=
  [([0x0471F010], .slt 3 0x11 0x1E),
   ([0x04710410, 0x89ABCDEF], .sltLit 3 0x11 0x89ABCDEF),
   ([0x0471F011], .sltn 3 0x11 0x1E),
   ([0x04710411, 0x89ABCDEF], .sltnLit 3 0x11 0x89ABCDEF),
   ([0x04710012], .clz 3 0x11),
   ([0x04710013], .popc 3 0x11)]
/-- Words of R124, the fields set in the places that the encoding tables give them; the first ones are the worked encodings. -/
def integerWords : List (List Nat × Instr) := integerWordsP1 ++ integerWordsP2 ++ integerWordsP3 ++ integerWordsP4 ++ integerWordsP5
theorem test_decode_integer : integerWords.all reads = true := by decide +kernel

def immediateWordsP1 : List (List Nat × Instr) :=
  [([0x80A04000], .addi 5 0 0x4000),
   ([0x94C60010], .srli 6 6 16),
   ([0x84C60007], .andi 6 6 7),
   ([0x80718001], .addi 3 0x11 0x8001),
   ([0x84718001], .andi 3 0x11 0x8001),
   ([0x88718001], .ori 3 0x11 0x8001),
   ([0x8C718001], .xori 3 0x11 0x8001),
   ([0x90710021], .slli 3 0x11 0x21)]
def immediateWordsP2 : List (List Nat × Instr) :=
  [([0x94710021], .srli 3 0x11 0x21),
   ([0x98710021], .srai 3 0x11 0x21),
   ([0x9C718001], .slti 3 0x11 0x8001),
   ([0xA0608001], .lui 3 0x8001)]
/-- Words of R125, the fields set in the places that the encoding tables give them; the first ones are the worked encodings. -/
def immediateWords : List (List Nat × Instr) := immediateWordsP1 ++ immediateWordsP2
theorem test_decode_immediate : immediateWords.all reads = true := by decide +kernel

def floatWordsP1 : List (List Nat × Instr) :=
  [([0x08853424, 0x3F000000], .accept 4 5 6 false 0x3F000000),
   ([0x0871F140], .fadd 3 0x11 0x1E 2 true),
   ([0x08710540, 0x89ABCDEF], .faddLit 3 0x11 0x89ABCDEF 2 true),
   ([0x0871F144], .fsub 3 0x11 0x1E 2 true),
   ([0x08710544, 0x89ABCDEF], .fsubLit 3 0x11 0x89ABCDEF 2 true),
   ([0x0871F148], .fmul 3 0x11 0x1E 2 true),
   ([0x08710548, 0x89ABCDEF], .fmulLit 3 0x11 0x89ABCDEF 2 true),
   ([0x0871F14C], .fdiv 3 0x11 0x1E 2 true)]
def floatWordsP2 : List (List Nat × Instr) :=
  [([0x0871054C, 0x89ABCDEF], .fdivLit 3 0x11 0x89ABCDEF 2 true),
   ([0x08710150], .fsqrt 3 0x11 2 true),
   ([0x0871F154], .fma 3 0x11 0x1E 2 true),
   ([0x08710554, 0x89ABCDEF], .fmaLit 3 0x11 0x89ABCDEF 2 true),
   ([0x0871F018], .fmin 3 0x11 0x1E),
   ([0x08710418, 0x89ABCDEF], .fminLit 3 0x11 0x89ABCDEF),
   ([0x0871F01C], .fmax 3 0x11 0x1E),
   ([0x0871041C, 0x89ABCDEF], .fmaxLit 3 0x11 0x89ABCDEF)]
def floatWordsP3 : List (List Nat × Instr) :=
  [([0x0871F2A0], .fcmp 3 0x11 0x1E 5),
   ([0x087106A0, 0x89ABCDEF], .fcmpLit 3 0x11 0x89ABCDEF 5),
   ([0x0C711AC0], .fcvt 3 0x11 3 2 true 8)]
/-- Words of R128, R129, the fields set in the places that the encoding tables give them; the first ones are the worked encodings. -/
def floatWords : List (List Nat × Instr) := floatWordsP1 ++ floatWordsP2 ++ floatWordsP3
theorem test_decode_float : floatWords.all reads = true := by decide +kernel

def systemWordsP1 : List (List Nat × Instr) :=
  [([0x1CC00030], .crrd 6 0x030),
   ([0x10000001], .eret),
   ([0x10000002], .yield),
   ([0x10000003], .retire),
   ([0x10000004], .fenceI),
   ([0x1071F005], .spawn 3 0x11 0x1E),
   ([0x1400BEEF], .trap 0xBEEF),
   ([0x1800BEEF], .brk 0xBEEF)]
def systemWordsP2 : List (List Nat × Instr) :=
  [([0x1C600012], .crrd 3 0x12),
   ([0x20110012], .crwr 0x11 0x12),
   ([0x20110031], .crwrPtrg 0x11),
   ([0x20110050], .crwrInj 0x11)]
/-- Words of R130, the fields set in the places that the encoding tables give them; the first ones are the worked encodings. -/
def systemWords : List (List Nat × Instr) := systemWordsP1 ++ systemWordsP2
theorem test_decode_system : systemWords.all reads = true := by decide +kernel

def atomicWordsP1 : List (List Nat × Instr) :=
  [([0x2471F120], .atomAdd 3 0x11 0x1E 1 true),
   ([0x2471F122], .atomAnd 3 0x11 0x1E 1 true),
   ([0x2471F124], .atomOr 3 0x11 0x1E 1 true),
   ([0x2471F126], .atomXor 3 0x11 0x1E 1 true),
   ([0x2471F128], .atomMin 3 0x11 0x1E 1 true),
   ([0x2471F12A], .atomMax 3 0x11 0x1E 1 true),
   ([0x2471F12C], .atomMinn 3 0x11 0x1E 1 true),
   ([0x2471F12E], .atomMaxn 3 0x11 0x1E 1 true)]
def atomicWordsP2 : List (List Nat × Instr) :=
  [([0x2471F130], .atomSwap 3 0x11 0x1E 1 true),
   ([0x2471F132], .atomCas 3 0x11 0x1E 1 true),
   ([0x2411F140], .lmarkEmpty 0x11 0x1E 1),
   ([0x2411F142], .lmarkFull 0x11 0x1E 1),
   ([0x2411F144], .lmarkEst 0x11 0x1E 1),
   ([0x2411F146], .lmarkExact 0x11 0x1E 1),
   ([0x24110180], .lwait 0x11 1)]
/-- Words of R127, the fields set in the places that the encoding tables give them; the first ones are the worked encodings. -/
def atomicWords : List (List Nat × Instr) := atomicWordsP1 ++ atomicWordsP2
theorem test_decode_atomic : atomicWords.all reads = true := by decide +kernel

def memoryWordsP1 : List (List Nat × Instr) :=
  [([0x40713FFC], .ldB 3 0x11 1 0x1FFC),
   ([0x44713FFC], .ldBn 3 0x11 1 0x1FFC),
   ([0x48713FFC], .ldH 3 0x11 1 0x1FFC),
   ([0x4C713FFC], .ldHn 3 0x11 1 0x1FFC),
   ([0x50713FFC], .ldW 3 0x11 1 0x1FFC),
   ([0x54713FFC], .ldWn 3 0x11 1 0x1FFC),
   ([0x58713FFC], .ldD 3 0x11 1 0x1FFC),
   ([0x5C717FFC], .ldEh 3 0x11 3 0x1FFC)]
def memoryWordsP2 : List (List Nat × Instr) :=
  [([0x60717FFC], .ldEw 3 0x11 3 0x1FFC),
   ([0x67B13FFC], .sb 0x1D 0x11 1 0x1FFC),
   ([0x6BB13FFC], .sh 0x1D 0x11 1 0x1FFC),
   ([0x6FB13FFC], .sw 0x1D 0x11 1 0x1FFC),
   ([0x73B13FFC], .sd 0x1D 0x11 1 0x1FFC)]
/-- Words of R126, the fields set in the places that the encoding tables give them; the first ones are the worked encodings. -/
def memoryWords : List (List Nat × Instr) := memoryWordsP1 ++ memoryWordsP2
theorem test_decode_memory : memoryWords.all reads = true := by decide +kernel

def controlWordsP1 : List (List Nat × Instr) :=
  [([0xC0C73FFC], .bne 6 7 0x1FFC),
   ([0xC23E1FFC], .beq 0x11 0x1E 0x1FFC),
   ([0xC23E3FFC], .bne 0x11 0x1E 0x1FFC),
   ([0xC23E5FFC], .blt 0x11 0x1E 0x1FFC),
   ([0xC23E7FFC], .bge 0x11 0x1E 0x1FFC),
   ([0xC23E9FFC], .bltn 0x11 0x1E 0x1FFC),
   ([0xC23EBFFC], .bgen 0x11 0x1E 0x1FFC),
   ([0xC6200005], .loop 0x11 5)]
def controlWordsP2 : List (List Nat × Instr) :=
  [([0xCA000001], .j 0x2000001),
   ([0xCE000001], .jal 0x2000001),
   ([0xD0718001], .jalr 3 0x11 0x8001)]
/-- Words of R131, the fields set in the places that the encoding tables give them; the first ones are the worked encodings. -/
def controlWords : List (List Nat × Instr) := controlWordsP1 ++ controlWordsP2
theorem test_decode_control : controlWords.all reads = true := by decide +kernel

def streamWordsP1 : List (List Nat × Instr) :=
  [([0xE0001000, 0x1E0], .srdLit 0 0 0x1E0 { acq := false, rel := false, hr := 0 }),
   ([0xE090E158], .srd 1 4 7 { acq := true, rel := false, hr := 22 }),
   ([0xE0400600], .pwait 16),
   ([0xE1012800], .sstat 2 0 9 0),
   ([0xE4016400], .wpwait 0 11),
   ([0xE4213000, 0x51000000], .cpy { ch := 0, gd := 8, gs := 9, len := 10, dsp := 1, ssp := 0, ei := false, est := false, fl := { acq := false, rel := false, hr := 0 } }),
   ([0xE4B9F003, 0x81000000], .cpy { ch := 1, gd := 14, gs := 15, len := 16, dsp := 1, ssp := 0, ei := true, est := true, fl := { acq := false, rel := false, hr := 0 } }),
   ([0xE4213200, 0x51000000, 0xF0C99201, 0x98800000], .cpym { ch := 0, gd := 8, gs := 9, len := 10, dsp := 1, ssp := 0, ei := false, est := false, fl := { acq := false, rel := false, hr := 0 } } { s := 1, gd := 18, a := 12, opnd := 19, fmt := 1, fl := { acq := false, rel := false, hr := 0 } })]
def streamWordsP2 : List (List Nat × Instr) :=
  [([0xE13D21D8], .srd 2 0xF 9 { acq := true, rel := true, hr := 22 }),
   ([0xE13C11D8, 0x89ABCDEF], .srdLit 2 0xF 0x89ABCDEF { acq := true, rel := true, hr := 22 }),
   ([0xE14923D8], .swr 2 0x12 9 { acq := true, rel := true, hr := 22 }),
   ([0xE14813D8, 0x89ABCDEF], .swrLit 2 0x12 0x89ABCDEF { acq := true, rel := true, hr := 22 }),
   ([0xE13D25D8], .sind 2 0xF 9 { acq := true, rel := true, hr := 22 }),
   ([0xE13C15D8, 0x89ABCDEF], .sindLit 2 0xF 0x89ABCDEF { acq := true, rel := true, hr := 22 }),
   ([0xE04C0600], .pwait 0x13),
   ([0xE04C6802], .sstat 0 0x13 3 2)]
def streamWordsP3 : List (List Nat × Instr) :=
  [([0xE5822400], .wpwait 3 0x11)]
/-- Words of R132, R133, the fields set in the places that the encoding tables give them; the first ones are the worked encodings. -/
def streamWords : List (List Nat × Instr) := streamWordsP1 ++ streamWordsP2 ++ streamWordsP3
theorem test_decode_stream : streamWords.all reads = true := by decide +kernel

def planeWordsP1 : List (List Nat × Instr) :=
  [([0xE8800400], .pswitch 1),
   ([0xE880A000], .cfg 1 5),
   ([0xE918A200], .cfgs 2 6 5),
   ([0xE8000600], .pdrain),
   ([0xE94F6800], .ptrig 2 19 27),
   ([0xE9022000], .cfg 2 0x11),
   ([0xE97A2200], .cfgs 2 0x1E 0x11),
   ([0xE9000400], .pswitch 2)]
def planeWordsP2 : List (List Nat × Instr) :=
  [([0xE94E2800], .ptrig 2 0x13 0x11)]
/-- Words of R132, the fields set in the places that the encoding tables give them; the first ones are the worked encodings. -/
def planeWords : List (List Nat × Instr) := planeWordsP1 ++ planeWordsP2
theorem test_decode_plane : planeWords.all reads = true := by decide +kernel

def haspWordsP1 : List (List Nat × Instr) :=
  [([0xEC160370], .hinit 22 1 23),
   ([0xEE961000], .key 20 22),
   ([0xEC162000], .hacq 22),
   ([0xEC163000], .hrel 22),
   ([0xEC164000], .harr 22),
   ([0xEC165000], .hwait 22),
   ([0xEC166030], .hsig 22 3),
   ([0xEC167000], .join 22)]
def haspWordsP2 : List (List Nat × Instr) :=
  [([0xEC168000], .leave 22),
   ([0xEC1609E0], .hinit 0x16 4 0x1E),
   ([0xEE961000], .key 0x14 0x16),
   ([0xEC162000], .hacq 0x16),
   ([0xEC163000], .hrel 0x16),
   ([0xEC164000], .harr 0x16),
   ([0xEC165000], .hwait 0x16),
   ([0xEC1661E0], .hsig 0x16 0x1E)]
def haspWordsP3 : List (List Nat × Instr) :=
  [([0xEC167000], .join 0x16),
   ([0xEC168000], .leave 0x16)]
/-- Words of R135, the fields set in the places that the encoding tables give them; the first ones are the worked encodings. -/
def haspWords : List (List Nat × Instr) := haspWordsP1 ++ haspWordsP2 ++ haspWordsP3
theorem test_decode_hasp : haspWords.all reads = true := by decide +kernel

/-- Words of R134, the fields set in the places that the encoding tables give them; the first ones are the worked encodings. -/
def arrayWords : List (List Nat × Instr) :=
  [([0xF018F000, 0x41800000], .mldw 0 6 7 8 3 { acq := false, rel := false, hr := 0 }),
   ([0xF0C99200, 0x98800000], .mmul { s := 1, gd := 18, a := 12, opnd := 19, fmt := 1, fl := { acq := false, rel := false, hr := 0 } }),
   ([0xF1000400], .mwait 2),
   ([0xF400D000, 0x28000000], .xprog 5 6 { acq := false, rel := false, hr := 0 }),
   ([0xF47BB200, 0xE0000000], .xfire 28 29 30 { acq := false, rel := false, hr := 0 }),
   ([0xF4001400, 0x28000000], .xcal 5),
   ([0xF4241600, 0x28000000], .xstat 9 5),
   ([0xF0800400], .mwait 1)]
theorem test_decode_array : arrayWords.all reads = true := by decide +kernel

def fibreWordsP1 : List (List Nat × Instr) :=
  [([0xF8042800], .fnew 4 5),
   ([0xF8040040], .ffree 4),
   ([0xF8C43880], .fprobe 6 4 7),
   ([0xFB58C8C0], .fmerge 24 25 26 0),
   ([0xF90438C1], .fmerge 4 7 8 1),
   ([0xF81E4900], .fmrgf 30 9),
   ([0xF8C40140], .fstat 6 4),
   ([0xF8040180], .fclr 4)]
def fibreWordsP2 : List (List Nat × Instr) :=
  [([0xF80A59C0], .pdiscard 10 11),
   ([0xF80A5A01], .phintFill 10 11),
   ([0xF811F000], .fnew 0x11 0x1E),
   ([0xF8110040], .ffree 0x11),
   ([0xF871F080], .fprobe 3 0x11 0x1E),
   ([0xF871F0CC], .fmerge 0x11 0x1E 3 0xC),
   ([0xF811F100], .fmrgf 0x11 0x1E),
   ([0xF8710140], .fstat 3 0x11)]
def fibreWordsP3 : List (List Nat × Instr) :=
  [([0xF8110180], .fclr 0x11),
   ([0xF811F1C0], .pdiscard 0x11 0x1E),
   ([0xF811F200], .phintTlb 0x11 0x1E),
   ([0xF811F201], .phintFill 0x11 0x1E),
   ([0xF811F202], .phintCold 0x11 0x1E),
   ([0xF811F203], .phintNear 0x11 0x1E)]
/-- Words of R136, the fields set in the places that the encoding tables give them; the first ones are the worked encodings. -/
def fibreWords : List (List Nat × Instr) := fibreWordsP1 ++ fibreWordsP2 ++ fibreWordsP3
theorem test_decode_fibre : fibreWords.all reads = true := by decide +kernel

def badWordsP1 : List (List Nat × DecodeError) :=
  [([0x00000000], .unknownMajor), ([0xFFFFFFFF], .unknownMajor), ([0x04000014], .unknownFunction), ([0x04000020], .nonzeroField),
   ([0x04000812], .nonzeroField), ([0x04000412, 0], .literalForbidden), ([0x04000C00, 0], .nonzeroField), ([0x08000024], .literalMissing),
   ([0x08000410, 0], .literalForbidden), ([0x08000001], .nonzeroField), ([0x0C008000], .nonzeroField), ([0x10000006], .unknownFunction)]
def badWordsP2 : List (List Nat × DecodeError) :=
  [([0x10010001], .nonzeroField), ([0x24000001], .nonzeroField), ([0x24000014], .unknownFunction), ([0x240000C0], .unknownFunction),
   ([0xC000C000], .unknownFunction), ([0xE0000003], .nonzeroField), ([0xE0001600, 0], .literalForbidden), ([0xE4000000], .literalMissing),
   ([0xE4001000, 1], .nonzeroField), ([0xE4213200, 0x51000000, 0x80000000, 0], .unfused), ([0xF0C99201, 0x98800000], .unfused)]
def badWordsP3 : List (List Nat × DecodeError) :=
  [([0xE8001000, 0], .literalForbidden), ([0xEC009000], .unknownFunction), ([0xF0000000], .literalMissing), ([0xF4001800, 0], .unknownFunction),
   ([0xF8000240], .unknownFunction), ([0xF8000400], .nonzeroField), ([0x04000400], .truncated)]
/-- Reserved bits, unused fields, unassigned functions, literals where none is admitted or one is required, an MMUL with F on its own
(R119, R122, R123, R133): refused by name. -/
def badWords : List (List Nat × DecodeError) := badWordsP1 ++ badWordsP2 ++ badWordsP3
theorem test_decode_refuses : badWords.all refuses = true := by decide +kernel

/-! ### Ill-formed terms -/

def illFormedP1 : List Instr :=
  [.fadd 1 2 3 5 false, .faddLit 1 2 0 6 false, .fsqrt 1 2 7 true, .fma 1 2 3 5 false, .fcvt 1 2 5 0 false 0, .fcvt 1 2 0 0 false 0xE, .fcvt 1 2 0 5 false 0,
   .accept 1 2 3 false 0x7FC00000, .accept 1 2 3 false 0x80000001, .crwr 1 0x031, .crwr 1 0x050, .atomAdd 1 2 3 2 false, .atomCas 1 2 3 5 true]
def illFormedP2 : List Instr :=
  [.lmarkEmpty 1 2 0, .lmarkFull 1 2 4, .lwait 1 0, .ldW 1 2 5 0, .ldEw 1 2 0 0, .ldEh 1 2 4 0, .sd 1 2 7 0, .loop 1 0, .loop 1 0x1FFF]
def illFormedP3 : List Instr :=
  [.srd 4 0 1 { acq := false, rel := false, hr := 0 }, .srd 0 16 1 { acq := false, rel := false, hr := 0 }, .swr 0 15 1 { acq := false, rel := false, hr := 0 },
   .sind 0 16 1 { acq := false, rel := false, hr := 0 }, .srd 0 0 1 { acq := false, rel := false, hr := 1 }, .srdLit 5 0 0 { acq := true, rel := false, hr := 1 },
   .sstat 0 0 1 3, .sstat 4 0 1 0, .sstat 0 1 1 1, .sstat 1 0 1 2, .wpwait 4 1, .hinit 1 5 2, .fmerge 1 2 3 3]
def illFormedP4 : List Instr :=
  [.cpy { ch := 4, gd := 1, gs := 2, len := 3, dsp := 1, ssp := 0, ei := false, est := false, fl := { acq := false, rel := false, hr := 0 } },
   .cpy { ch := 0, gd := 1, gs := 2, len := 3, dsp := 3, ssp := 0, ei := false, est := false, fl := { acq := false, rel := false, hr := 0 } },
   .cpy { ch := 0, gd := 1, gs := 2, len := 3, dsp := 1, ssp := 3, ei := false, est := false, fl := { acq := false, rel := false, hr := 0 } },
   .cpy { ch := 0, gd := 1, gs := 2, len := 3, dsp := 0, ssp := 1, ei := true, est := false, fl := { acq := false, rel := false, hr := 0 } },
   .mldw 0 1 2 3 7 { acq := false, rel := false, hr := 0 }, .mmul { s := 0, gd := 1, a := 2, opnd := 3, fmt := 0, fl := { acq := false, rel := false, hr := 0 } },
   .xprog 1 2 { acq := false, rel := false, hr := 3 }, .xfire 1 2 3 { acq := false, rel := false, hr := 3 }]
/-- One term for each field check of R122 to R136, R203, R262, R305. -/
def illFormed : List Instr := illFormedP1 ++ illFormedP2 ++ illFormedP3 ++ illFormedP4
theorem test_wellFormed_refuses : illFormed.all (fun i => !i.wellFormed) = true := by decide +kernel

/-! ### Witnesses

For every statement with hypotheses, a state and operands that meet those of each clause. The states are small changes of `base`. -/

/-- A leaf entry: rights (1 R, 2 W, 4 X), FIB, STATE, key id, frame (R323). -/
def leaf (rights fib state key frame : Nat) : Word := BitVec.ofNat 64 (3 + rights * 4 + fib * 32 + state * 256 + frame + key * 2 ^ 52)

/-- The translation of page `i` of process 1, whose leaf stands at 0x104000 + 8 i. -/
def page (i : Nat) (w : Word) : TlbEntry := { proc := 1, va := i * 65536, size := 65536, pte := w, ptePa := 0x104000 + 8 * i }

/-- Pages 0 to 11: code; data; DISCARDED; ZERO; a fibre page; data of key 5; MIGRATING; SWAPPED; read only; two fibre pages for reading; data. -/
def leaves : List Word :=
  [leaf 5 0 0 0 0x200000, leaf 3 0 0 0 0x210000, leaf 3 0 4 0 0x220000, leaf 3 0 1 0 0, leaf 3 1 0 0 0x230000, leaf 3 0 0 5 0x240000, leaf 3 0 3 0 0x250000,
   leaf 3 0 2 0 0x260000, leaf 1 0 0 0 0x270000, leaf 3 1 0 0 0x280000, leaf 1 1 0 0 0x290000, leaf 3 0 0 0 0x2A0000]

/-- The page table of process 1: four levels of one table each above the leaves. -/
def tables : Map Word :=
  [(0x100000 / 8, 0x101001), (0x101000 / 8, 0x102001), (0x102000 / 8, 0x103001), (0x103000 / 8, 0x104001)] ++ leaves.zipIdx.map (fun p => (0x104000 / 8 + p.2, p.1))

/-- Core 0 runs task 1 of process 1 and tenant 1, with a handler and a partition of the cluster store. -/
def base : State :=
  { core := { run := .running, pc := 0x1000, tvec := 0x8000, task := some 1, proc := 1, tenant := 1, clsz := 0x100000 }
    ptes := tables
    procs := [(1, { tenant := 1, root := 0x100000, hasp := 0x10040 })]
    tasks := [(1, { num := 1, tenant := 1, proc := 1, prio := 1, status := .running })]
    tenants := [(1, { live := true, cls := [(0, 0, 0x100000)] })] }

/-- Exact registers, estimates, changes of the core, its fabric and plane 0, bytes of DRAM. -/
def gs (l : List (Reg × Word)) (s : State) : State := l.foldl (fun s p => s.setReg p.1 p.2 false) s
def es (l : List (Reg × Word)) (s : State) : State := l.foldl (fun s p => s.setReg p.1 p.2 true) s
def withPlane (n : Nat) (p : Plane) (s : State) : State := s.modFab (fun f => { f with planes := Map.set f.planes n p })

/-- An outcome that goes on, and its state. -/
def goes (o : Out) : Bool := match o with
  | .next _ => true
  | _ => false

theorem goes_next {o : Out} (h : goes o = true) : ∃ t, o = .next t := by
  cases o with
  | next t => exact ⟨t, rfl⟩
  | fault => cases h
  | refused => cases h

/-! ### One step each, the results worked out by hand from the rules -/

/-- The state behind an instruction. -/
def after (i : Instr) (s : State) : State := match exec i s with
  | .next t => t
  | _ => s

/-- R150: the sum wraps; PC goes on by 4. -/
theorem test_add_wraps : let t := after (.add 3 1 2) (gs [(1, 0xFFFFFFFFFFFFFFFF), (2, 2)] base); t.reg 3 = 1 ∧ t.core.pc = 0x1004 := by decide +kernel

/-- R150: a literal is sign-extended; R119: the instruction is eight bytes. -/
theorem test_sub_literal : let t := after (.subLit 3 1 0xFFFFFFFF) (gs [(1, 5)] base); t.reg 3 = 6 ∧ t.core.pc = 0x1008 := by decide +kernel

/-- R150: the high half of (-1) × 2 is -1 signed and 1 unsigned. -/
theorem test_mulh_signs : let s := gs [(1, 0xFFFFFFFFFFFFFFFF), (2, 2)] base
    (after (.mulh 3 1 2) s).reg 3 = 0xFFFFFFFFFFFFFFFF ∧ (after (.mulhn 3 1 2) s).reg 3 = 1 := by decide +kernel

/-- R151: the least integer divided by -1 is itself, its remainder 0; a division by zero gives all ones. -/
theorem test_div_corners : let s := gs [(1, 0x8000000000000000), (2, 0xFFFFFFFFFFFFFFFF)] base
    (after (.div 3 1 2) s).reg 3 = 0x8000000000000000 ∧ (after (.rem 3 1 2) s).reg 3 = 0 ∧ (after (.div 3 1 0) s).reg 3 = 0xFFFFFFFFFFFFFFFF ∧
      (after (.rem 3 1 0) s).reg 3 = 0x8000000000000000 := by decide +kernel

/-- R150: -7 / 2 is -3 with remainder -1: toward zero, the sign of the dividend. -/
theorem test_div_rounds_to_zero : let s := gs [(1, 0xFFFFFFFFFFFFFFF9), (2, 2)] base
    (after (.div 3 1 2) s).reg 3 = 0xFFFFFFFFFFFFFFFD ∧ (after (.rem 3 1 2) s).reg 3 = 0xFFFFFFFFFFFFFFFF := by decide +kernel

/-- R150: shift counts are taken modulo 64. -/
theorem test_shift_count : let s := gs [(1, 0x8000000000000001), (2, 65)] base
    (after (.sll 3 1 2) s).reg 3 = 2 ∧ (after (.sra 3 1 2) s).reg 3 = 0xC000000000000000 := by decide +kernel

/-- R121: E is the OR of the operands' E bits; g0 stays exact and zero. -/
theorem test_estimate_spreads : let s := es [(1, 1)] base
    (after (.add 3 1 2) s).tag 3 = true ∧ (after (.add 0 1 1) s).reg 0 = 0 ∧ (after (.add 0 1 1) s).tag 0 = false := by decide +kernel

/-- R38: 1 + 2^-24 is a tie, which goes to the even 1 under RNE and to the next value under RUP. -/
theorem test_fadd_ties : let s := gs [(1, 0x3F800000), (2, 0x33800000)] base
    (after (.fadd 3 1 2 0 false) s).reg 3 = 0x3F800000 ∧ (after (.fadd 3 1 2 3 false) s).reg 3 = 0x3F800001 := by decide +kernel

/-- R42: an overflow gives infinity, with SAT the largest finite value. -/
theorem test_fmul_overflow : let s := gs [(1, 0x7F7FFFFF), (2, 0x40000000)] base
    (after (.fmul 3 1 2 0 false) s).reg 3 = 0x7F800000 ∧ (after (.fmul 3 1 2 0 true) s).reg 3 = 0x7F7FFFFF := by decide +kernel

/-- R62: the product of FMA is not rounded: (1 + 2^-12)² − (1 + 2^-11) is 2^-24. -/
theorem test_fma_exact_product : (after (.fma 3 1 2 0 false) (gs [(1, 0x3F800800), (2, 0x3F800800), (3, 0xBF801000)] base)).reg 3 = 0x33800000 := by decide +kernel

/-- R65: a NaN is unordered: only NE and the unordered condition hold. -/
theorem test_fcmp_nan : let s := gs [(1, 0x7FC00000), (2, 0)] base
    (after (.fcmp 3 1 2 0) s).reg 3 = 0 ∧ (after (.fcmp 3 1 2 1) s).reg 3 = 1 ∧ (after (.fcmp 3 1 2 6) s).reg 3 = 1 ∧ (after (.fcmp 3 1 2 7) s).reg 3 = 0 := by decide +kernel

/-- R165: a branch taken backward; R166: JALR with its link in its own base. -/
theorem test_control : let s := gs [(1, 0x2000)] base
    (after (.bne 1 0 0x1FFF) s).core.pc = 0xFFC ∧ (after (.jalr 1 1 8) s).core.pc = 0x2008 ∧ (after (.jalr 1 1 8) s).reg 1 = 0x1004 := by decide +kernel

/-- R2, R126: bytes lie lowest first; LD.H extends the sign, LD.HN zeros. -/
theorem test_store_then_load : let s := gs [(1, 0x100), (2, 0x11228081)] base
    let t := after (.sw 2 1 1 0) s
    (after (.ldB 3 1 1 0) t).reg 3 = 0xFFFFFFFFFFFFFF81 ∧ (after (.ldH 3 1 1 0) t).reg 3 = 0xFFFFFFFFFFFF8081 ∧ (after (.ldHn 3 1 1 2) t).reg 3 = 0x1122 := by decide +kernel

/-- R160: an ATOM returns the old word and stores the sum modulo 2^32. -/
theorem test_atom_add : let s := gs [(1, 0x100), (2, 1)] (after (.sw 2 1 1 0) (gs [(1, 0x100), (2, 0xFFFFFFFF)] base))
    let t := after (.atomAdd 3 1 2 1 false) s
    t.reg 3 = 0xFFFFFFFF ∧ (after (.ldWn 3 1 1 0) t).reg 3 = 0 := by decide +kernel

/-- R179, R182: a misaligned load's frame. -/
theorem test_align_frame : let t := after (.ldW 3 1 1 0) (gs [(1, 2)] base)
    t.core.tcause = 3 ∧ t.core.tval = 2 ∧ t.core.tpc = 0x1000 ∧ t.core.pc = 0x8000 ∧ t.core.tstat = 1 := by decide +kernel

theorem witness_FloatForms : (0 : BitVec 3).toNat ≤ 4 ∧ (4 : BitVec 3).toNat ≤ 4 ∧ (3 : Reg) ≠ 0 ∧ isNaNWord (low32 ((gs [(1, 0x7F800001)] base).reg 1)) = true ∧
    (∃ t, exec (.fadd 3 1 2 4 true) (gs [(1, 0x7F800001)] base) = .next t) ∧ (∃ t, exec (.fmulLit 3 1 0x7F800001 0 false) base = .next t) ∧
    (isNaNWord (low32 ((gs [(3, 0xFFC00000)] base).reg 3)) = true ∧ ∃ t, exec (.fma 3 1 2 0 false) (gs [(3, 0xFFC00000)] base) = .next t) :=
  by refine ⟨?_, ?_, ?_, ?_, goes_next ?_, goes_next ?_, ?_, goes_next ?_⟩ <;> decide +kernel

/-- R38, R42, R62: every case of the statement that was worked out by hand holds on a state. -/
theorem test_rounded_cases :
    roundedForms.all (fun f => f.2.2.all (fun k =>
      (after (f.1 3 1 2 k.1 k.2.1) (gs [(1, fromLow32 k.2.2.1), (2, fromLow32 k.2.2.2.1)] base)).reg 3 == fromLow32 k.2.2.2.2)) = true ∧
    rootCases.all (fun k => (after (.fsqrt 3 1 k.1 false) (gs [(1, fromLow32 k.2.1)] base)).reg 3 == fromLow32 k.2.2) = true ∧
    fusedCases.all (fun k => (after (.fma 3 1 1 k.1 false) (gs [(1, 0x3F800001), (3, 0xBF800000)] base)).reg 3 == fromLow32 k.2) = true := by decide +kernel

theorem witness_ConversionsAndAccept : (Instr.fcvt 10 11 9 0 false 8).wellFormed = true ∧ (Instr.fcvt 10 11 0xD 4 true 0xC).wellFormed = true ∧
    (Instr.accept 3 1 2 false 0x3F800000).wellFormed = true ∧
    (let s := gs [(1, 0x7F7FFFFF), (2, 0xBF800000)] base; acceptTest false (s.reg 1) (low32 (s.reg 2)) 0x3F800000 = true) ∧
    (let s := gs [(1, 0x7F800000), (2, 0)] base; acceptTest false (s.reg 1) (low32 (s.reg 2)) 0x3F800000 = false) ∧
    base.core.ta = false ∧ base.core.tvec ≠ 0 := by decide +kernel

theorem witness_BranchesAndJumps :
    let s := gs [(1, 0xFFFFFFFFFFFFFFFC), (2, 2)] base
    s.tag 1 = false ∧ s.tag 2 = false ∧ (s.reg 1 + (4 : BitVec 16).signExtend 64).toNat % 4 = 0 ∧ (s.reg 2 + (0xFFFF : BitVec 16).signExtend 64).toNat % 4 ≠ 0 := by
  decide +kernel

/-- An instruction line at the words of page 0 around PC. -/
def cachedLine (line : Nat) (ws : List Nat) (s : State) : State :=
  s.modCore (fun c => { c with icache := { proc := c.proc, line := line, bytes := (wordBytes ws ++ List.replicate 64 0).take 64 } :: c.icache })

theorem witness_HardwareLoop :
    0 < (1 : BitVec 13).toInt ∧ base.tag 1 = false ∧ ((gs [(1, 0x100000001)] base).reg 1).toNat % 2 ^ 32 ≠ 0 ∧
    (let s := cachedLine 0x40 [0, 0x04611000] (gs [(1, 0x100000000)] base)
     (s.reg 1).toNat % 2 ^ 32 = 0 ∧ s.core.iword (s.core.pc + BitVec.ofInt 64 (4 * (1 : BitVec 13).toInt)) = some 0x04611000) ∧
    (let s := base.modCore (fun c => { c with lend := 0x1000, lstart := 0x800, lcnt := 1 })
     goes (exec (.add 3 1 2) s) = true ∧ s.core.pc = s.core.lend ∧ s.core.ta = false ∧ s.core.lcnt = 1) ∧
    (let s := base.modCore (fun c => { c with lend := 0x1000, lstart := 0x800, lcnt := 2 })
     goes (exec (.add 3 1 2) s) = true ∧ s.core.pc = s.core.lend ∧ s.core.ta = false ∧ s.core.lcnt ≠ 0 ∧ s.core.lcnt ≠ 1) ∧
    (let s := base.modCore (fun c => { c with lend := 0x1000, lcnt := 2, tstat := 1 })
     goes (exec (.add 3 1 2) s) = true ∧ s.core.pc = s.core.lend ∧ s.core.ta = true) := by decide +kernel

theorem witness_CoreRegisters :
    registerContents.any (fun p => p.1 == 0x061) = true ∧ registerContents.all (fun p => p.1 != 0x3FF) = true ∧ base.tag 1 = false ∧
    writableRegisters.any (fun p => p.1 == 0x022) = true ∧ (0x061 : BitVec 10) ∈ protectedRegisters ∧
    (let s := gs [(1, 0xFFFF0001)] base; (s.reg 1).toNat % 16 = 1 ∧ (s.reg 1).toNat / 65536 % 65536 ≠ 0) ∧
    (let s := withPlane 3 { state := .ready } (gs [(1, 0xFFFFFFFF00000007)] base)
     (s.reg 1).getLsbD 0 = true ∧ s.core.fab.switch = none ∧ (s.core.fab.plane ((s.reg 1).toNat / 2 % 4)).state = .ready) ∧
    (let s := gs [(1, 1)] base
     (s.reg 1).getLsbD 0 = true ∧ s.core.fab.switch = none ∧ (s.core.fab.plane ((s.reg 1).toNat / 2 % 4)).state ≠ .ready) ∧
    (let s := (gs [(1, 1)] base).modFab (fun f => { f with switch := some {} }); (s.reg 1).getLsbD 0 = true ∧ s.core.fab.switch ≠ none) := by decide +kernel

theorem witness_TrapEntryAndReturn :
    base.core.ta = false ∧ (base.modCore (fun c => { c with tvec := 0 })).core.tvec = 0 ∧ (base.modCore (fun c => { c with tstat := 3 })).core.ta = true ∧
    (base.modCore (fun c => { c with tstat := 1 })).core.tstat.getLsbD 0 = true := by decide +kernel

theorem witness_AsyncTrapTaken :
    (let s := base.modCore (fun c => { c with asyncs := [{ cause := 16, value := 5 }], tstat := 1 })
     s.core.asyncs = [{ cause := 16, value := 5 }] ∧ s.core.ta = true) ∧
    (let s := base.modCore (fun c => { c with asyncs := [{ cause := 16, value := 5 }], wait := .reply }); s.core.ta = false ∧ s.boundaryWaits = true) ∧
    (let s := base.modCore (fun c => { c with asyncs := [{ cause := 12, value := 0x10041 }, { cause := 16, value := 5 }], wait := .hasp 0x210040 })
     s.core.asyncs = [{ cause := 12, value := 0x10041 }, { cause := 16, value := 5 }] ∧ s.core.ta = false ∧ s.boundaryWaits = false ∧ s.core.tvec ≠ 0 ∧
       s.core.wait = .hasp 0x210040 ∧ (s.taskAt s.taskNum).wake ≠ some 0x210040) := by decide +kernel

theorem witness_RefusedForms :
    (Instr.fadd 1 2 3 5 false).encoded = true ∧ (Instr.fadd 1 2 3 5 false).wellFormed = false ∧
    (let i := Instr.cpy { gd := 1, gs := 2, len := 3, ch := 0, ssp := 0, dsp := 1, ei := false, est := false, fl := { acq := true, rel := false, hr := 4 } }
     let s := es [(3, 0), (4, 0)] base
     i.encoded = true ∧ i.wellFormed = true ∧ valuesLegal i s = true ∧ (exactOnly i).find? (fun q => s.tag q) = some 3) := by decide +kernel

theorem witness_SoftwareTraps :
    base.core.ta = false ∧ base.core.tvec ≠ 0 ∧ (base.taskAt base.taskNum).debug = false ∧
    (let s := base.modTask 1 (fun t => { t with debug := true }); (s.taskAt s.taskNum).debug = true) ∧
    (∀ r ∈ ([1, 2, 3, 4, 5, 6] : List Reg), base.tag r = false) ∧ 10 < (11 : BitVec 16).toNat ∧ (10 : BitVec 16).toNat ≤ 10 ∧
    base.core.task = some 1 ∧ Map.find base.tasks 1 = some (Map.get {} base.tasks 1) ∧ (Map.get {} base.tasks 1).request = none ∧
    (let s := base.modTask 1 (fun t => { t with request := some (1, [0, 0, 0, 0, 0, 0]), reply := some 7 })
     let k := Map.get {} s.tasks 1
     k.request = some ((1 : BitVec 16).toNat, [s.reg 1, s.reg 2, s.reg 3, s.reg 4, s.reg 5, s.reg 6]) ∧ k.reply = some 7) := by decide +kernel

/-- Task 2 stands in the queue of die 0. -/
def queued : State :=
  { base with
    tasks := base.tasks ++ [(2, { num := 2, tenant := 1, proc := 1, prio := 1, entry := 0x2000, arg := 9 })]
    dies := [(0, { weights := [(1, 1)], queues := [(1 * 4 + 1, [2])], onChip := [2] })] }

theorem witness_ThreadLeaves :
    base.choose base.core = none ∧ queued.choose queued.core = some (2, 1, 1) ∧ queued.tenantHeld queued.core.stack queued.core.tenant = false ∧
    base.core.task = some 1 ∧ Map.find base.tasks 1 = some (Map.get {} base.tasks 1) ∧ base.commandsPending = false ∧
    ¬ (base.core.fab.streamed = true ∧ base.core.fab.launch = 1) ∧ base.brokenGroup 1 = none ∧ (Map.get {} base.tasks 1).groups = [] ∧
    (base.modCore (fun c => { c with flights := [], engines := [(0, { queue := [{}] })] })).commandsPending = true := by decide +kernel

/-- Process 1 has a binding in slot 3. -/
def bound : State :=
  base.modProc 1 (fun p => { p with slots := [(3, { handle := 0x100010003, gen := 1, binding := some { gen := 1, entry := 0x2000, prio := 3 } })] })

theorem witness_Spawn :
    let s := gs [(1, 0x100010003)] bound
    let b : Binding := { gen := 1, entry := 0x2000, prio := 3 }
    s.tag 1 = false ∧ s.tag 2 = false ∧ s.bindingOf (s.reg 1) s.core.tenant = some (1, b) ∧ s.tenantHeld b.die s.core.tenant = false ∧
    s.slotAvailable b.die s.core.tenant = true ∧ base.bindingOf (base.reg 1) base.core.tenant = none ∧
    (let s := s.modDie (fun d => { d with heldTenants := [1] }); s.bindingOf (s.reg 1) s.core.tenant = some (1, b) ∧ s.tenantHeld b.die s.core.tenant = true) := by
  decide +kernel

/-- A dirty line of the data cache over page 1. -/
def cached : State :=
  base.modCore (fun c => { c with dcache := [{ line := 0x210000 / 64, dirty := 1, bytes := 0xAB :: List.replicate 63 0 }] })

theorem witness_FenceI : cached.core.CacheWf := by unfold Core.CacheWf; decide +kernel

/-- The head access of a target stands at bank 1 of act:. -/
def bankBusy : State := base.modFab (fun f => { f with ops := [(0, { out := [{ space := 0, addr := 8 }] })] })

/-- The last `n` bytes of act:, wgt: and the partition of the cluster store; a bank that grants the thread, one that does not. -/
theorem witness_BufferLoads :
    (let s := gs [(1, 8)] bankBusy
     s.BankGrants 1 0 8 ∧ s.BankGrants 2 8 8 ∧ s.BankGrants 3 8 8 ∧ ¬ s.BankGrants 1 (s.effAddr 1 0).toNat 8 ∧ InBuffer 1 (s.effAddr 1 0) 8 ∧
       LinesFull 1 s (s.effAddr 1 0).toNat 8 ∧ LinesExact 1 s (s.effAddr 1 0).toNat 8) ∧
    (let s := gs [(1, 196600)] base
     s.tag 1 = false ∧ (s.effAddr 1 0).toNat % 8 = 0 ∧ InBuffer 1 (s.effAddr 1 0) 8 ∧ LinesFull 1 s (s.effAddr 1 0).toNat 8 ∧
       LinesExact 1 s (s.effAddr 1 0).toNat 8) ∧
    (let s := (gs [(1, 65532)] base).modCore (fun c => { c with wgt := { est := [(511, true)] } })
     (s.effAddr 1 0).toNat % 4 = 0 ∧ InBuffer 2 (s.effAddr 1 0) 4 ∧ LinesFull 2 s (s.effAddr 1 0).toNat 4) ∧
    (let s := gs [(1, 0x100000)] base
     (s.effAddr 1 (-8)).toNat % 8 = 0 ∧ (s.effAddr 1 (-8)).toNat + 8 ≤ s.core.clsz.toNat ∧ s.cluster.badWords = []) := by
  unfold InBuffer LinesFull LinesExact State.BankGrants; decide +kernel

/-- A dirty line of page 5, cached before the page got key 5. -/
def keyed : State := base.modCore (fun c => { c with dcache := [{ line := 0x240000 / 64, dirty := 1, bytes := 0xAB :: List.replicate 63 0 }] })
theorem keyed_line (s : State) (h : s.core.CacheWf ∧ (s.core.dline (0x240000 / 64)).any (fun l => l.key != pteKey (leaf 3 0 0 5 0x240000)) = true) :
    LineRetagged 0x240000 (page 5 (leaf 3 0 0 5 0x240000)) s := by
  refine ⟨h.1, ?_⟩
  obtain ⟨l, hl, hk⟩ := (Option.any_eq_true _ _).1 h.2
  exact ⟨l, hl, by rw [bne_iff_ne] at hk; exact hk⟩

theorem witness_MemoryLoads :
    (let s := gs [(1, 0x1FFF8)] base
     s.tag 1 = false ∧ (s.effAddr 1 0).toNat % 8 = 0 ∧ 0x21FFF8 % 8 = 0 ∧ PlainPage 0 (s.effAddr 1 0) 0x21FFF8 (page 1 (leaf 3 0 0 0 0x210000)) s ∧
       LineTagged 0x21FFF8 (page 1 (leaf 3 0 0 0 0x210000)) s ∧ LineTagged 0x210000 (page 1 (leaf 3 0 0 0 0x210000)) cached) ∧
    (let s := gs [(1, 0x50000)] keyed
     PlainPage 0 (s.effAddr 1 0) 0x240000 (page 5 (leaf 3 0 0 5 0x240000)) s ∧ LineRetagged 0x240000 (page 5 (leaf 3 0 0 5 0x240000)) s) ∧
    (let s := gs [(1, 0x20000)] base
     canonical (s.effAddr 1 0) = true ∧ s.translate s.core.proc 0 false (va57 (s.effAddr 1 0)) = .zeros (page 2 (leaf 3 0 4 0 0x220000)) ∧
       s.isUnitPage (va57 (s.effAddr 1 0)) = false) := by
  unfold PlainPage LineTagged
  exact ⟨by decide +kernel, ⟨by decide +kernel, keyed_line _ (by unfold Core.CacheWf; decide +kernel)⟩, by decide +kernel⟩

theorem witness_BufferStores :
    (let s := gs [(1, 8)] bankBusy
     s.BankGrants 1 0 8 ∧ ¬ s.BankGrants 1 (s.effAddr 1 0).toNat 8 ∧ InBuffer 1 (s.effAddr 1 0) 8) ∧
    (let s := gs [(1, 65528)] base
     s.tag 1 = false ∧ (s.effAddr 1 0).toNat % 8 = 0 ∧ InBuffer 3 (s.effAddr 1 0) 8 ∧ s.tag 2 = false) ∧
    (let s := es [(2, 7)] ((gs [(1, 0)] base).modCore (fun c => { c with act := { est := [(0, true)] } }))
     InBuffer 1 (s.effAddr 1 0) 8 ∧ s.tag 2 = true ∧ LinesFull 1 s (s.effAddr 1 0).toNat 8 ∧
       ∀ x, (s.effAddr 1 0).toNat ≤ x → x < (s.effAddr 1 0).toNat + 8 → (s.core.buf 1).isEst (x / 128) = true) ∧
    (let s := gs [(1, 0xFFFF8)] base; s.tag 2 = false ∧ (s.effAddr 1 0).toNat + 8 ≤ s.core.clsz.toNat) := by
  unfold InBuffer LinesFull State.BankGrants; decide +kernel

theorem witness_MemoryStores :
    let s := gs [(1, 0x10000), (2, 5)] cached
    s.tag 1 = false ∧ s.tag 2 = false ∧ (s.effAddr 1 0).toNat % 8 = 0 ∧ 0x210000 % 8 = 0 ∧ s.core.CacheWf ∧
    PlainPage 1 (s.effAddr 1 0) 0x210000 (page 1 (leaf 3 0 0 0 0x210000)) s ∧ LineTagged 0x210000 (page 1 (leaf 3 0 0 0 0x210000)) s ∧
    (let s := gs [(1, 0x50000)] keyed
     PlainPage 1 (s.effAddr 1 0) 0x240000 (page 5 (leaf 3 0 0 5 0x240000)) s ∧ LineRetagged 0x240000 (page 5 (leaf 3 0 0 5 0x240000)) s) := by
  unfold PlainPage LineTagged
  refine ⟨?_, ?_, ?_, ?_, by unfold Core.CacheWf; decide +kernel, ?_, ?_,
    ?_, keyed_line _ (by unfold Core.CacheWf; decide +kernel)⟩ <;> try decide +kernel

theorem witness_BufferAtomics :
    (let s := gs [(1, 8)] bankBusy
     s.BankGrants 1 0 8 ∧ ¬ s.BankGrants 1 (s.reg 1).toNat 8 ∧ InBuffer 1 (s.reg 1) 8) ∧
    (let s := gs [(1, 196600)] base
     s.tag 1 = false ∧ s.tag 2 = false ∧ s.tag 3 = false ∧ (s.reg 1).toNat % 8 = 0 ∧ InBuffer 1 (s.reg 1) 8 ∧ LinesFull 1 s (s.reg 1).toNat 8 ∧
       LinesExact 1 s (s.reg 1).toNat 8) ∧
    (let s := gs [(1, 0xFFFFC)] base; (s.reg 1).toNat % 4 = 0 ∧ (s.reg 1).toNat + 4 ≤ s.core.clsz.toNat ∧ s.cluster.badWords = []) := by
  unfold InBuffer LinesFull LinesExact State.BankGrants; decide +kernel

theorem witness_MemoryAtomics :
    let s := gs [(1, 0x10000)] cached
    s.tag 1 = false ∧ s.tag 2 = false ∧ s.tag 3 = false ∧ s.core.CacheWf ∧ PlainPage 1 (s.reg 1) 0x210000 (page 1 (leaf 3 0 0 0 0x210000)) s ∧
    pteR (leaf 3 0 0 0 0x210000) = true ∧ (s.reg 1).toNat % 8 = 0 := by unfold Core.CacheWf PlainPage; decide +kernel

theorem witness_LineMarks :
    let s := gs [(1, 65408), (2, 1)] base
    s.tag 1 = false ∧ s.tag 2 = false ∧ (s.reg 1).toNat % 128 = 0 ∧ InBuffer 2 (s.reg 1) (128 * (s.reg 2).toNat) ∧ InBuffer 2 (s.reg 1) 1 ∧
    s.BankGrants 2 (s.reg 1).toNat (128 * (s.reg 2).toNat) ∧ ¬ bankBusy.BankGrants 1 0 128 ∧
    (∀ l, (s.core.buf 2).full l = true) ∧
    (let s := (gs [(1, 65280), (2, 2)] base).modCore (fun c => { c with wait := .marks 1, wgt := { empty := [(511, true)] } })
     s.BankGrants 2 ((s.reg 1).toNat + 128) 128 ∧ (s.core.buf 2).full 511 = false) := by
  refine ⟨?_, ?_, ?_, ?_, ?_, ?_, ?_, fun _ => rfl, ?_⟩ <;> (try unfold InBuffer) <;> (try unfold State.BankGrants) <;> decide +kernel

theorem witness_AccessTraps :
    (let s := gs [(1, 3)] base; s.tag 1 = false ∧ s.tag 2 = false ∧ (4 : BitVec 3).toNat < 5 ∧ (s.effAddr 1 0).toNat % 4 ≠ 0) ∧
    (let s := gs [(1, 196608)] base; (s.effAddr 1 0).toNat % 8 = 0 ∧ ¬ InBuffer 1 (s.effAddr 1 0) 8) ∧
    (let s := gs [(1, 0x100000)] base; s.core.clsz.toNat < (s.effAddr 1 0).toNat + 1) ∧
    (let s := gs [(1, 0x0100000000000000)] base; canonical (s.effAddr 1 0) = false) ∧
    (∀ f ∈ [none, some 0x80000],
      let s := (gs [(1, 0x80000)] base).modCore (fun c => { c with fatal := f })
      canonical (s.effAddr 1 0) = true ∧ s.translate s.core.proc 1 false (va57 (s.effAddr 1 0)) = .right ∧
        (s.core.fatal = some (va57 (s.effAddr 1 0)) ↔ f.isSome = true) ∧ s.faultSent .thread (s.effAddr 1 0) = false ∧ s.core.faults = []) ∧
    (let s := (gs [(1, 65528)] base).modCore (fun c => { c with acc := { est := [(511, true)] } })
     InBuffer 3 (s.effAddr 1 0) 8 ∧ LinesFull 3 s (s.effAddr 1 0).toNat 8 ∧ (s.core.buf 3).isEst ((s.effAddr 1 0).toNat / 128) = true) ∧
    (let s := es [(2, 1)] (gs [(1, 65528)] base)
     s.tag 1 = false ∧ s.tag 2 = true ∧ (s.effAddr 1 0).toNat % 8 = 0 ∧ InBuffer 3 (s.effAddr 1 0) 8 ∧ LinesExact 3 s (s.effAddr 1 0).toNat 8) := by
  unfold InBuffer LinesFull LinesExact; decide +kernel

/-- A DENSE record of four fp32 values at 0x10000, its words as R189 orders them; its address on page 1 is 0x10040. -/
def record : List Nat := [0x10000, 0, 0, 0, 4, 4, 0, 0, 0, 0, 0, 0, 0, 0, 0, 0]
def recorded (ws : List Nat) (s : State) : State := withPlane 0 { state := .active } (gs [(2, 0x10040), (4, 0x10080)] (s.setMem 0x210040 (wordBytes ws)))
def data : TlbEntry := page 1 (leaf 3 0 0 0 0x210000)
def both : HaspFlags := { acq := true, rel := true, hr := 4 }
def flagless : HaspFlags := { acq := false, rel := false, hr := 0 }

theorem witness_Streams :
    (let s := recorded record base
     let p := patternOf 0x10040 (memoryBytes s 0x210040 64)
     streamParts (.srd 0 3 2 both) s = some (0, 0, 3, 0x10040, both) ∧ (Instr.srd 0 3 2 both).wellFormed = true ∧ AllExact (.srd 0 3 2 both) s ∧
       (0x10040 : Word).toNat % 64 = 0 ∧ PlainPage 0 0x10040 0x210040 data s ∧ p.refused 0 = [] ∧ p.misaligned = none ∧ s.patternProt p = none ∧ p.kind ≤ 1 ∧
       s.core.fab.epochPlane = some 0 ∧ (s.core.fab.plane 0).portUsed 3 = false ∧ (s.core.engine 0).queue.length < 8 ∧ LineTagged 0x210040 data s) ∧
    (let s := recorded record base
     FlagsAt both (s.recordRead 0x210040 data) { ref := 0x10080, hid := 0x210080, acq := true, rel := true } ((s.recordRead 0x210040 data).touch data true)) ∧
    (let s := recorded record base; FlagsAt flagless s { order := 0 } s) ∧
    (let s := recorded [0x10000, 0, 1, 0, 4, 4, 0, 0, 0, 0, 0, 0, 0, 0, 0, 0] base
     ((patternOf 0x10040 (memoryBytes s 0x210040 64)).refused 0).head? = some 8 ∧ AllExact (.srd 0 3 2 flagless) s ∧ PlainPage 0 0x10040 0x210040 data s ∧
       streamParts (.srd 0 3 2 flagless) s = some (0, 0, 3, 0x10040, flagless)) ∧
    (let s := recorded [0x10002, 0, 0, 0, 4, 4, 0, 0, 0, 0, 0, 0, 0, 0, 0, 0] base
     let p := patternOf 0x10040 (memoryBytes s 0x210040 64)
     p.refused 0 = [] ∧ p.misaligned = some 0x10002) ∧
    (let s := gs [(2, 0x10041)] base; streamParts (.srd 0 3 2 flagless) s = some (0, 0, 3, 0x10041, flagless) ∧ (0x10041 : Word).toNat % 64 ≠ 0) := by
  unfold AllExact PlainPage LineTagged
  refine ⟨by decide +kernel, ?_, .none rfl rfl, by decide +kernel, by decide +kernel, by decide +kernel⟩
  refine .some _ _ ?_ ?_ (.memory _ data { data with pte := data.pte ||| 0x800 } ?_ ?_ ?_
    ?_ ?_ ?_ ?_ ?_) <;> try decide +kernel

/-- The headers of a SCAN, a PROBE and a MERGE record, on fibre pages for reading and for writing. -/
theorem witness_Streams_headers :
    let s := base
    (∃ v, HeaderAt { base := 0xA0000, ctrl := 0x4000 } s v) ∧ (∃ v, HeaderAt { xbase := 0xA0000, ctrl := 0x6000 } s v) ∧
    ∃ v, HeaderAt { base := 0x90000, ctrl := 0x8000 } s v :=
  ⟨⟨_, .scan 0x290000 (page 10 (leaf 1 1 0 0 0x290000)) (by decide) (by unfold FibreAt; decide +kernel)⟩,
   ⟨_, .probe 0x290000 (page 10 (leaf 1 1 0 0 0x290000)) (by decide) (by unfold FibreAt; decide +kernel)⟩,
   ⟨_, .merge 0x280000 (page 9 (leaf 3 1 0 0 0x280000)) (by decide) (by unfold FibreAt; decide +kernel)⟩⟩

theorem witness_UnitWaits :
    (let s := base.modCore (fun c => { c with engines := [(0, { queue := [{ port := 4 }], slots := [(0, { cmd := { port := 5 } })] })] })
     ∀ g ∈ s.core.engines, (∀ q ∈ g.2.queue, q.port ≠ (3 : Reg).toNat) ∧ (∀ x ∈ g.2.slots, x.2.cmd.port ≠ (3 : Reg).toNat) ∧
       (∀ x ∈ g.2.ending, x.cmd.port ≠ (3 : Reg).toNat)) ∧
    (let s := (gs [(1, 64)] base).modCore (fun c => { c with chans := [(3, { wp := 64 })] })
     (3 : BitVec 3).toNat < 4 ∧ s.tag 1 = false ∧ (s.reg 1).toNat ≤ (s.core.chan (3 : BitVec 3).toNat).wp.toNat) ∧
    (let s := (gs [(1, 128)] base).modCore (fun c => { c with chans := [(3, { wp := 64, gone := 64 }), (2, { queue := [{}], wp := 64, gone := 64 })] })
     (s.core.chan 3).queue = [] ∧ (s.reg 1).toNat ≤ (s.core.chan 3).wp.toNat + (s.core.chan 3).gone ∧ (s.core.chan 2).queue ≠ [] ∧
       (s.core.chan 2).wp.toNat < (s.reg 1).toNat ∧ (s.core.chan 2).queue.length ≤ 8) ∧
    base.matrixBusy 3 = false ∧ (base.core.engine 3).queue.length ≤ 8 := by decide +kernel

theorem witness_UnitWaits_ports (k : Nat) : (Map.get [] base.core.fab.inq k).length ≤ 16 ∧ (Map.get [] base.core.fab.outq k).length ≤ 16 := ⟨Nat.zero_le _, Nat.zero_le _⟩

/-- Task 1 owns weight slot 5. -/
def slotted : State := base.modCluster (fun c => { c with wslots := [(5, { owner := some 1 })] })

theorem witness_CopyAccepted :
    let c : CopyArgs := { gd := 1, gs := 2, len := 3, ch := 3, ssp := 4, dsp := 1, ei := true, est := true, fl := both }
    let m : MmulArgs := { gd := 5, a := 6, opnd := 7, s := 1, fmt := 1, fl := flagless }
    let s := gs [(1, 64), (2, 0xFFF00), (3, 256), (4, 0xFFFC0 + 0x8000000000000000), (5, 0), (6, 128), (7, 5 + 1 * 256)] slotted
    c.legal = true ∧ CopyFits c s ∧ (s.core.chan 3).queue.length < 8 ∧ AllExact (.cpy c) s ∧ m.legal = true ∧ AllExact (.cpym c m) s ∧
    valuesLegal (.cpym c m) s = true ∧ MmulFits m 128 128 s ∧ (∃ h, FlagsAt c.fl s h s) ∧ FlagsAt m.fl s { order := 0 } s := by
  unfold CopyFits AllExact MmulFits
  refine ⟨?_, ?_, ?_, ?_, ?_, ?_, ?_,
    ?_, ⟨_, .some _ _ ?_ ?_ (.cluster ?_ ?_ ?_)⟩, .none rfl rfl⟩ <;> try decide +kernel

theorem witness_PlaneLoads :
    (let s := gs [(1, 196480)] base
     s.tag 1 = false ∧ (s.reg 1).toNat % 128 = 0 ∧ (s.core.fab.plane 3).state = .empty ∧ s.core.ptrg.getLsbD 0 = false ∧ s.core.fab.loads.length < 4) ∧
    (let s := gs [(1, 196604), (2, 1)] base; s.tag 2 = false ∧ (s.reg 1).toNat % 4 = 0 ∧ (s.reg 1).toNat + 4 * (s.reg 2).toNat ≤ 196608 ∧ (s.reg 2).toNat ≠ 0) ∧
    (let s := gs [(1, 196608), (2, 0)] base; (s.reg 1).toNat + 4 * (s.reg 2).toNat ≤ 196608 ∧ (s.reg 2).toNat = 0) ∧
    (let s := (gs [(1, 128)] base).modCore (fun c => { c with ptrg := 7 })
     (s.reg 1).toNat % 128 = 0 ∧ s.core.ptrg.getLsbD 0 = true ∧ s.core.ptrg.toNat / 2 % 4 = (3 : BitVec 2).toNat) ∧
    (let s := withPlane 3 { state := .active } base; (s.core.fab.plane (3 : BitVec 2).toNat).state = .active) := by decide +kernel

theorem witness_PlaneSwitches :
    (let s := withPlane 0 { state := .active } (withPlane 3 { state := .ready } base)
     s.core.fab.switch = none ∧ (s.core.fab.plane (3 : BitVec 2).toNat).state = .ready ∧ s.core.fab.active = some 0 ∧ (0 : Nat) ≠ (3 : BitVec 2).toNat ∧ s.tag 1 = false) ∧
    (let s := withPlane 3 { state := .ready } base
     s.core.fab.switch = none ∧ (s.core.fab.plane (3 : BitVec 2).toNat).state = .ready ∧ s.core.fab.active = none) ∧
    (base.core.fab.switch = none ∧ (base.core.fab.plane (3 : BitVec 2).toNat).state ≠ .ready) ∧
    (let s := base.modFab (fun f => { f with switch := some {} }); s.core.fab.switch ≠ none ∧ s.tag 1 = false) := by decide +kernel

/-- A hasp of tenant 1 and key 5 at 0x10080, on page 1; its reference is in g4. -/
def hasped (v : Hasp) : State := (gs [(4, 0x10080)] base).setHasp 0x210080 v
def haspIn (s : State) : State := s.touch data true
def lockOf (owner : Nat) : Hasp := { mode := 0, init := true, key := 5, tenant := 1, p := owner }
def haspOfMode (m : Nat) : Hasp := { mode := m, init := true, key := 5, tenant := 1, p := if m = 1 then 1 else 0 }

theorem hasp_at (v : Hasp) (h : (hasped v).translate 1 1 false 0x10080 = .frame 0x210080 data) : HaspAt 0x10080 (hasped v) 0x210080 (haspIn (hasped v)) :=
  .memory _ data data (by decide +kernel) (by decide +kernel) h rfl (by decide +kernel)
    (by show base.walk 1 (va57 0x10080) = some data; decide +kernel) (by decide +kernel) (by decide +kernel)

/-- A free lock at the last line of the partition of the cluster store, and hasps of memory in each mode and role. -/
theorem witness_HaspLock :
    (let s := (gs [(4, 0x80000000000FFFC0)] base).setHasp (2 ^ 45 + 0xFFFC0) (lockOf 0xFFFFFFFF)
     s.tag 4 = false ∧ (s.reg 4).toNat % 64 = 0 ∧ HaspAt (s.reg 4) s (2 ^ 45 + 0xFFFC0) s ∧ HomeApart s (2 ^ 45 + 0xFFFC0) ∧ HaspOk s (2 ^ 45 + 0xFFFC0) s.core.tenant ∧
       (s.hasp (2 ^ 45 + 0xFFFC0)).wkind = 0 ∧ s.core.wait = .none ∧ s.core.task ≠ none ∧ s.taskNum < 2 ^ 32 ∧ s.relPending (2 ^ 45 + 0xFFFC0) s.core.accepted = false ∧
       (s.hasp (2 ^ 45 + 0xFFFC0)).p = 0xFFFFFFFF ∧ s.taskNum ≠ 0xFFFFFFFF) ∧
    (∀ v ∈ [lockOf 1, haspOfMode 1, haspOfMode 2, haspOfMode 3],
      let s := hasped v
      let u := haspIn s
      s.tag 4 = false ∧ (s.reg 4).toNat % 64 = 0 ∧ s.translate 1 1 false 0x10080 = .frame 0x210080 data ∧ HomeApart u 0x210080 ∧ HaspOk u 0x210080 s.core.tenant ∧
        (u.hasp 0x210080).wkind = 0 ∧ s.core.wait = .none ∧ s.core.task ≠ none ∧ s.taskNum < 2 ^ 32 ∧ u.relPending 0x210080 s.core.accepted = false ∧
        ReleaseFree u 0x210080 ∧ u.lockWaiter 0x210080 = none ∧ u.flipWaiters 0x210080 = []) ∧
    (let u := haspIn (hasped (lockOf 1)); (u.hasp 0x210080).mode = 0 ∧ (u.hasp 0x210080).p = (hasped (lockOf 1)).taskNum) := by
  unfold HomeApart HaspOk ReleaseFree Core.CacheWf
  refine ⟨⟨?_, ?_, ?_, ?_⟩, ?_, ?_⟩ <;> try decide +kernel
  exact .cluster (by decide +kernel) (by decide +kernel) (by decide +kernel)

/-- A barrier that its last arrival completes, a counter, a flip past the task's note, one that is not. -/
theorem witness_HaspPhases :
    (∀ v ∈ [haspOfMode 1, haspOfMode 3, { haspOfMode 3 with phase := true }],
      let s := hasped v
      let u := haspIn s
      s.tag 4 = false ∧ s.tag 2 = false ∧ (s.reg 4).toNat % 64 = 0 ∧ s.translate 1 1 false 0x10080 = .frame 0x210080 data ∧ HaspOk u 0x210080 s.core.tenant ∧
        (u.hasp 0x210080).wkind = 0 ∧ s.core.wait = .none ∧ s.core.task = some 1 ∧ Map.find s.tasks 1 = some (Map.get {} s.tasks 1) ∧
        (Map.get {} s.tasks 1).notes.length < 16 ∧ HomeApart u 0x210080 ∧ u.flipWaiters 0x210080 = [] ∧ ReleaseFree u 0x210080 ∧
        u.slotForWait 0x210080 s.core.tenant = true ∧ (u.hasp 0x210080).waiters + 1 < 2 ^ 32) ∧
    (∀ a ∈ [false, true],
      let s := (hasped { haspOfMode 4 with p := 2, q := a.toNat }).modTask 1 (fun t => { t with groups := [0x210080], arrived := if a then [0x210080] else [] })
      let u := haspIn s
      s.translate 1 1 false 0x10080 = .frame 0x210080 data ∧ HaspOk u 0x210080 s.core.tenant ∧ (u.hasp 0x210080).mode = 4 ∧ (u.hasp 0x210080).wkind = 0 ∧
        HomeApart u 0x210080 ∧ ReleaseFree u 0x210080 ∧ u.flipWaiters 0x210080 = [] ∧ (Map.get {} s.tasks 1).groups.contains 0x210080 = true ∧
        (Map.get {} s.tasks 1).arrived.contains 0x210080 = a ∧ s.core.ta = false ∧ s.core.tvec ≠ 0) ∧
    ((haspIn (hasped (haspOfMode 3))).hasp 0x210080).phase = (Map.get {} (hasped (haspOfMode 3)).tasks 1).note 0x210080 ∧
    ((haspIn (hasped { haspOfMode 3 with phase := true })).hasp 0x210080).phase ≠ (Map.get {} (hasped { haspOfMode 3 with phase := true }).tasks 1).note 0x210080 := by
  unfold HomeApart HaspOk ReleaseFree Core.CacheWf
  exact ⟨by decide +kernel, by decide +kernel, by decide +kernel, by decide +kernel⟩

theorem witness_HaspInitAndGroups :
    (let s := gs [(2, 0xFFFFFFFF005)] (hasped {})
     let u := haspIn s
     (1 : BitVec 3).toNat < 5 ∧ s.tag 4 = false ∧ s.tag 2 = false ∧ (s.reg 4).toNat % 64 = 0 ∧ s.translate 1 1 false 0x10080 = .frame 0x210080 data ∧
       u.hidBad 0x210080 = false ∧ (u.hasp 0x210080).init = false ∧ BitVec.ofNat 12 (s.reg 2).toNat ≠ 0 ∧ (s.reg 2).toNat / 4096 ≠ 0 ∧
       (s.reg 2).toNat / 4096 < 2 ^ 32 ∧ s.core.tenant < 64) ∧
    (let s := hasped { haspOfMode 4 with p := 2 }
     let u := haspIn s
     s.translate 1 1 false 0x10080 = .frame 0x210080 data ∧ HaspOk u 0x210080 s.core.tenant ∧ (u.hasp 0x210080).mode = 4 ∧ s.core.task = some 1 ∧
       Map.find s.tasks 1 = some (Map.get {} s.tasks 1) ∧ (Map.get {} s.tasks 1).groups.contains 0x210080 = false ∧ (u.hasp 0x210080).p + 1 < 2 ^ 32) ∧
    (let s := (hasped { haspOfMode 4 with p := 2 }).modTask 1 (fun t => { t with groups := [0x210080] })
     let u := haspIn s
     HaspOk u 0x210080 s.core.tenant ∧ (Map.get {} s.tasks 1).groups.contains 0x210080 = true ∧ (Map.get {} s.tasks 1).arrived.contains 0x210080 = false ∧
       (u.hasp 0x210080).q + 1 < (u.hasp 0x210080).p) := by unfold HaspOk; decide +kernel

theorem witness_HaspRefused :
    (let s := gs [(4, 0x10081)] base; s.tag 4 = false ∧ s.core.wait = .none ∧ (s.reg 4).toNat % 64 ≠ 0) ∧
    (∀ v ∈ [{}, { haspOfMode 3 with tenant := 2 }],
      let s := hasped v
      let u := haspIn s
      s.translate 1 1 false 0x10080 = .frame 0x210080 data ∧ HomeApart u 0x210080 ∧ u.hidBad 0x210080 = false ∧ s.core.ta = false ∧ s.core.tvec ≠ 0 ∧
        ReleaseFree u 0x210080) ∧
    (let s := gs [(1, 0x50000), (2, 1)] (hasped {})
     let e := page 5 (leaf 3 0 0 5 0x240000)
     s.tag 1 = false ∧ s.tag 2 = false ∧ (haspIn s).relPending 0x210080 s.core.accepted = false ∧ canonical (s.reg 1) = true ∧
       s.translate s.core.proc 1 false (va57 (s.reg 1)) = .frame 0x240000 e ∧ (s.touch e true).translate 1 1 false 0x10080 = .frame 0x210080 data ∧
       (s.touch e true).walk 1 0x10080 = some data ∧ ((s.touch e true).touch data true).hidBad 0x210080 = false) ∧
    ((haspIn (hasped {})).hasp 0x210080).init = false ∧ ((haspIn (hasped { haspOfMode 3 with tenant := 2 })).hasp 0x210080).broken 1 = some 2 := by
  unfold HomeApart ReleaseFree Core.CacheWf; decide +kernel

/-- Pages that have the hasp's key id and that have none, at KEY's issue; a KEY whose invalidation is acknowledged. -/
theorem witness_KeyChanges :
    (∀ p ∈ [((0x50000 : Word), 0x240000, page 5 (leaf 3 0 0 5 0x240000)), (0xB0000, 0x2A0000, page 11 (leaf 3 0 0 0 0x2A0000))],
      let s := gs [(1, p.1)] (hasped (haspOfMode 3))
      let u := (s.touch p.2.2 true).touch data true
      s.tag 1 = false ∧ s.tag 4 = false ∧ s.core.wait ≠ .key ∧ (s.reg 4).toNat % 64 = 0 ∧ canonical (s.reg 1) = true ∧
        s.translate s.core.proc 1 false (va57 (s.reg 1)) = .frame p.2.1 p.2.2 ∧ (s.touch p.2.2 true).translate 1 1 false 0x10080 = .frame 0x210080 data ∧
        (s.touch p.2.2 true).isUnitPage 0x10080 = false ∧ (s.touch p.2.2 true).walk 1 0x10080 = some data ∧ HaspOk u 0x210080 s.core.tenant ∧ s.core.CacheWf) ∧
    (let s := (gs [(1, 0x50000)] base).modCore (fun c => { c with wait := .key })
     s.tag 1 = false ∧ s.tag 4 = false ∧ s.core.wait = .key ∧ s.pageUnacked s.core.proc (va57 (s.reg 1)) = false) := by
  unfold HaspOk Core.CacheWf; decide +kernel

theorem witness_MatrixAccepted :
    (let s := gs [(1, 5), (2, 32768), (3, 128 + 128 * 256)] slotted
     (Instr.mldw 3 1 2 3 1 flagless).wellFormed = true ∧ valuesLegal (.mldw 3 1 2 3 1 flagless) s = true ∧ AllExact (.mldw 3 1 2 3 1 flagless) s ∧ (s.reg 2).toNat % 128 = 0 ∧
       s.ownsSlot (s.reg 1).toNat = true ∧ (s.reg 2).toNat + blockBytes 1 ((s.reg 3).toNat / 256 * ((s.reg 3).toNat % 256)) ≤ 65536 ∧
       FlagsAt flagless s { order := s.core.accepted } s ∧ (s.cluster.mstream (s.core.id % 16 * 4 + 3)).length < 8) ∧
    (let m : MmulArgs := { gd := 5, a := 6, opnd := 7, s := 1, fmt := 1, fl := flagless }
     let s := gs [(5, 0), (6, 128), (7, 5 + 1 * 256)] slotted
     m.legal = true ∧ valuesLegal (.mmul m) s = true ∧ AllExact (.mmul m) s ∧ MmulFits m 128 128 s) := by
  unfold AllExact MmulFits
  refine ⟨⟨?_, ?_, ?_, ?_, ?_, ?_, .none rfl rfl, ?_⟩,
    ?_⟩ <;> try decide +kernel

/-- Array 8191 of the tenant. -/
def arrayed (a : XArray) : State := (gs [(1, 8191), (2, 0xE0000 - 128), (3, 63488)] base).modCluster (fun c => { c with arrays := [(8191, { a with owner := some 1 })] })

theorem witness_CrossbarAccepted :
    (let s := (arrayed { state := .ready, progs := 999999 }).modCore (fun c => { c with inj := 0xFFFF0001 })
     (s.reg 1).toNat < 8192 ∧ s.tag 1 = false ∧ (s.cluster.array 8191).owner = some s.core.tenant ∧ s.cluster.lanesFenced.contains (8191 / 512) = false ∧
       (s.cluster.array 8191).state ≠ .worn ∧ s.cluster.xbarCount s.core.id < 16 ∧ flagless.legal = true ∧ AllExact (.xprog 1 2 flagless) s ∧ (s.reg 2).toNat % 128 = 0 ∧
       (s.reg 2).toNat + 131076 ≤ s.core.clsz.toNat ∧ (s.cluster.array 8191).progs < 1000000 ∧ (s.cluster.array 8191).progs < 2 ^ 32 ∧ (s.cluster.array 8191).drs < 16 ∧
       ((s.cluster.array 8191).queue.filter (fun q => q.core == s.core.id)).length < 256 ∧ s.core.inj.toNat % 16 = 1 ∧ s.core.inj.toNat / 65536 % 65536 ≠ 0 ∧
       s.core.wait ≠ .status ∧ (s.modCore (fun c => { c with wait := .status })).core.wait = .status) ∧
    (let s := gs [(2, 195968)] (arrayed { state := .ready })
     AllExact (.xfire 1 2 3 flagless) s ∧ (s.reg 2).toNat % 128 = 0 ∧ (s.reg 3).toNat % 128 = 0 ∧ (s.reg 2).toNat + 640 ≤ 196608 ∧ (s.reg 3).toNat + 2048 ≤ 65536 ∧
       (s.cluster.array 8191).state ≠ .drift ∧ s.core.inj.toNat % 16 ≠ 1) ∧
    (∀ a ∈ [({ state := .worn } : XArray), { state := .drift }],
      let s := gs [(2, 0)] (arrayed a)
      s.core.ta = false ∧ s.core.tvec ≠ 0 ∧ s.cluster.lanesFenced.contains (8191 / 512) = false ∧ ((s.cluster.array 8191).state = .worn ∨ (s.cluster.array 8191).state = .drift) ∧
        AllExact (.xprog 1 2 flagless) s ∧ (s.reg 2).toNat + 131076 ≤ s.core.clsz.toNat ∧ AllExact (.xfire 1 2 3 flagless) s ∧ (s.reg 2).toNat + 640 ≤ 196608) ∧
    (let s := (arrayed { state := .ready }).modCluster (fun c => { c with lanesFenced := [15] }); s.cluster.lanesFenced.contains (8191 / 512) = true) := by
  unfold AllExact; decide +kernel

/-- A pool of tenant 1 on die 0, and a fibre of it on page 4 with a segment in row 0x1000. -/
def pooled : State := base.modDieAt 0 (fun d => { d with pools := [(7, { tenant := 1, quota := 2, used := 1 })], rowsFree := [0x1001] })
def fibred (h : FHdr) : State :=
  (pooled.setFhdr 0x230000 h).setSeg 0 { row := 0x1000, ents := [(3, 0x3F800000), (9, 0x40000000)] }
def header : FHdr := { attr := 2 ^ 31 + 2 ^ 20, pool := 7, nent := 2, nseg := 1, first := 0x1000 }
def fibrePage : TlbEntry := page 4 (leaf 3 1 0 0 0x230000)
def otherFibre : TlbEntry := page 9 (leaf 3 1 0 0 0x280000)

theorem witness_FibreInstructions :
    (let s := gs [(1, 0x40000), (2, 0x700000000)] pooled
     let w := (s.reg 2).toNat
     s.tag 1 = false ∧ s.tag 2 = false ∧ s.core.postFails = [] ∧ s.core.asyncs = [] ∧ s.fibDamaged 0x230000 .chain = false ∧ (s.reg 1).toNat % 64 = 0 ∧
       s.fibPending s.taskNum 0x230000 s.core.accepted = false ∧ FibreAt (s.reg 1) true 0x230000 fibrePage s ∧ (s.fhdr 0x230000).live = false ∧
       (Map.find (s.dieAt (paStack 0x230000)).pools (w / 2 ^ 32 % 2 ^ 16)).map (fun p => p.tenant) = some s.core.tenant ∧ w / 2 ^ 48 = 0 ∧ w / 2 ^ 20 % 2 ^ 12 = 0 ∧
       w / 64 % 4 = 0 ∧ fibAdmitted (w % 4) (w / 4 % 8) (w / 32 % 2 == 1) = true) ∧
    (let s := gs [(1, 0x40000), (2, 0xFFFFFFFE), (3, 1)] (fibred header)
     let u := s.touch fibrePage true
     (s.reg 1).toNat % 64 = 0 ∧ FibreAt (s.reg 1) true 0x230000 fibrePage s ∧ (s.reg 2).toNat < 0xFFFFFFFF ∧ s.tag 3 = false ∧ mergeCode 0 = true ∧ s.core.posted < 16 ∧
       FibreAt 0x90000 true 0x280000 otherFibre u ∧ FibreAt (s.reg 1) false 0x230000 fibrePage s ∧ s.fibCheck 0x230000 s.core.tenant none false = none ∧
       s.fibCheck 0x230000 s.core.tenant none true = none ∧ (s.fhdr 0x230000).live = true ∧ (s.fhdr 0x230000).tenant = s.core.tenant ∧ s.fibDamaged 0x230000 .chain = false ∧
       ∀ g ∈ s.fibChain 0x230000, rowPa (paStack 0x230000) g.row + 1024 ≤ 0x230000 ∨ 0x230000 + 64 ≤ rowPa (paStack 0x230000) g.row) ∧
    (∀ p ∈ [((0, false, true) : Nat × Bool × Bool), (1, true, true), (2, true, false)],
      let s := gs [(1, 0x40000)] (fibred { header with attr := if p.1 = 0 then 0 else if p.1 = 1 then 2 ^ 31 + 2 * 2 ^ 20 else header.attr + 3 })
      (s.reg 1).toNat % 64 = 0 ∧ s.fibPending s.taskNum (0x230000 / 64 * 64) s.core.accepted = false ∧ FibreAt (s.reg 1) false 0x230000 fibrePage s ∧
        s.fibDamaged 0x230000 .chain = false ∧ (s.fhdr 0x230000).live = p.2.1 ∧ ((s.fhdr 0x230000).tenant ≠ s.core.tenant ∨ p.1 = 2) ∧
        (p.1 = 0 ∨ (s.fhdr 0x230000).admitted = p.2.2) ∧ s.core.ta = false ∧ s.core.tvec ≠ 0) ∧
    (let s := gs [(1, 0x40001)] base; s.tag 1 = false ∧ (s.reg 1).toNat % 64 ≠ 0) ∧
    (let s := gs [(1, 0xA0000)] base; (s.reg 1).toNat % 64 = 0 ∧ canonical (s.reg 1) = true ∧ s.translate s.core.proc 1 true (va57 (s.reg 1)) = .right) ∧
    (let s := gs [(1, 0x40000), (2, 0xFFFFFFFF)] base
     FibreAt (s.reg 1) true 0x230000 fibrePage s ∧ 0xFFFFFFFF ≤ (s.reg 2).toNat ∧ s.core.ta = false ∧ s.core.tvec ≠ 0) := by
  unfold FibreAt
  refine ⟨?_, ?_, ?_, ?_, ?_, ?_⟩ <;> try decide +kernel

theorem witness_PageInstructions :
    (let s := gs [(1, 1)] base; s.tag 1 = false ∧ s.tag 2 = false ∧ (s.reg 1).toNat % 65536 ≠ 0) ∧
    (let s := gs [(1, 0x10000), (2, 1)] base; (s.reg 1).toNat % 65536 = 0 ∧ (s.reg 2).toNat % 65536 ≠ 0) ∧
    (let s := gs [(1, 0x10000)] base; (s.reg 1).toNat % 65536 = 0 ∧ (s.reg 2).toNat = 0) ∧
    (let s := gs [(1, 0xFFFFFFFFFF0000), (2, 0x10000)] base
     (s.reg 1).toNat % 65536 = 0 ∧ (s.reg 2).toNat % 65536 = 0 ∧ (s.reg 2).toNat ≠ 0 ∧ s.core.wait = .none ∧
       s.tableBad s.core.proc (s.reg 1).toNat ((s.reg 1).toNat + (s.reg 2).toNat) = none ∧ s.discardCheck (s.reg 1).toNat ((s.reg 1).toNat + (s.reg 2).toNat) = none ∧ s.leaves s.core.proc (s.reg 1).toNat ((s.reg 1).toNat + (s.reg 2).toNat) = [] ∧
       s.pkg.unacked = []) ∧
    (let s := (gs [(1, 0x10000), (2, 0x10000)] base).modCore (fun c => { c with wait := .pages 0x20000 })
     (s.reg 1).toNat % 65536 = 0 ∧ (s.reg 2).toNat % 65536 = 0 ∧ (s.reg 2).toNat ≠ 0 ∧ s.core.wait = .pages 0x20000 ∧
       s.tableBad s.core.proc 0x20000 ((s.reg 1).toNat + (s.reg 2).toNat) = none ∧
       (∀ e ∈ s.leaves s.core.proc (s.reg 1).toNat ((s.reg 1).toNat + (s.reg 2).toNat), wideVa e.va < 0x20000) ∧ s.pkg.unacked = []) ∧
    (let s := gs [(1, 0x10000), (2, 0x10000)] base
     (s.reg 1).toNat % 65536 = 0 ∧ (s.reg 2).toNat % 65536 = 0 ∧ (s.reg 2).toNat ≠ 0 ∧ s.discardCheck (s.reg 1).toNat ((s.reg 1).toNat + (s.reg 2).toNat) = none ∧
       s.leaves s.core.proc (s.reg 1).toNat ((s.reg 1).toNat + (s.reg 2).toNat) = [data] ∧ pteState data.pte = 0 ∧
       s.tableBad s.core.proc (s.reg 1).toNat ((s.reg 1).toNat + (s.reg 2).toNat) = none ∧ s.core.wait = .none ∧ s.haspBusy (pteFrame data.pte) data.size = false) ∧
    (∀ f ∈ [none, some 0x10000],
      let s := ((gs [(1, 0x10000), (2, 0x10000)] base).modDieAt 0 (fun d => { d with badWords := [0x104008 / 8] })).modCore (fun c => { c with fatal := f })
      (s.reg 1).toNat % 65536 = 0 ∧ (s.reg 2).toNat % 65536 = 0 ∧ (s.reg 2).toNat ≠ 0 ∧ s.core.wait = .none ∧
        s.tableBad s.core.proc (s.reg 1).toNat ((s.reg 1).toNat + (s.reg 2).toNat) = some 0x10000 ∧ (f = none ∨ s.core.fatal = some (faultVa 0x10000)) ∧
        s.faultSent .thread 0x10000 = false ∧ s.core.faults = []) ∧
    (let s := gs [(1, 0x10000), (2, 0x10000)] base
     s.hinted (s.reg 1) (s.reg 2) = [data] ∧ pteState data.pte = 0 ∧ tlbFind s.die.tlb data.proc data.va = none) ∧
    (∀ i ∈ [3, 7], ∀ n ∈ [255, 256],
      let s := (gs [(1, BitVec.ofNat 64 (i * 65536)), (2, 0x10000)] base).modDieAt 0 (fun d => { d with pager := List.replicate n { proc := 1, va := 0x80000, access := 1 } })
      s.tag 1 = false ∧ s.tag 2 = false ∧ s.hinted (s.reg 1) (s.reg 2) = [page i (leaves.getD i 0)] ∧ (pteState (leaves.getD i 0) = 1 ∨ pteState (leaves.getD i 0) = 2) ∧
        (s.dieAt (paStack (pteFrame (leaves.getD i 0)))).pager.length = n ∧ s.stackGone (paStack (pteFrame (leaves.getD i 0))) = false) := by
  and_intros <;> decide +kernel

/-- Plane 0 is ACTIVE with the fields (target, field, value); tokens stand in the slots (target, port). -/
def fabric (flds : List (Nat × Nat × Nat)) (toks : List (Nat × Nat × Token)) (g : Fabric → Fabric) : State :=
  base.modFab (fun f => g { f with planes := [(0, { state := .active, fields := flds.map (fun p => (p.1 * 32 + p.2.1, p.2.2)) })],
                                   slots := toks.map (fun p => (p.1 * 4 + p.2.1, { fl := { tok := p.2.2 } })) })

/-- Every generic operator fires on a, b, c = 0, 0, 1.0 at the last element; each of the other outcomes on one operator. -/
theorem witness_OperatorFirings :
    (∀ p ∈ operatorSteps,
      let s := fabric [(127, 0, p.2.1), (127, 1, 7)] [(127, 0, dataToken 3 0), (127, 1, dataToken 3 0), (127, 2, dataToken 3 0x3F800000)] id
      let f := s.core.fab
      f.ready 127 p.2.1 = true ∧ f.present 127 = true ∧ f.canEmit 127 15 = true ∧ (s.taskAt s.taskNum).debug = false ∧ f.check 127 (f.live 127) = .data 3 ∧
        (p.2.2 (f.cfg 127) 127 (f.tok 127 0).data (f.tok 127 1).data (f.tok 127 2).data).isSome = true) ∧
    (let f := (fabric [(191, 0, 0x10), (191, 1, 3)] [(191, 0, bubble), (191, 1, bubble)] id).core.fab
     f.ready 191 0x10 = true ∧ f.present 191 = true ∧ f.canEmit 191 15 = true ∧ f.check 191 (f.live 191) = .bubbles) ∧
    (∀ k ∈ [1, 2],
      let f := (fabric [(191, 0, 0x10), (191, 1, 3)] [(191, 0, ctlToken k), (191, 1, ctlToken k)] id).core.fab
      f.ready 191 0x10 = true ∧ f.present 191 = true ∧ f.canEmit 191 15 = true ∧ f.check 191 (f.live 191) = .ctl k) ∧
    (let f := (fabric [(191, 0, 0x10), (191, 1, 3)] [(191, 0, dataToken 0 1), (191, 1, eosToken)] id).core.fab
     f.ready 191 0x10 = true ∧ f.present 191 = true ∧ f.canEmit 191 15 = true ∧ ∃ sub < 8, ∃ q < 8, f.check 191 (f.live 191) = .err sub q) ∧
    (let f := (fabric [(0, 0, 0x3E), (0, 1, 7)] [(0, 0, dataToken 0 1), (0, 1, dataToken 0 0x40000000), (0, 2, dataToken 0 0x3F800000)] id).core.fab
     f.ready 0 0x3E = true ∧ f.present 0 = true ∧ f.canEmit 0 15 = true ∧ f.check 0 (f.live 0) = .data 0 ∧
       acceptTest ((f.cfg 0).fmt 0 == 2) (fromLow32 1) 0x40000000 0x40000000 = true ∧ ¬ fixedOf 0x40000000 ≤ fixedOf 0x3F800000) := by decide +kernel

def withOp (t : Nat) (o : OpState) (f : Fabric) : Fabric := { f with ops := [(t, o)] }

theorem witness_StatefulOperators_blocks :
    (∀ o ∈ [({} : OpState), { block := List.replicate 31 (0, 0) }],
      let s := fabric [(5, 0, 0x29), (5, 1, 1)] [(5, 0, dataToken 0 7)] (withOp 5 o)
      let f := s.core.fab
      (s.taskAt s.taskNum).debug = false ∧ f.ready 5 0x29 = true ∧ f.vacant 5 0 = false ∧ f.canEmit 5 15 = true ∧ (f.tok 5 0).isData = true ∧ (f.tok 5 0).sb ≠ 1 ∧
        (f.tok 5 0).sb ≠ 3 ∧ ((f.opOf 5).block ++ [((f.tok 5 0).data, (f.tok 5 0).sb)]).length = o.block.length + 1) ∧
    (∀ c ∈ [0x30, 0x31], ∀ sb ∈ ([0, 3] : List (BitVec 2)),
      let f := (fabric [(5, 0, c), (5, 1, 1)] [(5, 0, dataToken sb 7)] id).core.fab
      f.ready 5 c = true ∧ f.vacant 5 0 = false ∧ f.canEmit 5 15 = true ∧ (f.tok 5 0).isData = true ∧ (f.cfg 5).used 5 1 = false ∧ (f.tok 5 0).sb = sb) := by
  decide +kernel

theorem witness_StatefulOperators_counters :
    (let f := (fabric [(5, 0, 0x34), (5, 1, 1)] [(5, 0, dataToken 3 1)] id).core.fab
     f.ready 5 0x34 = true ∧ (f.cfg 5).flg 5 = false ∧ (f.opOf 5).run = none ∧ (f.cfg 5).used 5 0 = true ∧ f.vacant 5 0 = false ∧ (f.tok 5 0).isData = true ∧
       (f.tok 5 0).data ≠ 0) ∧
    (∀ n ∈ [1, 2],
      let s := fabric [(5, 0, 0x34), (5, 1, 1)] [] (withOp 5 { run := some { i := 0, n := n, fin := 3 } })
      let f := s.core.fab
      f.ready 5 0x34 = true ∧ (f.cfg 5).flg 5 = false ∧ (f.opOf 5).run = some { i := 0, n := n, fin := 3 } ∧ (f.cfg 5).thr 5 = false ∧ (f.opOf 5).lastIndex = none ∧
        f.canEmit 5 15 = true) := by decide +kernel

theorem witness_StatefulOperators_choices :
    (let f := (fabric [(5, 0, 0x38), (5, 1, 3), (5, 10, 5)] [(5, 0, dataToken 1 7), (5, 1, dataToken 1 0)] id).core.fab
     f.ready 5 0x38 = true ∧ f.present 5 = true ∧ f.check 5 (f.live 5) = .data 1 ∧ f.canEmit 5 (15 - 5) = true) ∧
    (let f := (fabric [(5, 0, 0x39), (5, 1, 3), (5, 10, 1)] [(5, 0, dataToken 1 7)] id).core.fab
     f.ready 5 0x39 = true ∧ f.canEmit 5 15 = true ∧ (f.cfg 5).opf0 5 % 2 = 1 ∧ f.vacant 5 0 = false ∧ (f.tok 5 0).ctl = false) ∧
    (let f := (fabric [(5, 0, 0x39), (5, 1, 7)] [(5, 1, dataToken 1 7), (5, 2, dataToken 1 0)] id).core.fab
     f.ready 5 0x39 = true ∧ f.canEmit 5 15 = true ∧ (f.cfg 5).opf0 5 % 2 = 0 ∧ f.vacant 5 2 = false ∧ (f.tok 5 2).isData = true ∧ (f.tok 5 2).data = 0 ∧
       f.vacant 5 1 = false ∧ (f.tok 5 1).ctl = false) ∧
    (let f := (fabric [(5, 0, 0x3A), (5, 1, 7)] [(5, 0, dataToken 1 7)] id).core.fab
     f.ready 5 0x3A = true ∧ (f.opOf 5).looping = false ∧ f.vacant 5 0 = false ∧ f.canEmit 5 15 = true ∧ (f.tok 5 0).isData = true) ∧
    (∀ v ∈ [0, 1],
      let f := (fabric [(5, 0, 0x3A), (5, 1, 7)] [(5, 1, dataToken 1 7), (5, 2, dataToken 1 (BitVec.ofNat 32 v))] (withOp 5 { looping := true })).core.fab
      f.ready 5 0x3A = true ∧ (f.opOf 5).looping = true ∧ f.vacant 5 2 = false ∧ (f.tok 5 2).isData = true ∧ (f.tok 5 2).data = BitVec.ofNat 32 v ∧ f.vacant 5 1 = false ∧
        (f.tok 5 1).isData = true ∧ f.canEmit 5 15 = true) := by decide +kernel

theorem witness_StatefulOperators_ends :
    (let f := (fabric [(5, 0, 0x3C), (5, 1, 1)] [(5, 0, dataToken 0 7)] id).core.fab
     f.ready 5 0x3C = true ∧ f.vacant 5 0 = false ∧ (f.opOf 5).pend = [] ∧ (f.tok 5 0).isData = true ∧ (f.opOf 5).score = none ∧ (f.tok 5 0).sb = 0) ∧
    (let f := (fabric [(5, 0, 0x3C), (5, 1, 1)] [(5, 0, dataToken 0 7)] (withOp 5 { score := some 0x3F800000 })).core.fab
     f.ready 5 0x3C = true ∧ f.vacant 5 0 = false ∧ (f.opOf 5).pend = [] ∧ (f.tok 5 0).isData = true ∧ (f.opOf 5).score = some 0x3F800000 ∧ (f.tok 5 0).sb = 0 ∧
       (f.opOf 5).kept = none ∧ isNaNWord 0x3F800000 = false) ∧
    (let f := (fabric [(5, 0, 0x40), (5, 1, 1)] [(5, 0, dataToken 3 7)] id).core.fab
     f.ready 5 0x40 = true ∧ f.canEmit 5 15 = true ∧ (f.cfg 5).opf0 5 % 2 = 0 ∧ (f.cfg 5).used 5 0 = true ∧ f.vacant 5 0 = false ∧ (f.tok 5 0).isData = true) ∧
    (let f := (fabric [(5, 0, 0x40), (5, 11, 1)] [] (fun f => { f with launch := 1 })).core.fab
     f.ready 5 0x40 = true ∧ f.canEmit 5 15 = true ∧ (f.cfg 5).opf0 5 % 2 = 0 ∧ (f.cfg 5).used 5 0 = false ∧ f.sourceRuns 5 = true ∧
       (f.opOf 5).count < (f.cfg 5).opf1 5) ∧
    (∀ k ∈ [dataToken 0 7, eosToken],
      let f := (fabric [(5, 0, 0x41), (5, 1, 1)] [(5, 0, k)] id).core.fab
      f.ready 5 0x41 = true ∧ f.vacant 5 0 = false ∧ ((f.tok 5 0).ctl = false ∨ f.tok 5 0 = eosToken)) := by decide +kernel

/-- Element 0's first route leads east from its router. -/
def routed : List (Nat × Nat × Nat) := [(0, 6, 1), (128, 13, 17 * 32)]

theorem witness_FabricMemory :
    (∀ c ∈ [0x44, 0x45, 0x46],
      let s := fabric ([(0, 0, c), (0, 1, 3), (0, 12, 65532), (0, 10, 1)] ++ routed) [(0, 0, dataToken 0 0), (0, 1, dataToken 0 7)] id
      let f := s.core.fab
      (s.taskAt s.taskNum).debug = false ∧ f.ready 0 c = true ∧ f.present 0 = true ∧ (f.opOf 0).out.length < 16 ∧ (f.pipe 0).length < (f.cfg 0).latency 0 - 1 ∧
        f.check 0 (f.live 0) = .data 0 ∧
        s.fabInRange ((f.cfg 0).opf0 0 % 4) (((f.cfg 0).k 0).toNat + (f.tok 0 0).data.toNat * fmtSize ((f.cfg 0).fmt 0)) (fmtSize ((f.cfg 0).fmt 0)) = true ∧
        s.storeTypeFails (f.accessOf 0 s.cyc) = false) ∧
    (let f := (fabric ([(0, 0, 0x44), (0, 1, 9)] ++ routed) [(0, 0, dataToken 0 0), (0, 3, dataToken 0 0)] id).core.fab
     f.ready 0 0x44 = true ∧ f.present 0 = true ∧ f.check 0 (f.live 0) = .data 0 ∧ (f.cfg 0).used 0 3 = true ∧ (f.tok 0 3).data = 0) ∧
    (∀ k ∈ [0, 1, 2], ∀ sp ∈ [(0, 196604), (2, 0xFFFFC)],
      let x : FabAccess := { kind := k, space := sp.1, addr := sp.2 }
      let s := fabric ([(0, 0, 0x44 + k), (0, 1, 3)] ++ routed) [] (withOp 0 { out := [x], acks := 1 })
      let f := s.core.fab
      (f.opOf 0).out = [x] ∧ s.fabWaits x = false ∧ s.fabTypeFails x = false ∧ f.fencing = false ∧ f.firsts 0 15 ≠ [] ∧ s.cluster.badWords = [] ∧
        FabricGranted 0 s) := by
  unfold FabricGranted; decide +kernel

/-- Two requests at bank 1 of act: two elements in the round behind element 0, the one granted last; a stream before an element, and an element that
has waited 16 cycles before a stream. -/
theorem witness_FabricMemory_banks :
    let x : FabAccess := { space := 0, addr := 8 }
    let of := fun (n : Nat) => ({ agent := .fabric n, buf := 1, addr := 8, len := 4 } : BankReq)
    let st : BankReq := { agent := .stream 3 1, buf := 1, addr := 8, len := 4, order := 7, born := 1 }
    let t : Stream := { cmd := { port := 15, hasp := { order := 7 } }, acquired := true }
    (let s := fabric [] [] (fun f => { f with ops := [(0, { out := [x] }), (191, { out := [x] })], bankTurn := [(turnKey 4 1 1, 0)] })
     s.core.standing s.cluster = [of 0, of 191] ∧ AsksBank 1 1 (of 0) ∧ AsksBank 1 1 (of 191) ∧ s.core.bankTurnOf 4 1 1 = 0 ∧ GrantedFirst s.cyc 0 (of 191) (of 0)) ∧
    (∀ cyc ∈ [15, 16],
      let s : State := { (fabric [] [] (fun f => { f with ops := [(0, { out := [x] })] })).modCore (fun c =>
        { c with engines := [(3, { slots := [(1, t)] })], bankReqs := [st] }) with cyc := cyc }
      s.core.standing s.cluster = [st, of 0] ∧ AsksBank 1 1 st ∧ s.core.bankTurnOf 4 1 1 < 1024 ∧
        if cyc = 15 then GrantedFirst s.cyc 1023 st (of 0) else GrantedFirst s.cyc 1023 (of 0) st) := by
  unfold AsksBank GrantedFirst
  refine ⟨⟨?_, ?_, ?_, ?_, .inr (.inr ⟨?_, ?_, .inr ⟨191, 0, rfl, rfl, ?_, ?_, ?_⟩⟩)⟩, ?_⟩ <;> try decide +kernel
  · intro cyc h
    simp only [List.mem_cons, List.not_mem_nil, or_false] at h
    rcases h with rfl | rfl
    · refine ⟨?_, ?_, ?_, .inr (.inr ⟨?_, ?_, .inl ?_⟩)⟩ <;> try decide +kernel
    · refine ⟨?_, ?_, ?_, .inl ⟨?_, ?_⟩⟩ <;> try decide +kernel

/-- A token at an input port, in a stage before a router, a slot and an output port, and in the results of a target; a launch that ends; a stalled token. -/
theorem witness_TokenHops :
    (let fl : Flight := { tok := dataToken 3 7 }
     let s := fabric [(0xC0, 0, 1), (128, 13, 29 * 32)] [] (fun f => { f with inq := [(0, [fl])] })
     let f := s.core.fab
     Map.get [] f.inq 0 = [fl] ∧ f.portEpoch 0 = some fl.epoch ∧ f.fencing = false ∧ s.core.qreq = none ∧ (f.routerCfg (inRouter 0)).inStages 0 = [4] ∧
       f.stageFree 4 = true) ∧
    (let f := (fabric [(129, 13, 13 * 32)] [] (fun f => { f with stages := [(4, { tok := dataToken 3 7 })] })).core.fab
     Map.find f.stages (0 * 30 + 4) = some { tok := dataToken 3 7 } ∧ f.switch = none ∧ hopOf 0 4 = .router 1 13 ∧
       ((f.routerCfg 1).outputsOf 1 13).map (fun o' => 1 * 30 + o') = [34] ∧ f.stageFree 34 = true) ∧
    (let f := (fabric [(191, 2, 2)] [] (fun f => { f with stages := [(63 * 30 + 24, { tok := dataToken 3 7 })] })).core.fab
     Map.find f.stages (63 * 30 + 24) = some { tok := dataToken 3 7 } ∧ hopOf 63 24 = .slot 191 0 ∧ f.slot 191 0 = none ∧ 2 ≤ (f.cfg 191).sticky 191 0) ∧
    (let s := (fabric [(0xC0, 1, 1)] [] (fun f => { f with stages := [(15 * 30 + 27, { tok := eosToken })] })).modCore (fun c =>
       { c with engines := [(0, { slots := [(0, { cmd := { port := 16, sub := 1 }, acquired := true })] })] })
     let f := s.core.fab
     Map.find f.stages (15 * 30 + 27) = some { tok := eosToken } ∧ hopOf 15 27 = .out 0 ∧ eosToken.isCtl 2 = false ∧ (Map.get [] f.outq 0).length < 16) ∧
    (let f := (fabric routed [] (fun f => { f with pipes := [(0, [{ tok := eosToken }])] })).core.fab
     f.pipe 0 = [{ tok := eosToken }] ∧ ∀ i ∈ f.firsts 0 15, f.stageFree i = true) ∧
    (let f := (fabric [(5, 0, 0x41), (5, 1, 1), (0xC0, 1, 1)] [] (fun f => { withOp 5 { heldEos := true } f with launch := 1, ports := [(16, { recorded := true })] })).core.fab
     f.current = some 0 ∧ f.launch = 1 ∧ f.fencing = false ∧ f.trace.node = none ∧ (f.plane 0).isSink 5 = true ∧
       (∀ t, t < 192 → (f.plane 0).isSink t = true → (f.opOf t).heldEos = true ∧ (f.opOf t).acks = 0) ∧
       ∀ k, k < 16 → (f.plane 0).outUsed k = true → (f.port f.epoch (16 + k)).recorded = true) := by decide +kernel

theorem witness_TokenHops_stalled :
    let s : State := { (fabric [] [(5, 0, dataToken 0 7)] id).modCore (fun c => { c with qreq := some .save }) with cyc := 4096 }
    s.core.qreq ≠ none ∧ s.core.fab.switch = none ∧ max s.core.qcyc s.core.fab.lastFiring + 4096 ≤ s.cyc ∧ s.core.unheld ≠ [] ∧ Oldest s.core.fab.waiting (0, 5, 0, 5) := by
  unfold Oldest; decide +kernel

/-- A switch from plane 0 to plane 1. -/
def switching (w : Switch) (flds : List (Nat × Nat × Nat)) (g : Fabric → Fabric) : State :=
  fabric flds [] (fun f => g { f with planes := f.planes ++ [(1, { state := .switching })], switch := some { w with inc := 1 } })

theorem witness_SwitchSteps :
    (let s := (fabric [] [] (fun f => { f with trigCount := 9 })).modCore (fun c => { c with ptrg := 0x900000003 })
     ptrgArm s.core.ptrg = true ∧ s.core.fab.switch = none ∧ ptrgCount s.core.ptrg ≤ s.core.fab.trigCount ∧ s.core.fab.active = some 0) ∧
    (∀ e ∈ [false, true],
      let s := switching {} [(0xC0, 0, 0x8000), (128 + 7, 13, 31 * 32)] (fun f => { f with ports := [(15, { lastEos := e })] })
      let f := s.core.fab
      f.switch = some { inc := 1 } ∧ (f.plane 0).inUsed 15 = true ∧ s.core.portDone f.epoch 15 = true ∧ Map.get [] f.inq 15 = [] ∧
        (∀ i ∈ (f.plane 0).inStages 15, f.stageFree i = true) ∧ (f.port f.epoch 15).lastEos = e) ∧
    (let f := (switching {} ([(0, 0, 0x40)] ++ routed) id).core.fab
     (f.plane 0).isSource 0 = true ∧ f.launch ≠ 1 ∧ f.canEmit 0 15 = true) ∧
    (let f := (switching { fired := [191] } [(191, 0, 0x10)] id).core.fab
     (f.plane 0).op 191 ≠ 0 ∧ (f.opOf 191).out = [] ∧ f.switch = some { inc := 1, fired := [191] }) ∧
    (let f := (switching { targets := [191], passed := [63 * 30] } [(191, 12, 9)] id).core.fab
     (128 + 63) ∈ [191] ∧ ∀ o, o < 30 → (f.plane 0).sel 63 o = 0 ∨ 63 * 30 + o ∈ [63 * 30]) ∧
    (let w : Switch := { inc := 1, targets := List.range 192, routers := List.range 64, left := [15] }
     let f := (switching w [(0xC0, 1, 0x8000)] id).core.fab
     f.switch = some w ∧ (∀ t, t < 192 → t ∈ w.targets) ∧ (∀ r, r < 64 → r ∈ w.routers) ∧ ∀ k, k < 16 → (f.plane w.out).outUsed k = true → k ∈ w.left) ∧
    (∀ cut ∈ [false, true], ∀ start ∈ [false, true], ∀ fld ∈ [0, 0x8000],
      let w : Switch := { inc := 1, started := start, cut := cut, targets := List.range 192, routers := List.range 64 }
      let f := ((switching w [] id).modFab (fun f => { f with planes := Map.set f.planes 1 { state := .switching, fields := [(0xC0 * 32, fld)] } })).core.fab
      f.switch = some w ∧ w.bad = false ∧ ((f.plane 0).state ≠ .invalid) ∧ ((f.plane w.inc).inUsed 15 = (fld == 0x8000)) ∧ (fld = 0 → ∀ k, k < 16 → (f.plane w.inc).inUsed k = false)) ∧
    (let w : Switch := { inc := 1, bad := true, targets := List.range 192, routers := List.range 64 }
     let f := (switching w [] (fun f => { f with slots := [(16, { fl := { tok := eosToken, epoch := 1 } })] })).core.fab
     f.switch = some w ∧ w.bad = true ∧ (f.plane 0).state ≠ .invalid ∧ f.slots ≠ []) := by
  and_intros <;> decide +kernel

/-- The token of an element that has changed over, of the incoming plane, is older than the one that the stall names. -/
theorem witness_SwitchSteps_stalled :
    (let w : Switch := { inc := 1, targets := [4] }
     let s : State := { (switching w [] (fun f => { f with slots := [(16, { fl := { tok := eosToken } }), (20, { fl := { tok := eosToken, born := 1 } })] })).modCore (fun c => { c with qreq := some .save }) with cyc := 4096 }
     s.core.qreq ≠ none ∧ s.core.fab.switch = some w ∧ (∀ g ∈ s.core.engines, ∀ x ∈ g.2.slots, x.2.fault = none) ∧ (∀ g ∈ s.core.chans, ∀ x ∈ g.2.queue, x.fault = none) ∧
       max s.core.qcyc 0 + 4096 ≤ s.cyc ∧ Oldest (s.core.fab.outgoing w).waiting (1, 5, 0, 5)) ∧
    ((switching {} [] id).core.fab.outgoing { inc := 1 }).waiting = [] := by unfold Oldest; decide +kernel

/-- Words in act: from byte 0, a load at the head of the loader. -/
def loading (ws : List Nat) (l : PlaneLoad) : State :=
  base.modCore (fun c => { c with act := { bytes := putBytes [] 0 (wordBytes ws) }, fab := { c.fab with loads := [l], planes := [(2, { state := .loading })] } })

/-- An empty image: its header, CHECK and LEN (R222). -/
def emptyImage : List Nat := [0x494C544E, 0x00010000, 0, 0, 0, 0, 0, 0, 0, 0x28]

theorem witness_LoaderSteps :
    (loading [] { plane := 2, bare := true, count := 1 }).core.fab.loads = [{ plane := 2, bare := true, count := 1 }] ∧
    (let s := loading emptyImage { plane := 2 }
     let word := fun a => valueOf (bufferBytes 1 s a 4)
     s.core.qreq = none ∧ (0 + 0x28 ≤ 196608 ∧ LinesFull 1 s 0 0x28 ∧ LinesExact 1 s 0 0x28) ∧ AtBank .loader 0 1 0 32 s ∧
       AtBank .loader 0 1 0x24 4 (s.afterBank .loader 0 1 0 32) ∧ word 0 = 0x494C544E ∧ word 4 = 0x00010000 ∧ word 8 = 0 ∧ word 0xC = 0 ∧
       word 0x10 = 0 ∧ word 0x14 = 0 ∧ word 0x18 = 0 ∧ word 0x1C = 0 ∧ word 0x24 = 0x28) ∧
    (∀ ws ∈ [emptyImage.set 0 0, emptyImage.set 1 1, emptyImage.set 2 16385, emptyImage.set 3 193, emptyImage.set 4 2, emptyImage.set 4 1, emptyImage.set 7 1, emptyImage.set 9 0],
      let s := loading ws { plane := 2 }
      let word := fun a => valueOf (bufferBytes 1 s a 4)
      let nw := word 8
      let ns := word 0xC
      (0 + 32 ≤ 196608 ∧ LinesFull 1 s 0 32 ∧ LinesExact 1 s 0 32) ∧ AtBank .loader 0 1 0 32 s ∧
        (¬ (word 0 = 0x494C544E ∧ word 4 = 0x00010000 ∧ nw ≤ 16384 ∧ ns ≤ 192 ∧ word 0x10 ≤ 1 ∧ word 0x14 = 0 ∧ word 0x18 = 0 ∧ word 0x1C = 0 ∧ (word 0x10 = 1 → nw ≠ 0)) ∨
          word 0x24 ≠ 0x28)) ∧
    (let s := loading [0xC0 * 2 ^ 24 + 13 * 2 ^ 19 + 1] { plane := 2, bare := true, count := 1, started := true }
     let word := fun a => valueOf (bufferBytes 1 s a 4)
     (0 + 4 ≤ 196608 ∧ LinesFull 1 s 0 4 ∧ LinesExact 1 s 0 4) ∧ AtBank .loader 0 1 0 4 s ∧
       ¬ AtBank .loader 0 1 0 4 (s.modCore (fun c => { c with bankReqs := [{ agent := .stream 0 0, buf := 1, len := 4, granted := true }], engines := [(0, { slots := [(0, { acquired := true, cmd := { port := 16 } })] })] })) ∧ word 0 / 2 ^ 24 = 0xC0 ∧ word 0 / 2 ^ 19 % 32 < 14) ∧
    (let s := loading emptyImage { plane := 2, started := true }
     let word := fun a => valueOf (bufferBytes 1 s a 4)
     (0x20 + (8 + 8 * 0) ≤ 196608 ∧ LinesFull 1 s 0x20 8 ∧ LinesExact 1 s 0x20 8) ∧ AtBank .loader 0 1 0x20 8 s ∧ ((bufferBytes 1 s 0x28 0).foldl crcByte 0xFFFFFFFF ^^^ 0xFFFFFFFF).toNat = word 0x20 ∧
       word 0x24 = 0x28 ∧ twiceNamed (tableEntries (bufferBytes 1 s 0x28 0) 0) = none) ∧
    (let s := loading (emptyImage.set 8 1) { plane := 2, started := true }
     ((bufferBytes 1 s 0x28 0).foldl crcByte 0xFFFFFFFF ^^^ 0xFFFFFFFF).toNat ≠ valueOf (bufferBytes 1 s 0x20 4)) ∧
    (let p : Plane := { fields := [(0, opSink), (1, 1), (128 * 32 + 17, 29 * 32), (0xC0 * 32, 1)], state := .loading }
     let s := base.modCore (fun c => { c with fab := { c.fab with loads := [{ plane := 2, bare := true, started := true, bad := some (5, 0x11, 14) }], planes := [(2, p)] } })
     s.core.fab.plane 2 = p ∧ s.core.qreq = none ∧ p.refusal s.core.efnc s.core.rfence = none) ∧
    (let s := loading [] { plane := 2, bare := true, started := true }
     s.core.fab.loads = [{ plane := 2, bare := true, started := true }] ∧ s.core.qreq = none) := by
  unfold LinesFull LinesExact AtBank State.afterBank
  refine ⟨?_, ?_, ?_, ?_, ?_, ?_, ?_, ?_⟩ <;> decide +kernel

/-- A stream in slot 0 of engine 0, tokens in the queue of output port 0. -/
def streaming (t : Stream) (out : List Flight) : State :=
  base.modCore (fun c => { c with engines := [(0, { slots := [(0, t)] })], fab := { c.fab with outq := [(0, out)] } })

/-- DENSE records of four fp32 values in act:, mem:, cls: and acc:, one with no row, and an IND record. -/
def inAct : Pattern := { lens := [4, 0, 0, 0], strs := [4, 0, 0, 0], ctrl := 1 }
def inMem : Pattern := { base := 0x10000, lens := [4, 0, 0, 0], strs := [4, 0, 0, 0], ctrl := 0 }
def inCls : Pattern := { lens := [4, 0, 0, 0], strs := [4, 0, 0, 0], ctrl := 4 }
def inAcc : Pattern := { lens := [4, 0, 0, 0], strs := [4, 0, 0, 0], ctrl := 3 }
def indexed : Pattern := { base := 0x10000, xbase := 0x10100, lens := [4, 0, 0, 0], strs := [4, 0, 0, 0], ctrl := 0x2000, idx := 0x18, iscale := 4 }

theorem witness_StreamSteps_start :
    let q : StreamCmd := { port := 3, pat := inAct, hasp := { acq := true, order := 1 } }
    let s := base.modCore (fun c => { c with engines := [(0, { queue := [q], slots := [(0, {})] }), (3, { queue := [{ hasp := { order := 2 } }] })] })
    (s.core.engine 0).queue = [q] ∧ Map.find (s.core.engine 0).slots 1 = none ∧ (∀ k, k < 1 → Map.find (s.core.engine 0).slots k ≠ none) ∧
    (∀ x, x < 4 → x ≠ 0 → ∀ r ∈ (s.core.engine x).queue.head?, q.hasp.order < r.hasp.order) ∧ s.core.portHeld 3 = false ∧ s.core.qreq = none ∧
    s.core.fab.fencing = false ∧ s.core.fab.switch = none ∧ s.indirect < 8 := by decide +kernel

/-- A start on a port that the active plane uses, one that a fence holds off, one of an output port in a switch, for the incoming plane. -/
theorem witness_StreamSteps_launch :
    let q : StreamCmd := { port := 15, pat := inAct }
    let o : StreamCmd := { port := 31, sub := 1, pat := inAct, epoch := 1 }
    (let s := (fabric [(0xC0, 0, 0x8000)] [] id).modCore (fun c => { c with engines := [(0, { queue := [q] })] })
     s.core.fab.active = some 0 ∧ s.core.fab.switch = none ∧ q.epoch = s.core.fab.epoch ∧ (s.core.fab.plane 0).portUsed 15 = true ∧ (s.core.fab.plane 0).inUsed 15 = true ∧
       s.core.portHeld 15 = false ∧ s.core.qreq = none ∧ s.core.fab.fencing = false) ∧
    (let f := (fabric [] [] (fun f => { f with fencing := true })).core.fab; f.switch = none ∧ f.fencing = true) ∧
    (let s := (switching {} [] id).modCore (fun c => { c with engines := [(0, { queue := [o] })] })
     s.core.portHeld 31 = false ∧ 16 ≤ o.port ∧ s.core.fab.switch = some { inc := 1 } ∧ ({} : Switch).cut = false ∧ o.epoch ≠ s.core.fab.epoch) := by decide +kernel

/-- An element's access has waited 16 cycles at bank 1 of act:: a stream, a copy or a unit of the cluster waits there, and goes where nothing stands. -/
theorem witness_AtBanks :
    let busy : State := { bankBusy with cyc := 16 }
    (AtBank (.stream 0 0) 0 1 12 4 base ∧ AtBank (.stream 0 0) 0 4 12 4 busy ∧ ¬ AtBank (.stream 0 0) 0 1 12 4 busy ∧ AtBank (.stream 3 3) 7 3 65408 128 base) ∧
    (let x : Copy := { src := 0, dst := 64, len := 256, dsp := 1, ssp := 3, landed := 184, acquired := true }
     copyAsk x x.ssp x.src 128 = 128 ∧ copyAsk x x.dsp x.dst 64 = 128 ∧ copyAsk x x.dsp x.dst 0 = 8 ∧ copyAsk x x.dsp x.dst 192 = 8 ∧ AtBank (.copy 3) 0 3 128 128 base ∧
       AtBank (.copy 3) 0 1 128 128 (base.afterBank (.copy 3) 0 3 128 128)) ∧
    AtBankOf 0 (.matrix 3 false) 0 3 128 128 base ∧ AtBankOf 0 (.matrix 3 true) 0 1 0 128 { base with cyc := 15 } ∧ ¬ AtBankOf 0 (.matrix 3 true) 0 1 0 128 busy ∧
    AtBankOf 0 (.fire 8191 false) 0 1 195968 640 base := by
  unfold AtBank AtBankOf State.afterBank; decide +kernel

/-- A bx32 element whose exponent lies on no page. -/
theorem witness_StreamSteps_exponent :
    let p : Pattern := { base := 0x10000, xbase := 0x1F0000, lens := [32, 0, 0, 0], strs := [1, 0, 0, 0], ctrl := 0x28 }
    let t : Stream := { cmd := { sub := 1, port := 16, pat := p }, acquired := true, pos := 31 }
    let s := streaming t [{ tok := dataToken 0 7 }]
    p.fmt = 5 ∧ p.space = 0 ∧ p.kind = 0 ∧ t.runs = true ∧ t.failed = none ∧ t.exhausted = false ∧
      (match s.genWrite 0 (p.address 31) p.size 0 with
       | .ok _ w => (match w.genWrite 0 (p.expAddress (p.address 31)) 2 0 with
         | .fault _ _ => true
         | _ => false)
       | _ => false) = true := by decide +kernel

theorem witness_StreamSteps_deliver :
    (∀ t ∈ [({ cmd := { port := 3, pat := inAct }, acquired := true, pos := 3 } : Stream), { cmd := { port := 3, pat := inAct }, acquired := true, row := 1 }],
      let s := streaming t []
      Map.find (s.core.engine 0).slots 0 = some t ∧ t.runs = true ∧ t.cmd.port < 16 ∧ s.core.qreq = none ∧ t.cmd.pat.kind = 0 ∧ t.tile = false ∧
        (Map.get [] s.core.fab.inq t.cmd.port).length < 16 ∧ t.cmd.pat.inner = 4 ∧ t.cmd.pat.outer = 1 ∧ t.cmd.pat.fmt ≠ 5 ∧ (fmtOf t.cmd.pat.fmt).isSome = true) ∧
    (∃ v w, GenReads inAct.space (inAct.address 3) inAct.size inAct.est (streaming {} []) v w) ∧
    (∃ v w, GenReads inMem.space (inMem.address 3) inMem.size inMem.est (streaming {} []) v w) ∧
    (∃ v w, GenReads inCls.space (inCls.address 3) inCls.size inCls.est (streaming {} []) v w) ∧
    (let t : Stream := { cmd := { port := 15, pat := indexed }, acquired := true, indices := [(0, 5)], gathered := [(0, 9)] }
     t.runs = true ∧ t.cmd.pat.kind = 1 ∧ t.due = .value 0 0 ∧ Map.find t.gathered 0 = some 9) ∧
    (let t : Stream := { cmd := { port := 15, pat := indexed }, acquired := true }
     t.cmd.pat.inner ≠ 0 ∧ t.gatherOpen 0 = true ∧ Map.find t.indices (0 / t.cmd.pat.len 0) = none ∧ ∃ v w, GenReads 0 (indexed.indexAddress 0) 4 true (streaming t []) v w) ∧
    (let t : Stream := { cmd := { port := 15, pat := indexed }, acquired := true, indices := [(0, 5)] }
     t.gatherOpen 3 = true ∧ Map.find t.indices (3 / t.cmd.pat.len 0) = some 5 ∧ (5 : W32) ≠ 0xFFFFFFFF ∧ Map.find t.gathered 3 = none ∧
       ∃ v w, GenReads 0 (indexed.base + (5 : W32).signExtend 64 * indexed.iscale.zeroExtend 64 + indexed.offset [0] 3) indexed.size true (streaming t []) v w) := by
  refine ⟨by decide +kernel, ?_, ?_, ?_, by decide +kernel, ?_, ?_⟩
  · exact ⟨_, _, .buffer (by decide) (by decide +kernel) (by unfold LinesFull; decide +kernel) (.inr (by unfold LinesExact; decide +kernel))⟩
  · refine ⟨_, _, .memory 0x21000C data ?_ ?_ ?_ ?_ ?_⟩ <;> try decide +kernel
  · exact ⟨_, _, .cluster (by decide +kernel) (by decide +kernel)⟩
  · refine ⟨?_, ?_, ?_, _, _, .memory 0x210100 data rfl ?_ ?_ ?_ ?_⟩ <;> try decide +kernel
  · refine ⟨?_, ?_, ?_, ?_, _, _, .memory 0x210020 data rfl ?_ ?_ ?_ ?_⟩ <;> try decide +kernel

theorem witness_StreamSteps_write :
    (∀ k ∈ [eosToken, dataToken 3 7],
      let t : Stream := { cmd := { sub := 1, port := 16, pat := inMem }, acquired := true, pos := 3 }
      let s := streaming t [{ tok := k }]
      t.failed = none ∧ Map.get [] s.core.fab.outq (16 - 16) = [{ tok := k }] ∧ t.runs = true ∧ t.cmd.pat.kind = 0 ∧ t.cmd.pat.fmt ≠ 5 ∧ t.exhausted = false ∧
        t.cmd.pat.space = 0 ∧ canonical (t.cmd.pat.address 3) = true ∧ s.isUnitPage (va57 (t.cmd.pat.address 3)) = false ∧
        s.translate s.core.proc 1 false (va57 (t.cmd.pat.address 3)) = .frame 0x21000C data ∧ s.memBad 0x21000C 4 = false) ∧
    (let t : Stream := { cmd := { sub := 1, port := 16, pat := inCls }, acquired := true }; t.runs = true ∧ t.exhausted = false ∧ t.cmd.pat.space = 4) ∧
    (let t : Stream := { cmd := { sub := 1, port := 16, pat := inAcc }, acquired := true, pos := 1, line := [(0, 7), (1, 0), (2, 0), (3, 0)] }
     t.runs = true ∧ t.exhausted = false ∧ t.cmd.pat.space = 3 ∧ ∀ y ∈ t.line, y.1 / 128 = (t.cmd.pat.address 1).toNat / 128) ∧
    (let t : Stream := { cmd := { sub := 1, port := 16, pat := inAcc }, acquired := true, row := 1 }; t.runs = true ∧ t.exhausted = true ∧ t.cmd.pat.kind = 0) ∧
    (let t : Stream := { cmd := { sub := 1, port := 16, pat := inAcc }, acquired := true, eos := true, line := (List.range 128).map (fun k => (65408 + k, 1)) }
     let s := streaming t []
     t.failed = none ∧ t.acquired = true ∧ t.fault = none ∧ s.streamMerges 0 0 t = false ∧ t.ended = false ∧ (t.line.map (fun x => x.1)).Pairwise (fun x y => x < y) ∧
       (∀ y ∈ t.line, y.1 / 128 = 511) ∧ 128 ≤ t.line.length) ∧
    (∀ rel ∈ [true, false],
      let t : Stream := { cmd := { sub := 1, port := 16, pat := inAcc, hasp := { rel := rel } }, acquired := true, eos := true, ended := true }
      t.ended = true ∧ t.cmd.hasp.rel = rel ∧ t.relSent = false ∧ (streaming t []).streamMerges 0 0 t = false) := by
  refine ⟨?_, ?_, ?_, ?_, ?_, ?_⟩ <;> try decide +kernel

/-- A copy of two lines at the head of channel 3. -/
def copying (x : Copy) : State := base.modCore (fun c => { c with chans := [(3, { queue := [x] })] })

theorem witness_CopySteps :
    (let x : Copy := { src := 0, dst := 0x10000, len := 256, dsp := 0, ssp := 3, hasp := { acq := true } }; ((copying x).core.chan 3).queue = [x] ∧ x.started = false) ∧
    (let x : Copy := { src := 0, dst := 0x10000, len := 256, dsp := 0, ssp := 3, landed := 128, started := true, acquired := true }
     let s := copying x
     x.fault = none ∧ x.landed < x.len ∧ CopyReady 3 x s (x.behindRead (valueOf (bufferBytes 3 s 128 128)))
       ((s.afterBank (.copy 3) 0 3 128 128).modCore (Core.modCopy 3 (fun _ => x.behindRead (valueOf (bufferBytes 3 s 128 128)))))) ∧
    (let x : Copy := { src := 0, dst := 0x10000, len := 256, dsp := 0, ssp := 3, landed := 248, staged := List.replicate 8 1, started := true, acquired := true }
     let s := copying x
     let d := x.dst + BitVec.ofNat 64 x.landed
     CopyReady 3 x s x s ∧ (s.procAt s.core.proc).sendVa = none ∧ (s.procAt s.core.proc).launchVa = none ∧
       s.translate s.core.proc 1 false (va57 d) = .frame 0x2100F8 data ∧ s.memBad 0x2100F8 8 = false) ∧
    (let x : Copy := { src := 0, dst := 0xFFF00, len := 256, dsp := 4, ssp := 4, landed := 248, staged := List.replicate 8 1, acquired := true }
     CopyReady 3 x (copying x) x (copying x)) ∧
    (let x : Copy := { src := 0, dst := 64, len := 256, dsp := 1, ssp := 4, landed := 64, staged := List.replicate 120 1, acquired := true }
     copyAsk x x.dsp x.dst x.landed = 128 ∧ (∃ v w, CopyReads 3 x (copying x) v w) ∧ ∀ v, (x.behindRead v).staged.length = 128) ∧
    (let x : Copy := { src := 0, dst := 64, len := 256, dsp := 1, ssp := 4, landed := 64, acquired := true }
     (∃ v w, CopyReads 3 x (copying x) v w) ∧ ∀ v, (x.behindRead v).staged.length = 8) ∧
    (let m : MmulArgs := { gd := 5, a := 6, opnd := 7, s := 1, fmt := 1, fl := flagless }
     ∀ x ∈ [({ len := 256, landed := 256, acquired := true, hasp := { rel := true } } : Copy), { len := 0, acquired := true, mmul := some m, mcmd := some {} }],
       x.fault = none ∧ x.len ≤ x.landed ∧ x.relSent = false ∧ m.s.toNat < 4 ∧
       ∀ n ∈ [7, 8], let s := (copying x).modCluster (fun c => { c with mstreams := [(1, List.replicate n {})] })
        (s.cluster.mstream (s.core.id % 16 * 4 + m.s.toNat)).length = n) := by
  refine ⟨?_, ⟨rfl, ?_, .reads _ _ ?_ ⟨.buffer ?_ ?_ (by unfold LinesFull; decide +kernel)
    (.inr (by unfold LinesExact; decide +kernel)), by unfold AtBank; decide +kernel⟩ ?_⟩, ⟨.held ?_, ?_⟩, .held ?_,
    ⟨?_, ⟨_, _, .cluster rfl ?_, .inr (.inl rfl)⟩, fun v => rfl⟩, ⟨⟨_, _, .cluster rfl ?_, .inr (.inl rfl)⟩, fun v => rfl⟩, ?_⟩ <;> try decide +kernel

/-- The fields of a task's context while its core comes to rest. -/
def asked (why : QuiesceCause) : State := base.modCore (fun c => { c with qreq := some why })

theorem witness_ContextSteps :
    (base.core.run = .running ∧ base.core.qreq = none ∧ base.core.stop = none ∧ base.tenantHeld base.core.stack base.core.tenant = false ∧ base.core.fab.switch = none ∧
      ((base.modTask 1 (fun t => { t with debug := true })).taskAt 1).debug = true) ∧
    (let s := asked .save
     s.core.qreq ≠ none ∧ s.core.qpt = false ∧ s.core.fab.switch = none ∧ s.core.generatorsDone = true ∧ s.core.unheld = [] ∧ s.core.heldTokens = false ∧ s.unitsDone = true ∧
       (s.taskAt s.taskNum).killing = false ∧ s.core.ptrg.getLsbD 0 = false) ∧
    (∀ why ∈ [QuiesceCause.save, .stop],
      let s := (asked why).modCore (fun c => { c with qpt := true, stop := some (3, 0, 0, []) })
      s.core.qreq = some why ∧ s.core.qpt = true ∧ s.quiescent = true ∧ s.core.task = some 1 ∧ (Map.find s.tasks 1).isSome = true ∧ (s.taskAt 1).killing = false ∧
        s.core.stop = some (3, 0, 0, [])) ∧
    (let s := (base.modCore (fun c => { c with run := .idle })).modTask 1 (fun t => { t with saved := some {} })
     s.core.task = some 1 ∧ s.core.run = .idle ∧ s.core.scrub = false ∧ (s.taskAt 1).saved = some {} ∧ (Map.find s.tasks 1).isSome = true) ∧
    (∀ n ∈ [7, 8],
      let g : Nat → List (Nat × Engine) := fun k => [(0, { slots := (List.range k).map (fun i => (i, { cmd := { pat := indexed } })) })]
      let v : Saved := { core := { engines := g 1 } }
      let s : State := { (base.modCore (fun c => { c with run := .idle })).modTask 1 (fun t => { t with saved := some v }) with others := [(15, { id := 15, engines := g n })] }
      v.core.indirect = 1 ∧ (if n = 8 then 8 < s.indirect + v.core.indirect else s.indirect + v.core.indirect ≤ 8)) ∧
    (asked .save).core.qreq ≠ none ∧
    base.walk 1 (va57 0x1000) = some (page 0 (leaf 5 0 0 0 0x200000)) ∧
    (canonical 0xFFFC = true ∧ base.translate base.core.proc 2 false (va57 0xFFFC) = .frame 0x20FFFC (page 0 (leaf 5 0 0 0 0x200000)) ∧
      base.memBad (0x20FFFC / 64 * 64) 64 = false) ∧
    (canonical 0x0100000000000000 = false ∧ canonical 0x10000 = true ∧ base.translate base.core.proc 2 false (va57 0x10000) = .right ∧ base.core.fatal = none ∧
      va57 0x10000 = 0x10000) := by
  refine ⟨?_, ?_, ?_, ?_, ?_, ?_, ?_, ?_, ?_⟩ <;> try decide +kernel

/-- Trace walks at element 0: fed by element 1's first lane, and by input port 0. -/
theorem witness_ContextSteps_trace :
    (let s := fabric [(0, 0, 0x10), (0, 1, 1), (1, 6, 1), (129, 16, 17), (128, 17, 5 * 32)] [] (fun f => { f with trace := { node := some 0, snapshot := [(0, 0, 0)] } })
     let x := s.core.fab.trace
     x.node = some 0 ∧ Map.get (5, 0) x.snapshot 0 = (0, 0) ∧ (s.core.fab.plane x.plane).origin (feedOf 0 0).1 (feedOf 0 0).2 32 = .lane 1 0 ∧ 0 ∉ x.seen ∧ x.steps.length < 127) ∧
    (let s := ((fabric [(0, 0, 0x10), (0, 1, 1), (128, 17, 29 * 32)] [] (fun f => { f with trace := { node := some 0, snapshot := [(0, 0, 0)] } })).modTask 1
       (fun t => { t with ring := some (0x80000, 64) }))
     let x := s.core.fab.trace
     let e := page 8 (leaf 1 0 0 0 0x270000)
     (s.core.fab.plane x.plane).origin (feedOf 0 0).1 (feedOf 0 0).2 32 = .port 0 ∧ x.steps.length < 6 ∧ (s.taskAt s.taskNum).ring = some (0x80000, 64) ∧ x.ring < 64 ∧
       s.leafFor s.core.proc (va57 (0x80000 + BitVec.ofNat 64 (64 * x.ring))) = some e ∧ pteState e.pte = 0 ∧ pteW e.pte = false ∧ s.stackGone 0 = false) := by decide +kernel

def haspAtHome (v : Hasp) : State := base.setHasp 0x210080 v

/-- Task 1 stands at an instruction of a word, its hasp at 0x10080 in g22; g30 holds the amount of a signal. -/
def standing (w : Nat) (v : Hasp) : State := cachedLine 0x40 [w] (gs [(22, 0x10080), (30, 5)] (haspAtHome v))

theorem stands_at {w : Nat} {i : Instr} {v : Hasp} (h : (match (standing w v).core.fetch with
    | .words ws => decide ((standing w v).core.holds 1 = true ∧ (standing w v).core.issues = true) && (match decode (fetchedBytes ws) with
      | .ok (j, _) => j == i
      | .error _ => false)
    | .miss _ => false) = true) : StandsAt 1 i (standing w v) := by
  cases hf : (standing w v).core.fetch with
  | miss va => rw [hf] at h; cases h
  | words ws =>
    rw [hf] at h
    cases hd : decode (fetchedBytes ws) with
    | error e => simp [hd] at h
    | ok p =>
      simp only [hd, Bool.and_eq_true, decide_eq_true_eq, beq_iff_eq] at h
      exact ⟨h.1.1, h.1.2, ws, p.2, hf, by rw [hd, ← h.2]⟩

theorem witness_HaspsAtWork_stands :
    StandsAt 1 (.hacq 22) (standing 0xEC162000 (lockOf 0xFFFFFFFF)) ∧ StandsAt 1 (.hrel 22) (standing 0xEC163000 (lockOf 1)) ∧
    StandsAt 1 (.harr 22) (standing 0xEC164000 (haspOfMode 1)) ∧ StandsAt 1 (.hwait 22) (standing 0xEC165000 { haspOfMode 2 with phase := true }) ∧
    StandsAt 1 (.hsig 22 30) (standing 0xEC1661E0 (haspOfMode 3)) ∧ StandsAt 1 (.join 22) (standing 0xEC167000 { haspOfMode 4 with p := 0xFFFFFFFE }) ∧
    (let s := standing 0xEC162000 {}
     let u := s.touch data true
     s.core.task = some 1 ∧ s.core.wait = .none ∧ s.tag 22 = false ∧ s.tag 30 = false ∧ (s.reg 22).toNat % 64 = 0 ∧ s.translate 1 1 false 0x10080 = .frame 0x210080 data ∧
       HomeApart u 0x210080 ∧ ReleaseFree u 0x210080 ∧ u.relPending 0x210080 s.core.accepted = false ∧ u.hidBad 0x210080 = false ∧ (u.hasp 0x210080).init = false ∧
       s.core.ta = false ∧ s.core.tvec ≠ 0) := by
  refine ⟨stands_at ?_, stands_at ?_, stands_at ?_, stands_at ?_, stands_at ?_,
    stands_at ?_, ?_⟩ <;> try decide +kernel
  unfold HomeApart ReleaseFree Core.CacheWf; decide +kernel

theorem witness_HaspsAtWork :
    (2 ^ 23 - 1 < 2 ^ 23 ∧ (2 ^ 23 - 1) / 8 ∉ base.cluster.badWords ∧ base.coreOfTask 2 = none) ∧
    (Map.find base.tasks 1 = some (Map.get {} base.tasks 1) ∧ (0x210080 : Word).toNat % 64 = 0 ∧ base.hidBad 0x210080 = false ∧ (base.hasp 0x210080).init = false ∧
      base.core.holds 1 = true) ∧
    (∀ v ∈ [lockOf 0xFFFFFFFF, lockOf 1, haspOfMode 1, haspOfMode 3, { haspOfMode 2 with phase := true }, { haspOfMode 4 with p := 0xFFFFFFFE }],
      let s := haspAtHome v
      s.hasp 0x210080 = v ∧ HaspOk s 0x210080 (Map.get {} s.tasks 1).tenant ∧ v.wkind = 0 ∧ s.flipWaiters 0x210080 = [] ∧ s.lockWaiter 0x210080 = none ∧
        (Map.get {} s.tasks 1).notes.length < 16 ∧ (Map.get {} s.tasks 1).note 0x210080 = false ∧ (Map.get {} s.tasks 1).groups = []) ∧
    (let s := ((haspAtHome (haspOfMode 3)).modCore (fun c => { c with wait := .hasp 0x210080 })).modTask 1 (fun t => { t with wake := some 0x210080, granted := some 5 })
     Map.find s.tasks 1 = some (Map.get {} s.tasks 1) ∧ (Map.get {} s.tasks 1).wake = some 0x210080 ∧ s.core.holds 1 = true ∧ s.core.wait = .hasp 0x210080 ∧
       (Map.get {} s.tasks 1).granted = some 5) ∧
    (let v : Saved := { core := { wait := .hasp 0x210080, pc := 0x1000 } }
     let s := ((haspAtHome (haspOfMode 3)).modCore (fun c => { c with task := none, run := .idle })).modTask 1
       (fun t => { t with wake := some 0x210080, status := .parked, saved := some v })
     s.coreOfTask 1 = none ∧ (Map.get {} s.tasks 1).wake = some 0x210080 ∧ (Map.get {} s.tasks 1).status = .parked ∧ (Map.get {} s.tasks 1).saved = some v ∧
       v.core.wait = .hasp 0x210080 ∧ v.core.lcnt = 0) ∧
    (∀ x ∈ [({ ref := 0x10080, hid := 0x210080 } : HaspFlight), { ref := 0x10080, hid := 0x210080, rel := true }],
      let s := (haspAtHome { haspOfMode 2 with n := 64 }).modCore (fun c => { c with flights := [x], engines := [(0, { slots := [(0, {})] })] })
      s.core.flights[0]? = some x ∧ HaspOk s x.hid s.core.tenant ∧ x.hid % 64 = 0 ∧ s.relPending x.hid x.order = false ∧ (s.hasp x.hid).mode = 2 ∧ (s.hasp x.hid).wkind = 0 ∧
        s.flipWaiters x.hid = [] ∧ Map.find (s.core.engine x.a).slots x.b = some {}) ∧
    (∀ r ∈ [false, true],
      let s := (haspAtHome (haspOfMode 1)).modCore (fun c => { c with flights := [{ ref := 0x10080, hid := 0x210080, rel := r, unit := 1, a := 3 }], chans := [(3, { queue := [{}] })] })
      HaspOk s 0x210080 s.core.tenant ∧ (s.core.chan 3).queue = [{}] ∧ (s.hasp 0x210080).mode = 1) ∧
    (let s := (haspAtHome (lockOf 1)).modCore (fun c => { c with flights := [{ ref := 0x10080, hid := 0x210080, rel := true }] })
     HaspOk s 0x210080 s.core.tenant ∧ (s.hasp 0x210080).mode = 0 ∧ (0x10080 : Word).toNat % 64 = 0) := by
  unfold HaspOk
  refine ⟨?_, ?_, ?_, ?_, ?_, ?_, ?_, ?_⟩ <;> try decide +kernel

/-- Commands in command stream 63 of the cluster; core 15 issues them. -/
def matrixed (q : List MatCmd) (g : Cluster → Cluster) : State :=
  { base.modCluster (fun c => g { c with mstreams := [(63, q)], mturn := 62, wslots := [(5, { owner := some 1 })] }) with
    others := [(15, { id := 15, run := .running })] }

theorem witness_EnginesAtWork_matrix :
    (∀ m ∈ [({ load := true, slot := 5 } : MatCmd), { slot := 5 }, { slot := 5, k := 32 }],
      let s := matrixed [m] id
      (63 : Nat) < 64 ∧ s.cluster.mturn < 63 ∧ s.matrixReady 63 = true ∧ s.cluster.mstream 63 = [m] ∧ (s.cluster.wslot 5).k = 128 ∧ (s.cluster.wslot 5).n = 128) ∧
    (let m : MatCmd := { load := true, slot := 5, k := 32, n := 32, acquired := true }
     let s := matrixed [m] (fun c => { c with loading := some 63 })
     s.cluster.mstream 63 = [m] ∧ s.cluster.loading = some 63 ∧ 0 < blockBytes m.fmt (m.n * m.k) ∧ (s.coreAt 15).wgt = {}) ∧
    (let m : MatCmd := { slot := 5, m := 1, src := 128, dst := 128, acquired := true }
     let s := matrixed [m] (fun c => { c with multiplying := some 63 })
     s.cluster.mstream 63 = [m] ∧ s.cluster.multiplying = some 63 ∧ m.m ≠ 0 ∧ 0 < blockBytes m.fmt (m.m * m.k) ∧ m.dst % 128 = 0 ∧ (s.coreAt 15).act = {}) ∧
    (let m : MatCmd := { slot := 5, m := 1, n := 32, dst := 128, opnd := 0x1000000 }
     m.accEst {} = none ∧ m.accEst { est := [(1, true)] } = some 1) ∧
    (let m : MatCmd := { slot := 5, m := 1, n := 32, dst := 128, opnd := 0x1000000, acquired := true, hasp := { acq := true } }
     let s := matrixed [m] (fun c => { c with multiplying := some 63 })
     s.cluster.mstream 63 = [m] ∧ s.cluster.multiplying = some 63 ∧ m.hasp.rel = false ∧ opndAcc m.opnd = true ∧ m.accEst (s.coreAt 15).acc = none ∧
       AtBankOf 15 (.matrix 63 false) 0 3 128 128 s) ∧
    ((∀ e ∈ slotted.cluster.mstreams, ∀ m ∈ e.2, m.slot ≠ 63) ∧ (slotted.cluster.wslot 63).bad = false) ∧
    ∀ x : Nat, Buffer.full {} x = true ∧ Buffer.isEst {} x = false := by
  unfold AtBankOf
  refine ⟨?_, ?_, ?_, ?_, ?_, ?_, fun _ => ⟨rfl, rfl⟩⟩ <;> decide +kernel

/-- A command at the head of array 8191, whose lane is 15. -/
def arrayAt (a : XArray) : State := base.modCluster (fun c => { c with arrays := [(8191, a)] })

theorem witness_EnginesAtWork_crossbar :
    (let x : XbarCmd := { kind := 1, core := 0, src := 195968, acquired := true }
     let s := (arrayAt { state := .ready, queue := [x] }).modCluster (fun c => { c with laneTurn := [(15, 15)] })
     let s' := (arrayAt { state := .ready, queue := [{ x with core := 15 }] }).modCluster (fun c => { c with laneTurn := [(15, 14)] })
     (s.fireReady 15 0 = some 8191) ∧ Map.find s'.cluster.lanes 15 = none ∧ Map.get 15 s'.cluster.laneTurn 15 < 15 ∧ s'.fireReady 15 15 = some 8191 ∧
       (s'.cluster.array 8191).queue = [{ x with core := 15 }] ∧ (s'.coreAt 15).act = {}) ∧
    (∀ st ∈ [ArrayState.zero, .ready],
      let x : XbarCmd := { kind := 1, core := 0, dst := 63488, acquired := true, started := true, badShim := true }
      let a : XArray := { state := st, queue := [x] }
      let s := arrayAt a
      (8191, a) ∈ s.cluster.arrays ∧ s.cluster.array 8191 = a ∧ laneOf 8191 = 15 ∧ x.relSent = false ∧ (∀ e ∈ s.cluster.arrays, e = (8191, a)) ∧
        s.cluster.fencedLane 8191 = false ∧ x.hasp.rel = false ∧ x.dst % 128 = 0 ∧ a.driftReason x s.free = some 3) ∧
    (∀ b ∈ [false, true],
      let s := (arrayAt { state := .ready, queue := [{ kind := 2, started := b }] }).modCluster (fun c => { c with lanes := if b then [(15, 8191)] else [] })
      (s.cluster.array 8191).queue = [{ kind := 2, started := b }] ∧ (b = false → Map.find s.cluster.lanes 15 = none) ∧ s.cluster.fencedLane 8191 = false ∧
        (s.cluster.array 8191).state ≠ .worn ∧ (s.cluster.array 8191).state ≠ .zero) ∧
    (∀ b ∈ [false, true],
      let x : XbarCmd := { kind := 0, core := 0, acquired := true, started := b }
      let s := arrayAt { queue := [x], progs := 999999 }
      (s.cluster.array 8191).queue = [x] ∧ x.relSent = false ∧ x.core = s.core.id ∧ s.cluster.fencedLane 8191 = false ∧ (s.cluster.array 8191).state ≠ .worn ∧
        (s.cluster.array 8191).progs < 1000000 ∧ Map.find s.cluster.lanes (laneOf 8191) = none ∧ x.hasp.rel = false) ∧
    (∀ k : Nat, k < 131072 → -15 ≤ (arrayAt { queue := [{}] }).sourceLevel 0 k ∧ (arrayAt { queue := [{}] }).sourceLevel 0 k ≤ 15) ∧
    ((base.cluster.array 8191).queue = [] ∧ (base.cluster.array 8191).state ≠ .worn) := by
  refine ⟨?_, ?_, ?_, ?_, fun k _ => ?_, ?_⟩ <;> try decide +kernel
  have h : (arrayAt { queue := [{}] }).sourceLevel 0 k = 0 := rfl
  rw [h]; decide

/-- Free frames of tenant 1 on die 0. -/
def framed : State := base.modDieAt 0 (fun d => { d with free := [(2, [0x300000])] })
def faultAt (i access : Nat) : FaultTok := { proc := 1, va := i * 65536, access := access }
def paging (s : State) (f : FaultTok) : State := s.modDieAt 0 (fun d => { d with pager := [f] })

theorem witness_MemoryAtWork_dram :
    ¬ (2 ^ 41 < 2 ^ 41 ∧ 2 ^ 41 % 2 ^ 37 < 0x1800000000) ∧ 2 ^ 41 - 2 ^ 37 + 0x17FFFFFFFF < 2 ^ 41 ∧ (2 ^ 41 - 2 ^ 37 + 0x17FFFFFFFF) % 2 ^ 37 < 0x1800000000 ∧
    (base.dieAt 15).fenced = false ∧ (base.dieAt 15).activations = [] ∧
    2048 ≤ Map.get 0 (base.modDie (fun d => { d with activations := [(0, 2048)] })).die.activations 0 ∧
    (tlbFind base.die.tlb 1 (va57 0x10000) = none ∧ base.walk 1 (va57 0x10000) = some data ∧ pteState data.pte = 0) ∧
    (let s : State := { base with pkg := { unacked := [(1, 0x10000, 65536)] } }; s.pkg.unacked = [(1, 0x10000, 65536)]) ∧
    (let s := base.modCore (fun c => { c with faults := [faultAt 3 0] })
     s.core.faults[0]? = some (faultAt 3 0) ∧ s.faultCase (faultAt 3 0) ≠ .fine ∧ s.stackCut 0 (s.serving (faultAt 3 0)) = false ∧
       (s.dieAt (s.serving (faultAt 3 0))).pager.length < 256) ∧
    (let f : FaultTok := { faultAt 3 0 with core := 15 * 256 }
     let s := (base.modCore (fun c => { c with faults := [f] })).modDieAt 0 (fun d => { d with fenced := true })
     s.core.faults[0]? = some f ∧ s.faultCase f ≠ .fine ∧ s.stackCut (f.core / 256) (s.serving f) = true ∧ (s.dieAt (f.core / 256)).pager.length < 256) := by decide +kernel

/-- A DISCARDED page under a store, a ZERO page and a SWAPPED page with a free frame, a ZERO page with none, addresses without a leaf and without a right. -/
theorem witness_MemoryAtWork_pager :
    (∀ p ∈ [(2, leaf 3 0 4 0 0x220000, 4), (3, leaf 3 0 1 0 0, 1), (7, leaf 3 0 2 0 0x260000, 2)],
      let s := paging framed (faultAt p.1 1)
      let e := page p.1 p.2.1
      s.die.pager[0]? = some (faultAt p.1 1) ∧ s.faultCase (faultAt p.1 1) = .paged e ∧ s.memWf = true ∧ pteState e.pte = p.2.2 ∧
        Map.get [] (s.dieAt (paStack (pteFrame e.pte))).free (s.tenantOf e.proc * 2 + (if e.size = 65536 then 0 else 1)) = [0x300000] ∧ e.size ≤ 2 ^ 21 ∧ FrameNumber 0x300000 ∧
        paStack 0x300000 = paStack (pteFrame e.pte) ∧ (s.dieAt (paStack (pteFrame e.pte))).fenced = false ∧ CleanFrame (pteFrame e.pte) e.size s) ∧
    (let s := paging base (faultAt 3 1)
     Map.get [] (s.dieAt 0).free 2 = [] ∧ s.frameOk (page 3 (leaf 3 0 1 0 0)) 0x300000 = true ∧ s.faultCase (faultAt 3 1) = .paged (page 3 (leaf 3 0 1 0 0))) ∧
    (let s := paging base (faultAt 31 1)
     s.die.pager = [faultAt 31 1] ∧ s.faultCase (faultAt 31 1) = .noLeaf ∧ (faultAt 31 1).unit = .thread ∧ (faultAt 31 1).core = s.core.id ∧ (faultAt 31 1).proc = s.core.proc) ∧
    (let s := (paging framed (faultAt 7 1)).modDieAt 0 (fun d => { d with badWords := [0x260000 / 8] })
     s.die.pager = [faultAt 7 1] ∧ s.faultCase (faultAt 7 1) = .paged (page 7 (leaf 3 0 2 0 0x260000)) ∧ s.wordsBad 0x260000 65536 = true ∧
       framed.wordsBad 0x260000 65536 = false ∧ framed.cutOff 0x220000 = false) ∧
    (paging base (faultAt 8 1)).faultCase (faultAt 8 1) = .right := by unfold FrameNumber CleanFrame; decide +kernel

theorem witness_MemoryAtWork_moves :
    (base.walk 1 (va57 0x10000) = some data ∧ base.recordPage data = false ∧ base.memWf = true ∧ pteState data.pte = 0 ∧ pteFib data.pte = false ∧ FrameNumber 0x310000 ∧
      base.frameOk data 0x310000 = true ∧ base.cutOff 0x210000 = false ∧ base.cutOff 0x310000 = false ∧ base.haspBusy 0x210000 65536 = false ∧
      (base.modCore (fun c => { c with flights := [{ ref := 0x10080, hid := 0x210080 }] })).haspBusy 0x210000 65536 = true ∧ CleanFrame (pteFrame data.pte) data.size base) ∧
    (let s : State := { framed with pkg := { migrations := [(1, 0x60000, 0)] } }
     let e := page 6 (leaf 3 0 3 0 0x250000)
     s.walk 1 (va57 0x60000) = some e ∧ pteState e.pte = 3 ∧ s.migration 1 e.va = some 0 ∧ s.pageUnacked 1 e.va = false ∧ FrameNumber 0x300000 ∧ paStack 0x300000 = 0 ∧
       0x300000 ∈ s.freeFrames 0 (s.tenantOf 1) e.size ∧ s.cutOff 0x250000 = false ∧ CleanFrame (pteFrame e.pte) e.size s) ∧
    (base.wordsBad 0x210000 65536 = false ∧ base.reaches 0 0 = true ∧ (base.modDieAt 0 (fun d => { d with badWords := [0x210008 / 8] })).wordsBad 0x210000 65536 = true ∧
      (base.modDieAt 0 (fun d => { d with fenced := true })).cutOff 0x210000 = true) ∧
    (let e := page 2 (leaf 3 0 4 0 0x220000)
     base.walk 1 (va57 0x20000) = some e ∧ pteState e.pte = 4 ∧ base.pageUnacked 1 e.va = false ∧ base.haspBusy 0x220000 65536 = false) := by unfold FrameNumber CleanFrame; decide +kernel

/-- The fibre of `header` with a posted FMERGE in the queue of task 1 at its home. -/
def merging (h : FHdr) (o : FibOp) : State := (fibred h).modDieAt 0 (Die.setFibQueue 1 [o])
def posted (k v : W32) : FibOp := { hdr := 0x230000, va := 0x40000, key := k, val := v, task := 1, tenant := 1 }

theorem fibre_ok (k : Nat) (h : k = 3 ∨ k = 5) : FibreOk (merging header (posted (BitVec.ofNat 32 k) 0x3F800000)) 0x230000 := by
  rcases h with rfl | rfl <;>
    exact ⟨by decide +kernel, by decide +kernel, by unfold RowApart; decide +kernel, by unfold State.entries; decide +kernel⟩

/-- A merge of the stream in slot 3 of engine 3 whose core reaches its home, and one that does not. -/
theorem witness_FibreHomes_posted :
    (let o : FibOp := { posted 3 0 with stream := some (3, 3), seq := 9 }
     let t : Stream := { cmd := { port := 31, sub := 1, hasp := { order := 9 } }, acquired := true }
     let s := (merging header o).modCore (fun c => { c with engines := [(3, { slots := [(3, t)] })] })
     Posted o o.hdr s ∧ s.core.holds o.task = true ∧ SlotIs 3 3 t s ∧ o.seq = t.cmd.hasp.order) ∧
    (let o : FibOp := { posted 3 0 with core := 15 * 256 + 255 }
     let s : State := { merging header o with pkg := { links := linkKeys.map (fun k => (k, { fenced := true })) } }
     s.die.fibQueue 1 = [o] ∧ o.kind = 0 ∧ s.fibDamaged o.hdr .chain = false ∧ s.reaches (o.core / 256) (paStack o.hdr) = false) := by unfold Posted SlotIs; decide +kernel

/-- An entry with the key, one whose result is zero and dropped, a new key with room in the segments, one with a row from the pool; an entry that FMRGF read. -/
theorem witness_FibreHomes_merge :
    (∀ k, k = 3 ∨ k = 5 → FibreOk (merging header (posted (BitVec.ofNat 32 k) 0x3F800000)) 0x230000) ∧
    (∀ k ∈ [3, 5],
      let o := posted (BitVec.ofNat 32 k) 0x3F800000
      let s := merging header o
      s.die.fibQueue 1 = [o] ∧ s.fibDamaged 0x230000 .chain = false ∧ s.fibCheck o.hdr o.tenant (some o.fmt) false = none ∧ o.kind = 0 ∧ (s.fhdr o.hdr).dz = false ∧
        ((s.entries o.hdr).find? (fun e => e.1 == o.key)).isSome = (k == 3) ∧ s.fibChain o.hdr ≠ [] ∧ ∀ g ∈ s.fibChain o.hdr, g.ents.length < 126) ∧
    (let o := posted 3 0xBF800000
     let h : FHdr := { header with attr := header.attr + 32 }
     let s := merging h o
     (s.fhdr o.hdr).dz = true ∧ fibIsZero (s.fhdr o.hdr).vfmt (fibCombine (s.fhdr o.hdr).vfmt (s.fhdr o.hdr).comb 0x3F800000 (fibConvert (s.fhdr o.hdr).vfmt o.fmt o.val)) = true) ∧
    (let o : FibOp := { posted 0 0 with kind := 1, src := 0x280000, buffer := [(7, 1)] }
     let s := merging header o
     o.kind ≠ 0 ∧ o.buffer = [(7, 1)] ∧ o.stream = none ∧ o.flow = none ∧ s.core.holds o.task = true ∧ s.fibDamaged o.hdr .chain = false ∧
       s.fibCheck o.hdr o.tenant none false = none ∧ fmrgfOk o.srcFmt (s.fhdr o.hdr).vfmt = true ∧ fmrgfOk 1 (s.fhdr o.hdr).vfmt = false) ∧
    PoolRoom (merging { header with nseg := 0, nent := 0, first := 0xFFFFFFFF } (posted 3 0)) 0x230000 := by
  refine ⟨fibre_ok, ?_, ?_, ?_, ⟨{ tenant := 1, quota := 2, used := 1 }, ?_, ?_⟩, ?_, ?_⟩ <;> try decide +kernel
  unfold RowApart; decide +kernel

theorem witness_FibreHomes_streams :
    (let o := { posted 3 0 with tenant := 2 }
     let s := merging header o
     s.die.fibQueue 1 = [o] ∧ s.fibDamaged o.hdr .chain = false ∧ s.reaches (o.core / 256) (paStack o.hdr) = true ∧ s.fibCheck o.hdr o.tenant (some o.fmt) false = some 3 ∧ o.stream = none ∧ o.flow = none ∧ s.core.holds o.task = true ∧
       (let w := (s.modCore (fun c => { c with task := none, run := .idle })).modTask 1 (fun t => { t with saved := some {} })
        w.coreOfTask o.task = none ∧ ((Map.find w.tasks o.task).bind (fun k => k.saved)) = some {})) ∧
    (let t : Stream := { cmd := { port := 15, pat := { base := 0, xbase := 0x40000, lens := [1, 0, 0, 0], strs := [4, 0, 0, 0], ctrl := 0x6001 } }, acquired := true }
     let s := (fibred header).modCore (fun c => { c with engines := [(3, { slots := [(3, t)] })] })
     Map.find (s.core.engine 3).slots 3 = some t ∧ t.runs = true ∧ s.core.qreq = none ∧ s.fibUsed s.taskNum 0x230000 t.cmd.hasp.order = false ∧ s.fibDamaged 0x230000 .chain = false ∧
       s.fibCheck 0x230000 s.core.tenant none false = none ∧ t.cmd.pat.kind = 3 ∧ t.row < t.cmd.pat.outer ∧ t.cmd.pat.inner ≠ 0 ∧
       (∃ key w, GenReads t.cmd.pat.space (t.cmd.pat.address 0) 4 t.cmd.pat.est s key w) ∧ s.translate s.core.proc 0 true (va57 t.cmd.pat.xbase) = .frame 0x230000 fibrePage) ∧
    (let t : Stream := { cmd := { port := 15, pat := { base := 0x40000, xbase := 0x800000003, ctrl := 0x4400 } }, acquired := true }
     let s := (fibred header).modCore (fun c => { c with engines := [(3, { slots := [(3, t)] })] })
     t.cmd.pat.kind = 2 ∧ t.buffer.length < 2 ∧ s.translate s.core.proc 0 true (va57 t.cmd.pat.base) = .frame 0x230000 fibrePage ∧
       ((s.fibChain 0x230000).find? (fun g => g.ents.any (fun y => decide (3 ≤ y.1.toNat)))).isSome = true) ∧
    (let o : FibOp := { posted 0 0 with kind := 1, src := 0x230000, hdr := 0x280000 }
     let s := (merging header o).setFhdr 0x280000 { attr := 2 ^ 31 + 2 ^ 20, pool := 7 }
     s.die.fibQueue 1 = [o] ∧ o.scanned = false ∧ o.buffer = [] ∧ s.fibPending o.task o.src o.seq = false ∧ s.fibUsed o.task o.hdr o.seq = false ∧ s.fibDamaged o.hdr .header = false ∧ s.fibDamaged o.src .chain = false ∧
       s.fibCheck o.hdr o.tenant none false = none ∧ s.fibCheck o.src o.tenant none false = none ∧ fmrgfOk (s.fhdr o.src).vfmt (s.fhdr o.hdr).vfmt = true ∧
       ((s.fibChain o.src).find? (fun g => g.ents.any (fun _ => true))).isSome = true) ∧
    (base.modCore (fun c => { c with posted := 16 })).core.posted ≠ 0 ∧ (base.modCore (fun c => { c with postFails := [(9, 0x40001)] })).core.postFails = [(9, 0x40001)] := by
  refine ⟨?_, ⟨?_, ?_, ?_, ?_, ?_, ?_, ?_, ?_,
    ?_, ⟨_, _, .buffer ?_ ?_ (by unfold LinesFull; decide +kernel) (.inr (by unfold LinesExact; decide +kernel))⟩, ?_⟩,
    ?_, ?_, ?_, ?_⟩ <;> try decide +kernel

theorem zero_reading_holds (d : Dy) (h : d.man = 0) : refDrifts (.fin d) 0 0 = false := by
  have z : ∀ e, dyScaled d e = 0 := by intro e; simp [dyScaled, h]
  have z' : ∀ (n : Bool) (k e : Int), dyScaled ⟨n, 0, k⟩ e = 0 := by intro n k e; simp [dyScaled]
  simp only [refDrifts, dyAdd, z, dyOfInt, dyNeg, dyAbs, marginOf, dyLt]
  simp only [Int.natAbs_zero, z', Int.add_zero, BEq.rfl, if_true]
  have p : ∀ k e : Int, 0 ≤ dyScaled ⟨false, 64 + 0, k⟩ e := by intro k e; show (0 : Int) ≤ ((64 + 0) * 2 ^ (k - e).toNat : Nat); exact Int.natCast_nonneg _
  simp only [decide_eq_false_iff_not, not_lt, p]

/-- With DRF and the input at zero, every reading of a reference stays within its margin, whatever the free reading is. -/
theorem witness_EnginesAtWork_sound_fire :
    let x : XbarCmd := { kind := 1, core := 0, dst := 63488, acquired := true, started := true }
    let a : XArray := { state := .ready, queue := [x] }
    a.driftReason x (arrayAt a).free = none := by
  have none : ∀ i, fireInput [] i = 0 := fun _ => rfl
  have dot : ∀ r, dotOf (refLevel r) [] = 0 := fun r => by
    rw [dotOf, List.map_congr_left (g := fun _ => (0 : Int)) (fun i _ => by rw [none, Int.mul_zero])]; decide +kernel
  have sum : ∀ r, pairSum (refLevel r) [] = 0 := fun r => by
    rw [pairSum, List.map_congr_left (g := fun _ => 0) (fun i _ => by rw [none]; exact Nat.mul_zero _)]; decide +kernel
  have drift : ∀ (n r : Nat) (a : XArray), a.drf = 0 → refDrifts (a.refReading n r) 0 0 = false := by
    intro n r a h
    have f : f32 0 = .fin ⟨false, 0, -149⟩ := by decide +kernel
    simp only [XArray.refReading, corrected, h, f, fAdd, fMul]
    exact zero_reading_holds _ (Nat.mul_zero _)
  simp only [XArray.driftReason, dot, sum]
  rw [drift _ 0 _ rfl, drift _ 1 _ rfl]
  rfl

/-- Every other core of die 0 belongs to tenant 2. -/
def crowded (s : State) : State := { s with others := (List.range 254).map (fun k => (k + 1, { id := k + 1, owner := some 2 })) }

/-- A slot with no binding, a stale handle, a launch that is queued or refused; a free core and a scrub. -/
theorem witness_Scheduling_launch :
    (∀ slot ∈ [3, 63],
      63 < 64 ∧ (Map.find bound.procs 1) = some (Map.get {} bound.procs 1) ∧ (Map.get {} (Map.get {} bound.procs 1).slots slot).binding.isSome = (slot == 3)) ∧
    (let v := Map.get {} (Map.get {} bound.procs 1).slots 3
     v.binding = some { gen := 1, entry := 0x2000, prio := 3 } ∧ v.handle = BitVec.ofNat 64 (1 % 2 ^ 32 * 2 ^ 32 + 1 % 2 ^ 16 * 2 ^ 16 + 3)) ∧
    (let s := bound.modProc 1 (fun p => { p with slots := [(3, { handle := 0x100000003, gen := 1, binding := some { gen := 1 } })] })
     (Map.get {} (Map.get {} s.procs 1).slots 3).handle ≠ BitVec.ofNat 64 (1 % 2 ^ 32 * 2 ^ 32 + 1 % 2 ^ 16 * 2 ^ 16 + 3)) ∧
    bound.tenantHeld 0 1 = false ∧ (bound.dieAt 0).fenced = false ∧ (bound.modDie (fun d => { d with heldTenants := [1] })).tenantHeld 0 1 = true := by
  exact ⟨by decide +kernel, by decide +kernel, by decide +kernel, by decide +kernel⟩

theorem witness_Scheduling_dispatch :
    (∀ l ∈ [none, some 1, some 2],
      let s := queued.modCore (fun c => { c with run := .idle, task := none, last := l })
      s.core.free = true ∧ s.core.id % 256 ≠ 255 ∧ s.die.fenced = false ∧ s.choose s.core = some (2, 1, 1) ∧ (Map.find s.tasks 2).isSome = true ∧ (s.taskAt 2).saved = none ∧
        (s.taskAt 2).num = 2) ∧
    (let s := crowded (queued.modTask 2 (fun t => { t with prio := 3 }) |>.modDie (fun d => { d with queues := [(1 * 4 + 3, [2])] }))
     s.preemptChoice s.core.stack 4 = some (2, 0) ∧ (Map.find s.tasks 2).isSome = true) ∧
    (let s : State := { cachedLine 0x40 [0xEC165000] (crowded (queued.modCore (fun c => { c with stalled := true, stallCyc := some 0, wait := .hasp 0x210080 }))) with cyc := 65536 }
     s.core.run = .running ∧ s.core.qreq = none ∧ s.core.stalled = true ∧ s.core.stallCyc = some 0 ∧ 0 + 65536 ≤ s.cyc ∧ s.tenantHeld s.core.stack s.core.tenant = false ∧
       (s.taskAt s.taskNum).prio ≤ 1 ∧ (1, 1) ∈ s.die.weights ∧ (s.die.queue 1 1).head? = some 2 ∧ s.core.eligible (s.taskAt 2).tenant = true ∧ s.admits s.core 2 = true ∧
       s.coreFor s.core.stack 2 = false) ∧
    (∀ ts ∈ [queued.tenants, queued.tenants.map (fun t => (t.1, { t.2 with spill := [(0, 1, 0x10000, 1024)] }))],
      let s : State := { queued.modDie (fun d => { d with spilling := [2] }) with tenants := ts }
      s.die.spilling = [2] ∧ (s.spillAt s.core.stack (s.entryTenant 2)).map Prod.fst = (if ts = queued.tenants then none else some 0x210000)) ∧
    (let s := queued.modDie (fun d => { d with spilled := [2, 2 ^ 32 + 1] }); s.die.spilled = [2, 2 ^ 32 + 1] ∧ s.slotFree s.core.stack (s.entryTenant 2) = true) := by
  refine ⟨?_, ?_, ?_, ?_, ?_⟩ <;> try decide +kernel

theorem witness_Scheduling_ends :
    (∀ r ∈ [none, some (1, 0x10000, 1024)],
      let s : State := { base with tenants := [(1, { slots := [(0, 1)] })] }
      let h : HoldEnd := { tenant := 1, region := r }
      let t := s.restoreSpill s.core.stack h.tenant h.region
      s.slotsUsed s.core.stack 1 ≤ s.slotsOf s.core.stack 1 ∧ (t.spillAt s.core.stack 1).isSome = r.isSome) ∧
    ((Map.find queued.tasks 2).isSome = true ∧ (queued.taskAt 2).status ≠ .retired ∧ (queued.taskAt 2).status ≠ .killed ∧ queued.coreOfTask 2 = none) ∧
    (base.core.holds 1 = true ∧ (base.modCore (fun c => { c with qpt := true })).core.qpt = true ∧ (base.modCore (fun c => { c with run := .stopped 4 true })).core.holds 1 = true ∧
      base.core.run = .running ∧ base.core.qpt = false ∧ base.core.qreq = none ∧ base.core.fab.switch = none) ∧
    (let s := base.modCore (fun c => { c with task := none, run := .idle, scrub := true }); s.core.scrub = true ∧ s.core.task = none) ∧
    (let s := base.modCore (fun c => { c with task := none, run := .idle })
     (s.partition 1).2 ≠ 0 ∧ ∀ i, i < 16 → (s.coreAt (s.core.id / 16 * 16 + i)).owner ≠ some 1 ∧ (s.coreAt (s.core.id / 16 * 16 + i)).task = none) := by
  refine ⟨?_, ?_, ?_, ?_, ?_⟩ <;> try decide +kernel

/-- A range of one page that an agent may use. -/
theorem agent_range {proc access n pa : Nat} {va : Word} {s : State} (e : TlbEntry)
    (h : (List.range n).all (fun i => canonical (va + BitVec.ofNat 64 i) && decide (s.walk proc (va57 (va + BitVec.ofNat 64 i)) = some e) &&
      decide (e.paOf (va57 (va + BitVec.ofNat 64 i)) = pa + i) && decide (pteState e.pte = 0) && decide (pteFib e.pte = false) &&
      decide (if access = 0 then pteR e.pte = true else pteW e.pte = true) && decide ((s.dieAt (paStack (pa + i))).fenced = false) &&
      decide (s.wordsBad (pa + i) 1 = false) && decide (s.tablesGone proc (va57 (va + BitVec.ofNat 64 i)) = false) && decide ((s.procAt proc).unitPage (va57 (va + BitVec.ofNat 64 i)) = false)) = true) :
    AgentRange proc access va n pa s := fun i hi => by
  have q := List.all_eq_true.1 h i (List.mem_range.2 hi)
  simp only [Bool.and_eq_true, decide_eq_true_eq] at q
  obtain ⟨⟨⟨⟨⟨⟨⟨⟨⟨a, b⟩, c⟩, d⟩, f⟩, g⟩, k⟩, l⟩, m⟩, n⟩ := q
  exact ⟨a, e, b, c, d, f, g, k, l, m, n⟩

/-- The 4,864 bytes of an attestation report on page 11. -/
theorem report_range : AgentRange 1 1 0xB0000 4864 0x2A0000 base := fun i hi => by
  have hv : (0xB0000 + BitVec.ofNat 64 i : Word).toNat = 0xB0000 + i := by
    rw [BitVec.toNat_add, BitVec.toNat_ofNat]; show (0xB0000 + i % 2 ^ 64) % 2 ^ 64 = 0xB0000 + i; omega
  have h57 : va57 (0xB0000 + BitVec.ofNat 64 i : Word) = 0xB0000 + i := by unfold va57; rw [hv]; omega
  have hw : base.walk 1 (0xB0000 + i) = base.walk 1 0xB0000 := base.walk_page 1 (by omega)
  have hg : base.tablesGone 1 (0xB0000 + i) = base.tablesGone 1 0xB0000 := by
    unfold State.tablesGone; rw [base.walkReads_page 1 (by omega : (0xB0000 + i) / 65536 = 0xB0000 / 65536)]
  refine ⟨?_, page 11 (leaf 3 0 0 0 0x2A0000), ?_⟩
  · have ht : ((0xB0000 + BitVec.ofNat 64 i : Word).truncate 57).toNat = 0xB0000 + i := by rw [BitVec.truncate, BitVec.toNat_setWidth, hv]; omega
    have hm : ((0xB0000 + BitVec.ofNat 64 i : Word).truncate 57).msb = false := by
      rw [BitVec.msb_eq_false_iff_two_mul_lt, ht]; omega
    unfold canonical
    rw [BitVec.signExtend_eq_setWidth_of_msb_false hm, beq_iff_eq]
    apply BitVec.eq_of_toNat_eq
    rw [BitVec.toNat_setWidth, ht, hv]; omega
  · rw [h57, hw, hg]
    refine ⟨?_, ?_, ?_, ?_, ?_, ?_, ?_, ?_, ?_⟩ <;> try decide +kernel
    · show pteFrame (leaf 3 0 0 0 0x2A0000) + (0xB0000 + i - 11 * 65536) = 0x2A0000 + i
      have : pteFrame (leaf 3 0 0 0 0x2A0000) = 0x2A0000 := by decide +kernel
      omega
    · rfl
    · unfold State.wordsBad; rfl
    · rfl

/-- A live-expert record of process 1 at 0x10000, its hasp at 0x10080. -/
def expert : Expert := { proc := 1, addr := 0x10000, hasp := 0x10080, placement := List.replicate 255 (0, 0) ++ [(3, 15)] }
def expertly : State := { haspAtHome (haspOfMode 3) with pkg := { experts := [expert] } }

theorem witness_PackageAtWork :
    (∃ link, link ∈ linkKeys ∧ (Map.get {} base.pkg.links link).fenced = false) ∧
    (let im : SignedImage := { bytes := [], version := 1, key := Config.vendorKey, signed := true }
     base.pkg.ready = false ∧ base.pkg.recovery = false ∧ [im, im, im, im].length = 4 ∧
       ∀ i x, [im, im, im, im][i]? = some x → x.signed = true ∧ x.key = Config.vendorKey ∧ Map.get 0 base.pkg.minVersion i ≤ x.version) ∧
    (let im : SignedImage := { bytes := [], version := 1, key := Config.vendorKey, signed := false }; ¬ im.signed = true) ∧
    (273 < 274 ∧ 273 ∉ base.pkg.stretched) ∧ (base.dieAt 15).fenced = false ∧
    (let s : State := { base with pkg := { ready := true, opKey := some 0 } }; s.pkg.ready = true ∧ s.pkg.serviceDown.length < 8 ∧ s.pkg.opKey ≠ none) ∧
    ((∀ n, n < 16 → (base.dieAt n).shim + shimSize ≤ 0x1800000000) ∧
      let s : State := { base with pkg := { portFenced := (List.range 15).map (fun k => (k + 16, k + 17)) } }
      Map.find s.pkg.portFenced 31 = none ∧ ∀ x, x < 32 → x / 16 = 31 / 16 → x ≠ 31 → Map.find s.pkg.portFenced x ≠ none) ∧
    7 ∉ base.pkg.serviceDown ∧ (31 / 16 = 16 / 16 ∧ Map.find base.pkg.portFenced 31 = none ∧ Map.find base.pkg.portFenced 16 = none) ∧
    (expertly.pkg.experts = [expert] ∧ expert.placement[255]? = some (3, 15) ∧ HaspOk expertly 0x210080 (expertly.procAt 1).tenant ∧ (expertly.hasp 0x210080).mode = 3 ∧
      (expertly.hasp 0x210080).wkind = 0 ∧ expertly.flipWaiters 0x210080 = []) ∧
    AgentRange 1 0 0x10000 64 0x210000 expertly ∧ AgentRange 1 1 0x10000 64 0x210000 expertly ∧ AgentRange 1 1 0x10080 64 0x210080 expertly := by
  unfold HaspOk
  refine ⟨⟨1, ?_⟩, ⟨?_, ?_, rfl, ?_⟩, ?_, ?_, ?_, ?_, ?_,
    ?_, ?_, ?_, agent_range data ?_, agent_range data ?_, agent_range data ?_⟩ <;> try decide +kernel
  intro i x h
  have m : ∀ y ∈ ([⟨[], 1, Config.vendorKey, true⟩, ⟨[], 1, Config.vendorKey, true⟩, ⟨[], 1, Config.vendorKey, true⟩, ⟨[], 1, Config.vendorKey, true⟩] : List SignedImage),
      y = ⟨[], 1, Config.vendorKey, true⟩ := by simp
  have e := m x (List.mem_of_getElem? h)
  subst e
  exact ⟨rfl, rfl, Nat.zero_le _⟩

/-- Task 1 waits for a service. -/
def asking (code : Nat) (args : List Word) (s : State) : State := s.modTask 1 (fun t => { t with request := some (code, args) })

theorem witness_Services :
    (∀ code ∈ [1, 2, 3, 4, 5, 6, 7, 8, 9, 10],
      let s := asking code [0, 0x10000] base
      Map.find s.tasks 1 = some (Map.get {} s.tasks 1) ∧ (Map.get {} s.tasks 1).request = some (code, [0, 0x10000]) ∧ (Map.get {} s.tasks 1).reply = none ∧
        s.pkg.serviceDown.length < 8) ∧
    (let s := asking 3 [0, 0x10000, 0xF3] base
     (0x10000 : Word).toNat % 65536 = 0 ∧ (0xF3 : Word).toNat < 256 ∧ (0x10000 : Word).toNat ≤ 2 ^ 56 ∧ (s.dieAt 2).fenced = false ∧ roomAt 0x1F0000 0x10000 = true ∧ 0xF3 / 8 % 2 = 0 ∧
       s.tablesServe 1 0x1F0000 0x10000 [] = true ∧
       (mapPages (s.procAt 1).root (va57 0x1F0000) (List.replicate 1 (BitVec.ofNat 64 (3 + 0xF3 % 8 * 4 + 256 + 2 * 2 ^ 37))) [] s.ptes).isSome = true) ∧
    ((0x1FFFF : Word).toNat % 65536 ≠ 0 ∧ 256 ≤ (0x100 : Word).toNat) ∧
    (let s := base.modDieAt 15 (fun d => { d with fenced := true })
     (s.dieAt 15).fenced = true ∧ (s.dieAt 0).fenced = false ∧ 0xF3 / 16 % 16 = 15 ∧ 0x8073 / 32768 % 2 = 1 ∧ 0x8073 % 32768 < 256 ∧
       ¬(0x73 / 32768 % 2 = 1 ∨ 0x73 / 16 % 16 = 15)) ∧
    (let s := base
     s.leaves 1 0xB0000 (0xB0000 + 0x10000) = [page 11 (leaf 3 0 0 0 0x2A0000)] ∧ (page 11 (leaf 3 0 0 0 0x2A0000)).size = 0x10000 ∧
       wideVa (page 11 (leaf 3 0 0 0 0x2A0000)).va = 0xB0000 ∧ roomAt 0xB0000 0x10000 = true ∧ (s.procAt 1).unitPage 0xB0000 = false ∧
       pteState (page 11 (leaf 3 0 0 0 0x2A0000)).pte ≠ 3 ∧ s.tablesServe 1 0xB0000 0x10000 [] = true) ∧
    ((4096 : Word).toNat % 4096 = 0 ∧ (4097 : Word).toNat % 4096 ≠ 0 ∧ roomAt 0x1F0000 (((4096 : Word).toNat + 65535) / 65536 * 65536) = true ∧
      framed.tablesServe 1 0x1F0000 0x10000 [] = true ∧
      (∃ fs w, framed.takeFrames 0 1 1 = some (fs, w) ∧ (mapPages 0x100000 (va57 0x1F0000) (fs.map (fun f => BitVec.ofNat 64 (7 + f))) [] w.ptes).isSome = true)) ∧
    (AgentRange 1 0 0x1FFC0 64 0x21FFC0 base ∧ AgentRange 1 1 0xB0000 4864 0x2A0000 base) ∧
    (let s := haspAtHome (haspOfMode 3)
     (0x10080 : Word).toNat % 64 = 0 ∧ (0x10080 : Word).toNat / 2 ^ 61 ≠ 4 ∧ AgentRange 1 0 0x10080 1 0x210080 s ∧ AgentRange 1 1 0x10080 1 0x210080 s ∧
       (s.taskAt 1).tenant = 1 ∧ s.numberUsed 1 = true ∧ HaspOk s 0x210080 1) := by
  unfold HaspOk
  refine ⟨?_, ?_, ?_, ?_, ?_, ⟨?_, ?_, ?_, ?_, ⟨[0x300000], _, rfl, ?_⟩⟩, ⟨agent_range data ?_, report_range⟩,
    ?_, ?_, agent_range data ?_, agent_range data ?_, ?_, ?_, ?_⟩ <;> decide +kernel

/-- The package is ready and has an operator key. -/
def managed : State := { bound with pkg := { ready := true, opKey := some 0, images := [(3, 5, 0)] } }

theorem witness_ManagementRequests :
    managed.pkg.serviceDown.length < 8 ∧ managed.pkg.ready = true ∧ managed.pkg.opKey ≠ none ∧ Map.find managed.pkg.images 3 = some (5, 0) ∧
    (∃ body : SignedImage, body.signed = true ∧ body.key = Config.vendorKey ∧ Map.get 0 managed.pkg.minVersion 3 ≤ body.version) ∧
    (let q : TenantQuota := { tenant := 63, die := 15, weight := 255, slots := 4096, cores := [15 * 256], shared := [15 * 256 + 254], cls := [(240, 0x7F0000, 0x10000)],
                              wslots := [(240, 63)], arrays := [(255, 8191)], pool := 9, quota := 1, slack := 0, rows := [15 * 2 ^ 27], frames := [], large := [] }
     managed.quotaOk { q with rows := [5] } = true) ∧
    (∀ ts ∈ [managed.tasks, []],
      let s : State := { managed.modDieAt 0 (fun d => { d with weights := [(1, 1)] }) with tasks := ts }
      Map.find (s.dieAt 0).weights 1 = some 1 ∧ s.tenantBusy 0 1 = !ts.isEmpty) ∧
    ((Map.find managed.procs 1).isSome = true ∧ (Map.find managed.tasks 1) = some (Map.get {} managed.tasks 1) ∧ (Map.get {} managed.tasks 1).debug = false) ∧
    (let s := managed.modTask 1 (fun t => { t with debug := true, status := .stopped, saved := some {} })
     (Map.get {} s.tasks 1).debug = true ∧ (Map.get {} s.tasks 1).status = .stopped ∧ (Map.get {} s.tasks 1).saved = some {} ∧ ({} : Saved).core.wait = .none) ∧
    ((List.replicate 256 (0, 0)).length ≤ 256 ∧ (0x10080 : Word).toNat % 64 = 0) := by
  refine ⟨?_, ?_, ?_, ?_, ⟨⟨[], 0, Config.vendorKey, true⟩, rfl, rfl, Nat.zero_le _⟩, ?_⟩ <;> decide +kernel

/-- The table of process 1 by addresses, none of its leaves keyed. -/
def unkeyed : List (Nat × Word) := tables.map (fun e => (e.1 * 8, e.2 &&& 0x000FFFFFFFFFFFFF))

/-- A process with these tables, its hasp on page 1, and a program of one section at an executable page. -/
theorem witness_ManagementRequests_processes :
    (let c : ProcessSpec := { proc := 0xFFFFFFFF, tenant := 1, root := 0x100000, entries := unkeyed, hasp := 0x10080, launchVa := 0x50000, sendVa := 0xB0000, faultVa := 0x81000 }
     let s : State := { managed with ptes := [] }
     let t : State := { s with procs := Map.set s.procs c.proc { tenant := 1, root := 0x100000, hasp := 0x10080, launchVa := some 0x50000, sendVa := some 0xB0000, faultVa := some 0x81000 }
                               ptes := unkeyed.foldl (fun m e => Map.put 0 m (e.1 / 8) e.2) s.ptes }
     Map.find s.procs c.proc = none ∧ c.proc < 2 ^ 32 ∧ (Map.get {} s.tenants c.tenant).live = true ∧ c.tenant < 64 ∧ c.root % 4096 = 0 ∧
       (∀ e ∈ c.entries, Map.get 0 s.ptes (e.1 / 8) = 0 ∧ (pteV e.2 = true → pteL e.2 = true → pteKey e.2 = 0 ∧ (pteFib e.2 = true → pteState e.2 = 0))) ∧
       (∀ q ∈ t.procs, ∀ e ∈ t.leaves q.1 0 (2 ^ 64), pteState e.pte ≠ 1 →
         t.shimMeets (pteFrame e.pte) e.size = false ∧ t.rowsMeet (pteFrame e.pte) e.size = false) ∧
       t.unitLeaf c.proc c.launchVa = true ∧ t.unitLeaf c.proc c.sendVa = true ∧ t.faultLeaf c.proc c.faultVa = true ∧ c.hasp.toNat % 64 = 0 ∧ AgentRange c.proc 1 c.hasp 1 0x210080 t) ∧
    (let b : BindSpec := { slot := 63, entry := 0xFFFC, images := [0, 0, 0, 0], prio := 3, die := 16 }
     (∀ i, i < 4 → canonical (0x1FFFC + BitVec.ofNat 64 i) = true ∧ managed.walk 1 (va57 (0x1FFFC + BitVec.ofNat 64 i)) = some data ∧ pteFib data.pte = false ∧
        data.paOf (va57 (0x1FFFC + BitVec.ofNat 64 i)) = 0x21FFFC + i ∧ (managed.procAt 1).unitPage (va57 (0x1FFFC + BitVec.ofNat 64 i)) = false) ∧
       b.slot < 64 ∧ b.entry.toNat % 4 = 0 ∧ b.images.length ≤ 4 ∧ b.prio ≤ 3 ∧ canonical b.entry = true ∧ managed.walk 1 (va57 b.entry) = some (page 0 (leaf 5 0 0 0 0x200000)) ∧
       pteX (leaf 5 0 0 0 0x200000) = true) := by
  refine ⟨⟨?_, ?_, ?_, ?_, ?_, ?_, ?_, ?_,
    ?_, ?_, ?_, agent_range { data with proc := 0xFFFFFFFF } ?_⟩, ?_⟩ <;> try decide +kernel

/-- A process with a flow slot and a launch page. -/
def flowing (v : FlowSlot) : State := bound.modProc 1 (fun p => { p with flows := [(15, v)], launchVa := some 0x50000 })

theorem witness_RemoteFlows :
    (∀ v ∈ [({ ctrl := 1 } : FlowSlot), { ctrl := 0x800000002, src := 0xB0000, dst := 0x10000 }, { ctrl := 7 }, {}],
      let s := flowing v
      15 < 16 ∧ (Map.find s.procs 1).isSome = true ∧ ((s.procAt 1).flow 15).inFlight.length < 256 ∧
        ((v.ctrl.toNat % 8 = 1 ∧ v.ctrl.getLsbD 3 = false) ∨ (v.ctrl.toNat % 8 = 2 ∧ s.goCheck 1 v = none) ∨ v.ctrl.toNat % 8 = 0 ∨ 3 < v.ctrl.toNat % 8)) ∧
    (let s := flowing { bound := some (0, 1, true), inFlight := [{ kind := 1 }] }; ((s.procAt 1).flow 15).inFlight = [{ kind := 1 }] ∧ ((s.procAt 1).flow 15).bound ≠ none) ∧
    (let x : FlowOp := { kind := 2, read := true }
     let s := flowing { bound := some (0, 1, false), inFlight := [{ kind := 1 }, x] }
     ((s.procAt 1).flow 15).bound = some (0, 1, false) ∧ ((s.procAt 1).flow 15).inFlight = [{ kind := 1 }, x] ∧ ({ kind := 1 } : FlowOp).done = false ∧
       ({ kind := 1 } : FlowOp).fails = 0 ∧ x.done = false ∧ x.fails = 0 ∧ x.read = true) ∧
    (let o : FlowOp := { kind := 2, src := 0x1FFF0, ctrl := 0x1000000002 }
     let s := flowing { bound := some (0, 1, true), inFlight := [o] }
     ((s.procAt 1).flow 15).inFlight = [o] ∧ o.read = false ∧ o.done = false ∧ o.ctrl.toNat / 2 ^ 32 = 16 ∧ AgentRange 1 0 o.src 16 0x21FFF0 s ∧
       s.tablesGone 1 (va57 0x1F0000) = false ∧ s.walk 1 (va57 0x1F0000) = none) ∧
    (let s := (flowing {}).modDieAt 0 (fun d => { d with fenced := true }); s.pagesGone 1 0x50FC0 16 = true ∧ s.pagesGone 1 0x1FFF8 8 = true) ∧
    (let s := flowing {}
     let op : RemoteOp := { proc := 1, ordered := true, work := .launch 0x50FC0 0x100010003 7, href := none }
     s.flowOpen 5 op = true ∧ canonical 0x50FC0 = true ∧ (s.procAt 1).launchVa = some (va57 0x50FC0 / 65536 * 65536) ∧ s.pagesGone 1 0x50FC0 16 = false ∧ va57 0x50FC0 % 65536 % 64 = 0 ∧ va57 0x50FC0 % 65536 < 4096 ∧
       s.mayWrite 1 0x50FC0 16 = true ∧ ¬ va57 0x51000 % 65536 < 4096) ∧
    (let s := flowing {}
     let o : RemoteOp := { proc := 1, ordered := true, work := .copy 0x1FFF8 (List.replicate 8 1), href := some 0x10080 }
     s.flowOpen 5 o = true ∧ (0x1FFF8 : Word).toNat % 8 = 0 ∧ s.mayWrite 1 0x1FFF8 8 = true ∧ s.hrefOk 1 (some 0x10080) = true ∧ s.pagesGone 1 0x1FFF8 8 = false ∧
       s.mayWrite 1 0x1FFF8 16 = true ∧ s.mayWrite 1 0x80000 8 = false) ∧
    (let a : Arrival := { flow := 5, op := { proc := 1, ordered := true, work := .copy 0x1FFF0 (List.replicate 16 1), href := none } }
     let s : State := { flowing {} with pkg := { arriving := [a] } }
     s.pkg.arriving = [a] ∧ a.done = none ∧ AgentRange 1 1 0x1FFF0 16 0x21FFF0 s ∧ (0x1FFF0 : Word).toNat % 8 = 0) ∧
    (let a : Arrival := { flow := 5, op := { proc := 1, ordered := true, work := .copy 0x1FFF0 (List.replicate 16 1), href := some 0x80000 } }
     let s : State := { flowing {} with pkg := { arriving := [a] } }
     a.done = none ∧ (match landRemotes 1 2 0x1FFF0 (List.replicate 16 1) s with
       | .landed t => (t.remoteRelease a.op).map (fun r => r.1)
       | _ => none) = some 2 ∧
       (match landRemotes 1 2 0x1FFF0 (List.replicate 16 1) (s.modDieAt 0 (fun d => { d with badWords := [0x21FFF8 / 8] })) with
       | .fails _ => true
       | _ => false) = true) ∧
    (let s := flowing {}
     let e := { fibrePage with proc := 1 }
     s.hrefOk 1 none = true ∧ canonical 0x40000 = true ∧ s.tablesGone 1 (va57 0x40000) = false ∧ s.walk 1 (va57 0x40000) = some e ∧ e.paOf (va57 0x40000) = 0x230000 ∧ pteState e.pte = 0 ∧ pteW e.pte = true ∧ pteFib e.pte = true ∧
       (s.dieAt (paStack 0x230000)).fenced = false ∧ (0xFFFFFFFE : W32) ≠ 0xFFFFFFFF) ∧
    (let a : Arrival := { flow := 5, op := { proc := 1, ordered := true, work := .merge 0x40000 3 0 0, href := some 0x10080 }, done := some 4 }
     let s : State := { flowing {} with pkg := { arriving := [a] } }
     s.pkg.arriving = [a] ∧ a.done = some 4 ∧ (4 : Nat) ≠ 0) := by
  refine ⟨?_, ?_, ?_, ⟨?_, ?_, ?_, ?_, agent_range data ?_, ?_⟩, ?_, ?_, ?_, ⟨?_, ?_, agent_range data ?_, ?_⟩, ?_⟩ <;> decide +kernel

theorem witness_EncodingRoundTrip :
    (Instr.addLit 31 30 0x80000000).encoded = true ∧ (Instr.addLit 31 30 0x80000000).wellFormed = true ∧
    decode ([0x00, 0x04, 0xFE, 0x07, 0, 0, 0, 0x80] ++ [1]) = .ok (.addLit 31 30 0x80000000, [1]) := by decide +kernel

/-- The thread at an instruction, at an illegal word, at a line that is not cached, before a held trap; a turn of another agent. -/
theorem witness_StepRunsDecoded :
    (∀ p ∈ [(0x04611000, true), (0, false)],
      let s := cachedLine 0x40 [p.1] base
      s.agenda = [] ∧ s.core.run = .running ∧ s.core.asyncs = [] ∧ s.core.threadHeld = false ∧ s.core.fetch = .words [p.1] ∧
        (match decode (fetchedBytes [p.1]) with
         | .ok x => x == (Instr.add 3 1 2, []) && p.2
         | .error _ => !p.2) = true) ∧
    (base.agenda = [] ∧ base.core.threadHeld = false ∧ base.core.fetch = .miss 0x1000) ∧
    (let s := base.modCore (fun c => { c with asyncs := [{ cause := 16 }] }); s.core.run = .running ∧ s.core.asyncs ≠ [] ∧ s.core.ta = false ∧ s.core.committed = false) ∧
    (base.modCore (fun c => { c with wait := .reply })).core.committed = true ∧
    (let s : State := { base with agenda := [{ core := 5, what := .event .dispatch }] }; s.agenda = [{ core := 5, what := .event .dispatch }]) := by decide +kernel

/-- A state whose memory is in canonical form, and a step that goes on from it. -/
theorem witness_MemoryCanonical : cached.memWf = true ∧ goes (step (State.reset.withFetchWord 32 0x04611000)) = true ∧ State.reset.memWf = true := by decide +kernel

end Sys2Proof.Tests
end

section
/-! PROOFS. The generic element operators (spec/03_element_operators.md): OperatorFirings. A parity error is found before the token is used
(R25), so ELEMENT_FIRE meets one only in a slot that holds a token; the statement asks for its trap at every port number. -/

namespace Sys2Proof.Machine

/-- R25: a slot without a token has no parity error to meet. -/
theorem Fabric.meets_token_of_vacant {f : Fabric} {t q : Nat} (h : f.slot t q = none) : f.meets t (.token q) = false := by
  simp [Fabric.meets, h]

/-- ELEMENT_FIRE with a parity error that cannot be met leaves the state as it is: the unit waits. -/
theorem exec_elementFire_of_not_meets {s : State} {t : Nat} {e : ParityError} (h : s.core.fab.meets t e = false) :
    exec (.elementFire t (some e)) s = .next s := by
  change execElementFire t (some e) s = .next s
  simp [execElementFire, h]

/-- A state does not hold one asynchronous trap more than itself. -/
theorem not_held_self (cause : Nat) (value : Word) (s : State) : ¬ Held cause value s s := by
  simp [Held]

/-- Plane 0 is ACTIVE with PASS at element 0, whose one used port, a, holds a data token; ports b, c and g are vacant. -/
def passElementReady : State :=
  State.reset.modFab (fun f =>
    { f with planes := [(0, { state := .active, fields := [(0, 0x23), (1, 1)] })], slots := [(0, { fl := { tok := dataToken 0 7 } })] })

theorem passElementReady_fires :
    passElementReady.core.fab.ready 0 0x23 = true ∧ passElementReady.core.fab.present 0 = true ∧
      passElementReady.core.fab.canEmit 0 15 = true ∧ Undebugged passElementReady := by
  refine ⟨?_, ?_, ?_, rfl⟩ <;> decide

theorem passElementReady_vacant : passElementReady.core.fab.slot 0 1 = none := rfl

/-- PASS is a generic operator (R66). -/
theorem pass_mem_operatorSteps : (.passElement, 0x23, fun _ _ a _ _ => some a) ∈ operatorSteps := by
  simp [operatorSteps, choiceSteps]

/-- Refutes O38: the last clause has ELEM 0x2 held for a parity error "in the token of port q" whatever q is, also where that port holds no
token. PASS at element 0 with a token at its one used port meets every hypothesis; at the vacant port b ELEMENT_FIRE leaves the state alone. -/
theorem not_operatorFirings : ¬ Obligations.OperatorFirings := by
  intro h
  obtain ⟨hready, hpresent, hemit, hdebug⟩ := passElementReady_fires
  obtain ⟨-, -, -, -, -, -, -, hparity⟩ := h _ pass_mem_operatorSteps 0 0 0 passElementReady hready hpresent hemit hdebug
  obtain ⟨u, hexec, hheld⟩ := hparity (by decide) 1
  rw [exec_elementFire_of_not_meets (Fabric.meets_token_of_vacant passElementReady_vacant)] at hexec
  cases hexec
  exact not_held_self _ _ _ hheld

end Sys2Proof.Machine
end

section
/-! PROOFS. The control instructions of spec/07_control_instructions.md: FloatCompare, TrapEntryAndReturn, SoftwareTraps. -/

namespace Sys2Proof.Machine

/-! ### The value of an fp32 word, by its magnitude bits (R30)

The magnitude rises strictly with the low 31 bits, so that the order of the values is the order of those bits under the sign. -/

/-- The value of the low 31 bits `m` of an fp32 word that is no NaN, in units of 2^-149 (R30). -/
def magnitude (m : Nat) : Nat := if m / 2 ^ 23 = 0 then m % 2 ^ 23 else (2 ^ 23 + m % 2 ^ 23) * 2 ^ (m / 2 ^ 23 - 1)

theorem magnitude_lt_succ (m : Nat) : magnitude m < magnitude (m + 1) := by
  unfold magnitude
  by_cases hcarry : m % 2 ^ 23 + 1 < 2 ^ 23
  · have hq : (m + 1) / 2 ^ 23 = m / 2 ^ 23 := by omega
    have hr : (m + 1) % 2 ^ 23 = m % 2 ^ 23 + 1 := by omega
    rw [hq, hr]
    split
    · exact Nat.lt_succ_self _
    · exact Nat.mul_lt_mul_of_pos_right (by omega) (Nat.two_pow_pos _)
  · have hq : (m + 1) / 2 ^ 23 = m / 2 ^ 23 + 1 := by omega
    have hr : (m + 1) % 2 ^ 23 = 0 := by omega
    rw [hq, hr, if_neg (Nat.succ_ne_zero _), Nat.add_zero, Nat.add_sub_cancel]
    rcases Nat.eq_zero_or_pos (m / 2 ^ 23) with h0 | hpos
    · rw [if_pos h0, h0]
      omega
    · rw [if_neg hpos.ne', ← Nat.two_pow_pred_mul_two hpos, Nat.mul_comm _ 2, ← Nat.mul_assoc]
      exact Nat.mul_lt_mul_of_pos_right (by omega) (Nat.two_pow_pos _)

theorem magnitude_strictMono : StrictMono magnitude := strictMono_nat_of_lt_succ magnitude_lt_succ

theorem magnitude_zero : magnitude 0 = 0 := rfl

/-- The value under its sign bit (R30). -/
theorem fixedOf_eq_magnitude (x : W32) :
    fixedOf x = if x.toNat < 2 ^ 31 then (magnitude (x.toNat % 2 ^ 31) : Int) else -(magnitude (x.toNat % 2 ^ 31) : Int) := by
  have hx : x.toNat < 2 ^ 32 := x.isLt
  have he : x.toNat % 2 ^ 31 / 2 ^ 23 = x.toNat / 2 ^ 23 % 256 := by omega
  have hm : x.toNat % 2 ^ 31 % 2 ^ 23 = x.toNat % 2 ^ 23 := by omega
  simp only [fixedOf, magnitude, he, hm]

theorem orderKey32_eq (x : W32) :
    orderKey32 x = if x.toNat < 2 ^ 31 then ((x.toNat % 2 ^ 31 : Nat) : Int) else -((x.toNat % 2 ^ 31 : Nat) : Int) - 1 := by
  simp only [orderKey32, BitVec.msb_eq_decide, decide_eq_true_eq, ← not_lt]
  split <;> simp_all

/-- R63: the model's order of fp32 words refines the order of their values. -/
theorem orderKey32_lt_of_fixedOf_lt {x y : W32} (h : fixedOf x < fixedOf y) : orderKey32 x < orderKey32 y := by
  have hxy : magnitude (x.toNat % 2 ^ 31) < magnitude (y.toNat % 2 ^ 31) → x.toNat % 2 ^ 31 < y.toNat % 2 ^ 31 :=
    magnitude_strictMono.lt_iff_lt.mp
  have hyx : magnitude (y.toNat % 2 ^ 31) < magnitude (x.toNat % 2 ^ 31) → y.toNat % 2 ^ 31 < x.toNat % 2 ^ 31 :=
    magnitude_strictMono.lt_iff_lt.mp
  rw [fixedOf_eq_magnitude, fixedOf_eq_magnitude] at h
  rw [orderKey32_eq, orderKey32_eq]
  split at h <;> split at h <;> omega

/-- R30: two words of one value are one word, or the two zeros. -/
theorem eq_or_zeros_of_fixedOf_eq {x y : W32} (h : fixedOf x = fixedOf y) :
    x = y ∨ (x = 0 ∧ y = 0x80000000) ∨ (x = 0x80000000 ∧ y = 0) := by
  have hinj : magnitude (x.toNat % 2 ^ 31) = magnitude (y.toNat % 2 ^ 31) → x.toNat % 2 ^ 31 = y.toNat % 2 ^ 31 :=
    fun e => magnitude_strictMono.injective e
  have hzero : ∀ m, magnitude m = 0 → m = 0 := fun m e => magnitude_strictMono.injective (e.trans magnitude_zero.symm)
  have hx0 := hzero (x.toNat % 2 ^ 31)
  have hy0 := hzero (y.toNat % 2 ^ 31)
  rw [fixedOf_eq_magnitude, fixedOf_eq_magnitude] at h
  have hzeros : (x = 0 ↔ x.toNat = 0) ∧ (y = 0 ↔ y.toNat = 0) ∧ (x = 0x80000000 ↔ x.toNat = 2 ^ 31) ∧ (y = 0x80000000 ↔ y.toNat = 2 ^ 31) :=
    ⟨BitVec.toNat_inj.symm, BitVec.toNat_inj.symm, BitVec.toNat_inj.symm, BitVec.toNat_inj.symm⟩
  rw [← BitVec.toNat_inj, hzeros.1, hzeros.2.1, hzeros.2.2.1, hzeros.2.2.2]
  split at h <;> split at h <;> omega

/-! ### What an fp32 word decodes to -/

/-- R30: the exponent field 255 gives an infinity or a NaN, every other a dyadic number with an exponent of -149 or more. -/
theorem f32_eq (x : W32) :
    f32 x =
      if x.toNat / 2 ^ 23 % 256 = 255 then (if x.toNat % 2 ^ 23 = 0 then .inf (decide (2 ^ 31 ≤ x.toNat)) else .nan)
      else .fin { neg := decide (2 ^ 31 ≤ x.toNat)
                  man := if x.toNat / 2 ^ 23 % 256 = 0 then x.toNat % 2 ^ 23 else 2 ^ 23 + x.toNat % 2 ^ 23
                  exp := (x.toNat / 2 ^ 23 % 256 - 1 : Nat) - 149 } := by
  have hx : x.toNat < 2 ^ 32 := x.isLt
  have hneg : (x.toNat / 2 ^ 31 % 2 == 1) = decide (2 ^ 31 ≤ x.toNat) := by
    rw [Bool.beq_eq_decide_eq, decide_eq_decide]
    omega
  simp only [f32, decodeF, fp32Fmt, Nat.add_one_sub_one, Nat.reduceSub, Nat.reduceAdd, hneg, Bool.true_and, Bool.not_true, Bool.false_and,
    Bool.false_eq_true, if_false, beq_iff_eq, show (2 : Nat) ^ 8 = 256 from rfl]
  split
  · rfl
  split
  · next h0 => rw [h0]; rfl
  · next h0 =>
    congr 2
    omega

/-- A scaled mantissa in finer units. -/
theorem dyScaled_of_le {d : Dy} {e e' : Int} (h : e ≤ e') (hd : e' ≤ d.exp) :
    dyScaled d e = dyScaled d e' * 2 ^ (e' - e).toNat := by
  have hsum : (d.exp - e).toNat = (d.exp - e').toNat + (e' - e).toNat := by omega
  simp only [dyScaled, hsum, Nat.pow_add]
  split <;> push_cast <;> ring

/-- Two dyadic numbers compare as their mantissas do in any common unit. -/
theorem dyLt_eq {x y : Dy} {e : Int} (hx : e ≤ x.exp) (hy : e ≤ y.exp) : dyLt x y = decide (dyScaled x e < dyScaled y e) := by
  have hmin : e ≤ min x.exp y.exp := le_min hx hy
  have hpos : (0 : Int) < 2 ^ (min x.exp y.exp - e).toNat := by positivity
  rw [dyScaled_of_le hmin (min_le_left ..), dyScaled_of_le hmin (min_le_right ..)]
  simp only [dyLt, mul_lt_mul_iff_left₀ hpos]

theorem dyEq_eq {x y : Dy} {e : Int} (hx : e ≤ x.exp) (hy : e ≤ y.exp) : dyEq x y = decide (dyScaled x e = dyScaled y e) := by
  have hmin : e ≤ min x.exp y.exp := le_min hx hy
  have hpos : (0 : Int) < 2 ^ (min x.exp y.exp - e).toNat := by positivity
  rw [dyScaled_of_le hmin (min_le_left ..), dyScaled_of_le hmin (min_le_right ..)]
  simp only [dyEq, mul_left_inj' hpos.ne']

theorem isNaN32_eq_isNaNWord (x : W32) : isNaN32 x = isNaNWord x := by
  rw [isNaN32, f32_eq, isNaNWord]
  split
  · split
    · next hr => exact (decide_eq_false (by omega)).symm
    · next hr => exact (decide_eq_true (by omega)).symm
  · next he => exact (decide_eq_false (by omega)).symm

/-- R30: a word that is no NaN stands for an infinity, above every finite value, or for a finite value in units of 2^-149 or more. -/
theorem f32_cases {x : W32} (h : isNaNWord x = false) :
    (∃ neg, f32 x = .inf neg ∧ fixedOf x = if neg then -(magnitude 0x7F800000 : Int) else (magnitude 0x7F800000 : Int)) ∨
    (∃ d, f32 x = .fin d ∧ -149 ≤ d.exp ∧ fixedOf x = dyScaled d (-149) ∧ -(magnitude 0x7F800000 : Int) < fixedOf x ∧
      fixedOf x < (magnitude 0x7F800000 : Int)) := by
  have hm : ¬ 0x7F800000 < x.toNat % 2 ^ 31 := of_decide_eq_false h
  rw [f32_eq]
  split
  · next he =>
    have hinf : x.toNat % 2 ^ 31 = 0x7F800000 := by omega
    rw [if_pos (by omega)]
    refine .inl ⟨_, rfl, ?_⟩
    rw [fixedOf_eq_magnitude, hinf]
    simp only [decide_eq_true_eq, ← not_lt, ite_not]
  · next he =>
    have hlt : magnitude (x.toNat % 2 ^ 31) < magnitude 0x7F800000 := magnitude_strictMono (by omega)
    have hbounds : -(magnitude 0x7F800000 : Int) < fixedOf x ∧ fixedOf x < (magnitude 0x7F800000 : Int) := by
      rw [fixedOf_eq_magnitude]
      split <;> omega
    have hscale : (if x.toNat / 2 ^ 23 % 256 = 0 then x.toNat % 2 ^ 23 else (2 ^ 23 + x.toNat % 2 ^ 23) * 2 ^ (x.toNat / 2 ^ 23 % 256 - 1)) =
        (if x.toNat / 2 ^ 23 % 256 = 0 then x.toNat % 2 ^ 23 else 2 ^ 23 + x.toNat % 2 ^ 23) * 2 ^ (x.toNat / 2 ^ 23 % 256 - 1) := by
      split
      · next h0 => rw [h0, Nat.zero_sub, Nat.pow_zero, Nat.mul_one]
      · rfl
    have hexp : ((x.toNat / 2 ^ 23 % 256 - 1 : Nat) - 149 - (-149) : Int).toNat = x.toNat / 2 ^ 23 % 256 - 1 := by omega
    refine .inr ⟨_, rfl, Int.le_sub_right_of_add_le (by omega), ?_, hbounds⟩
    simp only [fixedOf, dyScaled, hexp, hscale, decide_eq_true_eq, ← not_lt, ite_not]

/-! ### The conditions and the order, on words -/

theorem infinity_pos : (0 : Int) < magnitude 0x7F800000 := by
  exact_mod_cast magnitude_strictMono (show 0 < 0x7F800000 by decide)

/-- R65: of words that are no NaN the model compares the values: infinities by their sign, finite ones in units of 2^-149. -/
theorem lt32_eq32_eq_fixedOf {x y : W32} (hx : isNaNWord x = false) (hy : isNaNWord y = false) :
    lt32 x y = decide (fixedOf x < fixedOf y) ∧ eq32 x y = decide (fixedOf x = fixedOf y) := by
  have hpos := infinity_pos
  obtain ⟨a, ha, hva⟩ | ⟨a, ha, hea, hva, hloa, hhia⟩ := f32_cases hx <;>
    obtain ⟨b, hb, hvb⟩ | ⟨b, hb, heb, hvb, hlob, hhib⟩ := f32_cases hy <;>
    simp only [lt32, eq32, ha, hb]
  · rw [hva, hvb]
    cases a <;> cases b <;> simp <;> omega
  · rw [hva]
    cases a <;> simp <;> omega
  · rw [hvb]
    cases b <;> simp <;> omega
  · rw [dyLt_eq hea heb, dyEq_eq hea heb, hva, hvb]
    exact ⟨rfl, rfl⟩

/-- R65: the model's conditions are those on the values. -/
theorem fcond_eq_compareHolds (cond : BitVec 3) (x y : W32) : fcond cond x y = compareHolds cond x y := by
  simp only [fcond, compareHolds, isNaN32_eq_isNaNWord]
  generalize cond.toNat = code
  cases hun : isNaNWord x || isNaNWord y with
  | true => match code with | 0 | 1 | 2 | 3 | 4 | 5 | 6 | _ + 7 => rfl
  | false =>
    obtain ⟨hx, hy⟩ := Bool.or_eq_false_iff.mp hun
    obtain ⟨hlt, heq⟩ := lt32_eq32_eq_fixedOf hx hy
    obtain ⟨hgt, -⟩ := lt32_eq32_eq_fixedOf hy hx
    rw [hlt, heq, hgt]
    match code with | 0 | 1 | 2 | 3 | 4 | 5 | 6 | _ + 7 => rfl

/-- R63: FMIN's result is the smaller word, FMAX's the larger. -/
theorem fmin32_eq_smallerOf (x y : W32) : fmin32 x y = smallerOf x y := by
  simp only [fmin32, smallerOf, isNaN32_eq_isNaNWord]
  by_cases hnan : (isNaNWord x || isNaNWord y) = true
  · rw [if_pos hnan, if_pos hnan]
    rfl
  rw [if_neg hnan, if_neg hnan]
  obtain hlt | heq | hgt := lt_trichotomy (fixedOf x) (fixedOf y)
  · rw [if_pos hlt, if_neg (orderKey32_lt_of_fixedOf_lt hlt).not_gt]
  · rw [if_neg heq.not_lt, if_neg heq.not_gt]
    obtain rfl | ⟨rfl, rfl⟩ | ⟨rfl, rfl⟩ := eq_or_zeros_of_fixedOf_eq heq
    · rw [if_neg (lt_irrefl _), BitVec.or_self]
    · decide
    · decide
  · rw [if_neg hgt.not_gt, if_pos hgt, if_pos (orderKey32_lt_of_fixedOf_lt hgt)]

theorem fmax32_eq_largerOf (x y : W32) : fmax32 x y = largerOf x y := by
  simp only [fmax32, largerOf, isNaN32_eq_isNaNWord]
  by_cases hnan : (isNaNWord x || isNaNWord y) = true
  · rw [if_pos hnan, if_pos hnan]
    rfl
  rw [if_neg hnan, if_neg hnan]
  obtain hlt | heq | hgt := lt_trichotomy (fixedOf x) (fixedOf y)
  · rw [if_pos hlt, if_pos (orderKey32_lt_of_fixedOf_lt hlt)]
  · rw [if_neg heq.not_lt, if_neg heq.not_gt]
    obtain rfl | ⟨rfl, rfl⟩ | ⟨rfl, rfl⟩ := eq_or_zeros_of_fixedOf_eq heq
    · rw [if_neg (lt_irrefl _), BitVec.and_self]
    · decide
    · decide
  · rw [if_neg hgt.not_gt, if_pos hgt, if_neg (orderKey32_lt_of_fixedOf_lt hgt).not_gt]

/-- R154: FCMP's word is 1 or 0 in all 64 bits. -/
theorem fromLow32_fcmp32 (cond : BitVec 3) (x y : W32) : fromLow32 (fcmp32 cond x y) = boolWord (compareHolds cond x y) := by
  rw [fcmp32, fcond_eq_compareHolds, boolWord]
  split <;> rfl

/-! ### The instructions -/

/-- An instruction whose meaning is a two-operand fp32 form, by register and by literal (R149, R121). -/
theorem writesRegister_fpOp {i : Instr} {f : W32 → W32 → W32} {d a b : Reg} {s : State} (h : exec i s = fpOp f d a b s) (hl : i.size = 4) :
    WritesRegister i d (fromLow32 (f (low32 (s.reg a)) (low32 (s.reg b)))) (s.tag a || s.tag b) s :=
  writesRegister_of h (by rw [hl]; rfl)

theorem writesRegister_fpLit {i : Instr} {f : W32 → W32 → W32} {d a : Reg} {lit : W32} {s : State} (h : exec i s = fpLit f d a lit s)
    (hl : i.size = 8) : WritesRegister i d (fromLow32 (f (low32 (s.reg a)) lit)) (s.tag a) s :=
  writesRegister_of h (by rw [hl]; rfl)

/-- Settles O3: the order of the values is the order of the magnitude bits under the sign (`magnitude_strictMono`), so the model's comparison of
decoded words and its order of words are the comparison and the order of values. -/
theorem floatCompare : Obligations.FloatCompare := by
  intro d a b lit cond s
  simp only [← fromLow32_fcmp32, ← fmin32_eq_smallerOf, ← fmax32_eq_largerOf]
  exact ⟨writesRegister_fpOp rfl rfl, writesRegister_fpLit rfl rfl, writesRegister_fpOp rfl rfl, writesRegister_fpOp rfl rfl,
    writesRegister_fpLit rfl rfl, writesRegister_fpLit rfl rfl⟩

/-! ### Traps and stops (R179, R182) -/

@[simp] theorem State.stopTask_core (cause : Nat) (double : Bool) (s : State) :
    (s.stopTask cause double).core = { s.core with run := .stopped cause double, stalled := false } := by simp [State.stopTask]
@[simp] theorem State.stopTask_mem (cause : Nat) (double : Bool) (s : State) : (s.stopTask cause double).mem = s.mem := by simp [State.stopTask]

/-- R182: a trap under TA = 1 stops the task and writes no frame. -/
theorem State.takeTrap_of_ta {s : State} (ha : s.core.ta = true) (cause : Nat) (async : Bool) (value resume : Word) :
    s.takeTrap cause async value resume = s.stopTask cause true := if_pos ha

/-- R179: a trap without a handler writes the frame and stops the task. -/
theorem State.takeTrap_of_no_handler {s : State} (ha : s.core.ta = false) (hv : s.core.tvec = 0) (cause : Nat) (async : Bool)
    (value resume : Word) :
    s.takeTrap cause async value resume = (s.modCore (Core.trapFrame cause async value resume)).stopTask cause false := by
  rw [State.takeTrap, ha, if_neg Bool.false_ne_true, if_pos hv]

/-- An instruction word with its literal in TVAL (R137). -/
theorem ofNat_word_literal (w lit : W32) : BitVec.ofNat 64 (w.toNat + 2 ^ 32 * lit.toNat) = fromLow32 w + fromLow32 lit <<< 32 := by
  apply BitVec.eq_of_toNat_eq
  simp only [fromLow32, BitVec.toNat_add, BitVec.toNat_shiftLeft, BitVec.toNat_ofNat, BitVec.toNat_setWidth,
    BitVec.truncate_eq_setWidth, Nat.shiftLeft_eq]
  omega

theorem exec_illegalInstruction (w lit : W32) (s : State) :
    exec (.illegalInstruction w lit) s = .next (s.takeTrap 1 false (fromLow32 w + fromLow32 lit <<< 32) s.core.pc) := by
  rw [← ofNat_word_literal]
  rfl

/-- TSTAT as ERET leaves it (R176). -/
theorem tstatOf_return (sla : Bool) : tstatOf sla false = if sla then 2 else 0 := by cases sla <;> rfl

theorem exec_eret_of_ta {s : State} (ha : s.core.ta = true) :
    exec .eret s = .next (s.modCore (fun c => { c.trapReturn with icnt := c.icnt + 1 })) := if_pos ha

theorem exec_eret_of_not_ta {s : State} (ha : s.core.ta = false) :
    exec .eret s = trap 1 (BitVec.ofNat 64 ((encode .eret).headD 0)) s := if_neg (by simp [ha])

/-- Settles O9: ILLEGAL is a trap, which is taken (`traps_of`) or stops the task with the frame written or left; ERET by its two cases of TA. -/
theorem trapEntryAndReturn : Obligations.TrapEntryAndReturn := by
  refine ⟨fun w lit s => ⟨traps_of (exec_illegalInstruction w lit s), fun ha hv => ?_, fun ha => ?_⟩,
    fun s => ⟨fun ha => ⟨_, exec_eret_of_ta ha, rfl, tstatOf_return _, rfl, rfl⟩, fun ha => traps_of (exec_eret_of_not_ta ha) ha⟩⟩
  · rw [exec_illegalInstruction, State.takeTrap_of_no_handler ha hv]
    exact ⟨_, rfl, by simp [hv, State.SameRegs, State.reg, State.tag, tcauseOf]⟩
  · rw [exec_illegalInstruction, State.takeTrap_of_ta ha]
    exact ⟨_, rfl, by simp [State.SameRegs, State.reg, State.tag]⟩

/-! ### Breakpoints and service requests (R170, R171) -/

/-- A quiescence request changes its own fields, the thread's wait and the fabric, nothing else (R105). -/
theorem Core.request_eq (why : QuiesceCause) (cyc : Nat) (c : Core) :
    c.request why cyc = { c with qreq := some why, qcyc := cyc, stalled := false, fab := (c.request why cyc).fab } := by
  unfold Core.request
  split
  · rfl
  · unfold Core.closePorts Core.shutPorts
    dsimp only
    split <;> rfl

/-- What goes on as R168 says is the PC, LCNT and ICNT. -/
theorem State.Advanced.congr {len npc : Word} {s t u : State} (h : s.Advanced len npc t) (hp : u.core.pc = t.core.pc)
    (hl : u.core.lcnt = t.core.lcnt) (hi : u.core.icnt = t.core.icnt) : s.Advanced len npc u := by
  obtain ⟨hgoes, hcloses, hcounted⟩ := h
  exact ⟨by rwa [hp, hl], by rwa [hp, hl], by rwa [hi]⟩

theorem State.advanced_finish (len : Word) (s : State) : s.Advanced len (s.core.pc + len) (s.finish len) :=
  State.advanced_finishAt _ _ _ _ rfl rfl rfl rfl rfl rfl

theorem exec_brk_of_not_debug {s : State} (hd : (s.taskAt s.taskNum).debug = false) (code : BitVec 16) :
    exec (.brk code) s = trap 14 (BitVec.ofNat 64 code.toNat) (s.finish 4) := if_neg (by simp [hd])

theorem exec_brk_of_debug {s : State} (hd : (s.taskAt s.taskNum).debug = true) (code : BitVec 16) :
    exec (.brk code) s = .next ((s.finish 4).modCore (fun c => { c.request .stop s.cyc with stop := some (1, 0xFF, 0xFFFFFF, []) })) := if_pos hd

/-- R171: without a debugger BRK is its completion and then its trap. -/
theorem brk_traps (code : BitVec 16) {s : State} (ha : s.core.ta = false) (hv : s.core.tvec ≠ 0)
    (hd : (s.taskAt s.taskNum).debug = false) :
    ∃ t u, s.Advanced 4 (s.core.pc + 4) u ∧ s.Frame u ∧ exec (.brk code) s = .next t ∧ u.Trapped 14 (BitVec.ofNat 64 code.toNat) t :=
  ⟨_, s.finish 4, s.advanced_finish 4, s.frame_finishAt _ _, exec_brk_of_not_debug hd code, trapped_of ha hv⟩

/-- R171: with a debugger BRK is its completion and a request for a precise stop. -/
theorem brk_requests_stop (code : BitVec 16) {s : State} (hd : (s.taskAt s.taskNum).debug = true) :
    ∃ t, exec (.brk code) s = .next t ∧ t.core.qreq = some .stop ∧ s.Advanced 4 (s.core.pc + 4) t ∧ t.core.tcause = s.core.tcause ∧
      s.SameRegs t := by
  refine ⟨_, exec_brk_of_debug hd code, ?_⟩
  rw [State.modCore, Core.request_eq]
  exact ⟨rfl, (s.advanced_finish 4).congr rfl rfl rfl, rfl, fun _ => ⟨rfl, rfl⟩⟩

/-- A task's record after a change of the own task. -/
theorem State.taskAt_modOwnTask {s : State} {n : Nat} {k : Task} (hn : s.core.task = some n) (hk : Map.find s.tasks n = some k)
    (f : Task → Task) : (s.modOwnTask f).taskAt n = f k := by
  simp [State.modOwnTask, hn, State.modTask, hk, State.taskAt]

theorem mem_servedCodes {c : Nat} : c ∈ servedCodes ↔ 1 ≤ c ∧ c ≤ 10 := by
  simp only [servedCodes, List.mem_cons, List.not_mem_nil, or_false]
  omega

/-- A written register stays so while the register file stands. -/
theorem State.Wrote.congr {d : Reg} {v : Word} {e : Bool} {s t u : State} (h : s.Wrote d v e t) (hr : u.core.regs = t.core.regs)
    (he : u.core.etag = t.core.etag) : s.Wrote d v e u := by
  obtain ⟨hv, htag, hothers⟩ := h
  refine ⟨?_, ?_, fun r hne => ?_⟩
  · rw [State.reg_congr hr, hv]
  · rw [State.tag_congr he, htag]
  · rw [State.reg_congr hr, State.tag_congr he]
    exact hothers r hne

/-- What a TRAP sends to Hythen (R170). -/
def State.serviceRequest (code : BitVec 16) (s : State) : Nat × List Word :=
  (code.toNat, [s.reg 1, s.reg 2, s.reg 3, s.reg 4, s.reg 5, s.reg 6])

section Requests
variable {code : BitVec 16} {s : State} (hexact : ∀ r ∈ ([1, 2, 3, 4, 5, 6] : List Reg), s.tag r = false)
include hexact

theorem exec_trap_of_unserved (hc : code = 0 ∨ 10 < code.toNat) :
    exec (.trap code) s = .next ((s.setReg 1 0xFFFFFFFFFFFFFFFF false).finish 4) := by
  have hno : code.toNat ∉ servedCodes := by
    rw [mem_servedCodes]
    obtain rfl | hc := hc
    · simp
    · omega
  exact (guardExact_of hexact).trans (if_pos (by simpa using hno))

variable (hserved : code.toNat ∈ servedCodes)
include hserved

theorem exec_trap_of_new (hreq : (s.taskAt s.taskNum).request = none) :
    exec (.trap code) s = stall ((s.modCore (fun c => { c with wait := .service })).modOwnTask
      (fun k => { k with request := some (s.serviceRequest code), reply := none })) := by
  refine (guardExact_of hexact).trans ?_
  simp [hserved, hreq, State.serviceRequest]

theorem exec_trap_of_replied {x : Word} (hreq : (s.taskAt s.taskNum).request = some (s.serviceRequest code))
    (hrep : (s.taskAt s.taskNum).reply = some x) :
    exec (.trap code) s =
      .next (((s.setReg 1 x false).finish 4).modOwnTask (fun k => { k with reply := none, request := none })) := by
  refine (guardExact_of hexact).trans ?_
  simp [hserved, hreq, hrep, State.serviceRequest]

variable {n : Nat} (hn : s.core.task = some n) (hfind : Map.find s.tasks n = some (s.taskAt n))
include hn hfind

/-- R170: a served code's first issue sends its request and waits. -/
theorem trap_sends_request (hreq : (s.taskAt n).request = none) :
    ∃ t, exec (.trap code) s = .next t ∧ t.core.pc = s.core.pc ∧ t.core.wait = .service ∧ s.SameRegs t ∧
      (t.taskAt n).request = some (s.serviceRequest code) := by
  have hnum : s.taskNum = n := by rw [State.taskNum, hn]; rfl
  refine ⟨_, exec_trap_of_new hexact hserved (by rw [hnum, hreq]), ?_, ?_, fun r => ⟨?_, ?_⟩, ?_⟩
  · simp
  · simp
  · exact State.reg_congr (by simp) r
  · exact State.tag_congr (by simp) r
  · exact congrArg Task.request (State.taskAt_modOwnTask (s := s.modCore (fun c => { c with wait := .service })) hn hfind _)

/-- R170: the reply to the same request goes to g1, and the thread goes on. -/
theorem trap_takes_reply {x : Word} (hreq : (s.taskAt n).request = some (s.serviceRequest code)) (hrep : (s.taskAt n).reply = some x) :
    ∃ t, exec (.trap code) s = .next t ∧ s.Wrote 1 x false t ∧ s.Advanced 4 (s.core.pc + 4) t ∧ (t.taskAt n).request = none ∧
      t.core.tcause = s.core.tcause ∧ ∀ pa, t.memByte pa = s.memByte pa := by
  have hnum : s.taskNum = n := by rw [State.taskNum, hn]; rfl
  have hadv : s.Advanced 4 (s.core.pc + 4) ((s.setReg 1 x false).finish 4) :=
    State.advanced_finishAt 4 _ s (s.setReg 1 x false) rfl rfl rfl rfl rfl rfl
  refine ⟨_, exec_trap_of_replied hexact hserved (by rw [hnum, hreq]) (by rw [hnum, hrep]), ?_, ?_, ?_, ?_, fun pa => ?_⟩
  · exact (s.wrote_setReg 1 x false).congr (by simp [State.finish]) (by simp [State.finish])
  · exact hadv.congr (by simp) (by simp) (by simp)
  · exact congrArg Task.request (State.taskAt_modOwnTask (s := (s.setReg 1 x false).finish 4) hn hfind _)
  · simp [State.finish]
  · simp [State.memByte, State.finish]

end Requests

/-- Settles O12: BRK by its two cases of a debugger; TRAP by whether the code is served and whether its reply stands. -/
theorem softwareTraps : Obligations.SoftwareTraps := by
  refine ⟨fun code s => ⟨brk_traps code, brk_requests_stop code⟩, fun code n k s hexact => ⟨fun hc => ?_, fun h1 h10 hn hfind hget => ?_⟩⟩
  · exact writesRegister_of (exec_trap_of_unserved hexact hc) rfl
  · subst hget
    have hserved := mem_servedCodes.mpr ⟨h1, h10⟩
    exact ⟨trap_sends_request hexact hserved hn hfind, fun x => trap_takes_reply hexact hserved hn hfind⟩

end Sys2Proof.Machine
end
